-- ==== Sys2Proof/Word.lean ====
section
/-! DEFINITION. The word types of the AQ-840 model, sparse tables, and the names of the agents that act. -/

namespace Sys2Proof

/-- A byte, the unit of every memory (R9). -/
abbrev Byte := BitVec 8

/-- A 32-bit lane or instruction word (R9). -/
abbrev Word32 := BitVec 32

/-- A 64-bit register image (R9). -/
abbrev Word64 := BitVec 64

/-- A sparse table: keys in rising order; a key that is not listed holds the default its reader names. -/
abbrev Tbl (α : Type) := List (Nat × α)

/-- The entry of key `k`, or the default. -/
def Tbl.get {α : Type} (dflt : α) : Tbl α → Nat → α
  | [], _ => dflt
  | (k', v) :: r, k => if k = k' then v else Tbl.get dflt r k

/-- `m` with entry `k` set to `v`, in key order. -/
def Tbl.put {α : Type} : Tbl α → Nat → α → Tbl α
  | [], k, v => [(k, v)]
  | (k', v') :: r, k, v =>
    if k < k' then (k, v) :: (k', v') :: r
    else if k = k' then (k, v) :: r
    else (k', v') :: Tbl.put r k v

/-- `m` without entry `k`. -/
def Tbl.erase {α : Type} (m : Tbl α) (k : Nat) : Tbl α :=
  m.filter (fun e => e.1 != k)

/-- The eight 32-bit lanes of a token payload, a temporary or a cell input (R20, R82). -/
structure Lanes where
  l0 : Word32
  l1 : Word32
  l2 : Word32
  l3 : Word32
  l4 : Word32
  l5 : Word32
  l6 : Word32
  l7 : Word32
  deriving DecidableEq, Repr

/-- Lane `i`; a lane number above 7 reads zero. -/
def Lanes.get (v : Lanes) : Nat → Word32
  | 0 => v.l0 | 1 => v.l1 | 2 => v.l2 | 3 => v.l3
  | 4 => v.l4 | 5 => v.l5 | 6 => v.l6 | 7 => v.l7
  | _ => 0

/-- The lanes whose lane `i` is `f i`. -/
def Lanes.ofFn (f : Nat → Word32) : Lanes :=
  ⟨f 0, f 1, f 2, f 3, f 4, f 5, f 6, f 7⟩

/-- All lanes zero. -/
def Lanes.zero : Lanes := ⟨0, 0, 0, 0, 0, 0, 0, 0⟩

/-- The lanes in ascending order. -/
def Lanes.toList (v : Lanes) : List Word32 :=
  [v.l0, v.l1, v.l2, v.l3, v.l4, v.l5, v.l6, v.l7]

/-- Lanes 0 upward from a list; missing lanes are zero. -/
def Lanes.ofList (l : List Word32) : Lanes := Lanes.ofFn (fun i => l.getD i 0)

/-- Lanes 1 and 0 read as one 64-bit scalar, lane 0 low (R83). -/
def Lanes.scalar (v : Lanes) : Word64 := v.l1 ++ v.l0

/-- A scalar result in lanes 1 and 0, lanes 7 to 2 zero (R83). -/
def Lanes.ofScalar (x : Word64) : Lanes :=
  ⟨x.extractLsb' 0 32, x.extractLsb' 32 32, 0, 0, 0, 0, 0, 0⟩

/-- Who runs the next unit. Core `k` is isle `k mod 16` of C-die `k div 16` (R4); cell `t` is the cell of tile
`(x, y)` of C-die `d` with `t = 2048 d + 64 y + x` (R4, R5). -/
inductive Runner where
  | core (k : Nat)
  | cell (t : Nat)
  deriving DecidableEq, Repr

/-- An agent of the memory order, with its own logical time (R205). `sched` and `security` are the launch scheduler
and the security engine, which make COH accesses of their own (R339, R437); `binding k` is the binding of isle `k` at its
die's port. -/
inductive Agent where
  | core (k : Nat)
  | cell (t : Nat)
  | memop (t : Nat)
  | engine (k : Nat)
  | fetch (t : Nat)
  | binding (k : Nat)
  | host (h : Nat)
  | sched
  | security
  deriving DecidableEq, Repr

/-- What a host core asks of the lease bridge, with its size code (R226); a compare-and-swap carries the compared value. -/
inductive HostOp where
  | load (z : BitVec 2)
  | store (z : BitVec 2)
  | amo (z : BitVec 2) (o : BitVec 4)
  | cas (z : BitVec 2) (c : BitVec 64)
  deriving DecidableEq, Repr

/-- The smallest unit whose state a soft error reaches (R432). -/
inductive ErrUnit where
  | job (c : Nat) (j : Nat)
  | isle (k : Nat)
  | die (d : Nat)
  deriving DecidableEq, Repr

end Sys2Proof
end

