-- ==== Sys2Proof/Config.lean ====
section
/-! DEFINITION. What an implementation fixes, and the free values: constants without a body, of which no proof can see
a value (R13, R16). -/

namespace Sys2Proof

/-- Cycles that pass during one step of the model; the spec gives control-core units no length (log entry 4). -/
opaque Config.elapsed : Nat → BitVec 16

/-- Microseconds that pass during one step of the model, for the times of R329 (log entry 4). -/
opaque Config.micros : Nat → BitVec 16

/-- R180: whether a FIFO bank that takes no new entries has been drained while its context's other FIFO banks hold entries
(log entry 19). -/
opaque Config.bankDrained : Nat → Nat → Bool

/-- R95: whether a fetched halfword that the core stored since its last FENCE.ACQREL is still the old one. -/
opaque Config.fetchesOld : Nat → Bool

/-- R280: the trap value that holds the two format codes of a pair; the manual does not place them (log entry 12). -/
opaque Config.pairTval : BitVec 4 → BitVec 4 → Word64

/-- R296: FRAME and ITER of a block token whose elements came from tokens with different tags; the manual gives none
(log entry 13). -/
opaque Config.mixedTag : Nat → Nat → Nat

/-- R287: what an event counter reads past 2^32 − 1 where the manual does not say that it saturates (log entry 14). -/
opaque Config.counterPast : Nat → BitVec 32

/-- R418: ITER of a port's GAP token, which the manual does not give (log entry 15). -/
opaque Config.gapIter : Nat → Nat

/-- R278: FRAME of the tokens of a release, and ITER of its ERR and EOR tokens, which the manual does not give (log
entry 17). -/
opaque Config.releaseFrame : Nat → Nat

/-- R278: ITER of the ERR and EOR tokens of a release (log entry 17). -/
opaque Config.releaseIter : Nat → Nat

/-- R149: the verdict, 1 or 2 unpredictably, when the signed bytes change under a verification. -/
opaque Config.freeBit : Nat → Bool

/-- R437: part number and serial (16 bytes) and the firmware digest (32 bytes) of the part. -/
opaque Config.identity : Nat → Byte

/-- R437: the ECDSA P-384 signature by the part's identity key over the given bytes, 96 bytes. -/
opaque Config.attest : List Byte → Nat → Byte

/-- R13, R236: the virtual address whose byte a copy writes where its source and destination bytes overlap (log entry
36). -/
opaque Config.overlapFrom : Nat → Nat → Word64

/-- R180: which of the banks that may take it receives a line that an isle L2 fills; the spec gives the L2 no geometry (log
entry 19). -/
opaque Config.bankOfLine : Nat → Nat → Nat

/-- R436: the module power that PMEAS measures (log entry 22). -/
opaque Config.power : Nat → BitVec 16

/-- R176, R427: the element count less 1 of input 1 of a resumed task, which its record does not hold (log entry 21). -/
opaque Config.resumedLen : Nat → BitVec 3

/-- R401: the length in bytes of a page's tile images in a snapshot area, which are private to the device. -/
opaque Config.snapSize : Nat → BitVec 20

/-- R401: the bytes of a snapshot's page header and tile images, whose layouts the manual does not give. -/
opaque Config.snapByte : Nat → Nat → Byte

/-- R434: the boot address that firmware writes is BOOTPC; the isle count of a die (R4). -/
def Config.islesPerDie : Nat := 16

/-- The bytes of GDDR 7 of a C-die, 72 GiB (R1, R8). -/
def Config.gddr : Nat := 72 * 2 ^ 30

/-- The application cores of the H-die (R1). -/
def Config.hostCores : Nat := 16

/-- Guest-physical base of the device window (R435). -/
def Config.window : Nat := 0xFFF0000000000

/-- The H-die management block (R435). -/
def Config.mgmtBase : Nat := 0xFFF0004000000

/-- The Machine register blocks (R194). -/
def Config.machineBase : Nat := 0xFFF0005000000

/-- Device-window address of the first capability record (R440, log entry 5). -/
def Config.capBase : Nat := 0xFFF0004008000

end Sys2Proof
end

