-- ==== Sys2Proof/Syntax.lean ====
section
/-! DEFINITION. The syntax: one constructor per row of spec/opcode_table.json. A constructor of an encoded
instruction holds every bit of its format that does not name the instruction: the fields of the table under the
table's letters, and the reserved bits as v0, v1, v2 from high to low (R87). The rows without an encoding are the
steps of the other agents; their operands name the agent, and what reaches it from outside. -/

namespace Sys2Proof

/-- The instructions and steps of the AQ-840. -/
inductive Instr where
  /-- ADD (R126): Writes the wrapped 64-bit sum of ra and rb to rd. -/
  | add (d : BitVec 5) (a : BitVec 5) (b : BitVec 5) (v0 : BitVec 5)
  /-- SUB (R126): Writes the wrapped difference ra minus rb to rd. -/
  | sub (d : BitVec 5) (a : BitVec 5) (b : BitVec 5) (v0 : BitVec 5)
  /-- MUL (R126): Writes the low 64 bits of the product of ra and rb to rd. -/
  | mul (d : BitVec 5) (a : BitVec 5) (b : BitVec 5) (v0 : BitVec 5)
  /-- MULH (R126): Writes the high 64 bits of the signed product to rd. -/
  | mulh (d : BitVec 5) (a : BitVec 5) (b : BitVec 5) (v0 : BitVec 5)
  /-- MULHN (R126): Writes the high 64 bits of the unsigned product to rd. -/
  | mulhn (d : BitVec 5) (a : BitVec 5) (b : BitVec 5) (v0 : BitVec 5)
  /-- DIV (R126): Signed division truncating toward zero; raises DIV_ZERO for a zero divisor. -/
  | div (d : BitVec 5) (a : BitVec 5) (b : BitVec 5) (v0 : BitVec 5)
  /-- DIVN (R126): Unsigned division; raises DIV_ZERO for a zero divisor. -/
  | divn (d : BitVec 5) (a : BitVec 5) (b : BitVec 5) (v0 : BitVec 5)
  /-- REM (R126): Signed remainder; raises DIV_ZERO for a zero divisor. -/
  | rem (d : BitVec 5) (a : BitVec 5) (b : BitVec 5) (v0 : BitVec 5)
  /-- REMN (R126): Unsigned remainder; raises DIV_ZERO for a zero divisor. -/
  | remn (d : BitVec 5) (a : BitVec 5) (b : BitVec 5) (v0 : BitVec 5)
  /-- AND (R126): Bitwise AND of ra and rb into rd. -/
  | and (d : BitVec 5) (a : BitVec 5) (b : BitVec 5) (v0 : BitVec 5)
  /-- OR (R126): Bitwise OR of ra and rb into rd. -/
  | or (d : BitVec 5) (a : BitVec 5) (b : BitVec 5) (v0 : BitVec 5)
  /-- XOR (R126): Bitwise XOR of ra and rb into rd. -/
  | xor (d : BitVec 5) (a : BitVec 5) (b : BitVec 5) (v0 : BitVec 5)
  /-- SHL (R126): Shifts ra left by rb[5:0], wrapping. -/
  | shl (d : BitVec 5) (a : BitVec 5) (b : BitVec 5) (v0 : BitVec 5)
  /-- SHR (R126): Shifts ra right logically by rb[5:0]. -/
  | shr (d : BitVec 5) (a : BitVec 5) (b : BitVec 5) (v0 : BitVec 5)
  /-- SRA (R126): Shifts ra right arithmetically by rb[5:0]. -/
  | sra (d : BitVec 5) (a : BitVec 5) (b : BitVec 5) (v0 : BitVec 5)
  /-- ROTR (R126): Rotates ra right by rb[5:0]. -/
  | rotr (d : BitVec 5) (a : BitVec 5) (b : BitVec 5) (v0 : BitVec 5)
  /-- MIN (R126): Signed minimum of ra and rb. -/
  | min (d : BitVec 5) (a : BitVec 5) (b : BitVec 5) (v0 : BitVec 5)
  /-- MAX (R126): Signed maximum of ra and rb. -/
  | max (d : BitVec 5) (a : BitVec 5) (b : BitVec 5) (v0 : BitVec 5)
  /-- MINN (R126): Unsigned minimum of ra and rb. -/
  | minn (d : BitVec 5) (a : BitVec 5) (b : BitVec 5) (v0 : BitVec 5)
  /-- MAXN (R126): Unsigned maximum of ra and rb. -/
  | maxn (d : BitVec 5) (a : BitVec 5) (b : BitVec 5) (v0 : BitVec 5)
  /-- SEQ (R126): Writes 1 if ra equals rb, else 0. -/
  | seq (d : BitVec 5) (a : BitVec 5) (b : BitVec 5) (v0 : BitVec 5)
  /-- SLT (R126): Writes 1 if ra is signed-less than rb, else 0. -/
  | slt (d : BitVec 5) (a : BitVec 5) (b : BitVec 5) (v0 : BitVec 5)
  /-- SLTN (R126): Writes 1 if ra is unsigned-less than rb, else 0. -/
  | sltn (d : BitVec 5) (a : BitVec 5) (b : BitVec 5) (v0 : BitVec 5)
  /-- SEL (R126): Writes ra if rc is nonzero, else rb. -/
  | sel (d : BitVec 5) (a : BitVec 5) (b : BitVec 5) (c : BitVec 5)
  /-- ADDS (R126): Saturating signed add; may raise INT_OVERFLOW with status.IOE. -/
  | adds (d : BitVec 5) (a : BitVec 5) (b : BitVec 5) (v0 : BitVec 5)
  /-- NEG (R127): Writes the wrapped negation of ra. -/
  | neg (d : BitVec 5) (a : BitVec 5) (v0 : BitVec 10)
  /-- CLZ (R127): Counts leading zero bits of ra. -/
  | clz (d : BitVec 5) (a : BitVec 5) (v0 : BitVec 10)
  /-- CTZ (R127): Counts trailing zero bits of ra. -/
  | ctz (d : BitVec 5) (a : BitVec 5) (v0 : BitVec 10)
  /-- POPC (R127): Counts one bits of ra. -/
  | popc (d : BitVec 5) (a : BitVec 5) (v0 : BitVec 10)
  /-- MOV (R127): Copies ra to rd. -/
  | mov (d : BitVec 5) (a : BitVec 5) (v0 : BitVec 10)
  /-- SEXT (R127): Sign-extends the low byte, halfword or word of ra selected by RB. -/
  | sext (d : BitVec 5) (a : BitVec 5) (z : BitVec 5) (v0 : BitVec 5)
  /-- ZEXT (R127): Zero-extends the low byte, halfword or word of ra selected by RB. -/
  | zext (d : BitVec 5) (a : BitVec 5) (z : BitVec 5) (v0 : BitVec 5)
  /-- ADDI (R128): Adds a sign-extended immediate to ra. -/
  | addi (d : BitVec 5) (a : BitVec 5) (i : BitVec 12)
  /-- ANDI (R128): Bitwise AND of ra with an immediate. -/
  | andi (d : BitVec 5) (a : BitVec 5) (i : BitVec 12)
  /-- ORI (R128): Bitwise OR of ra with an immediate. -/
  | ori (d : BitVec 5) (a : BitVec 5) (i : BitVec 12)
  /-- XORI (R128): Bitwise XOR of ra with an immediate. -/
  | xori (d : BitVec 5) (a : BitVec 5) (i : BitVec 12)
  /-- SLTI (R128): Writes 1 if ra is signed-less than the immediate. -/
  | slti (d : BitVec 5) (a : BitVec 5) (i : BitVec 12)
  /-- SHLI (R128): Shifts ra left by a 6-bit immediate. -/
  | shli (d : BitVec 5) (a : BitVec 5) (n : BitVec 6) (v0 : BitVec 6)
  /-- SHRI (R128): Shifts ra right logically by a 6-bit immediate. -/
  | shri (d : BitVec 5) (a : BitVec 5) (n : BitVec 6) (v0 : BitVec 6)
  /-- SRAI (R128): Shifts ra right arithmetically by a 6-bit immediate. -/
  | srai (d : BitVec 5) (a : BitVec 5) (n : BitVec 6) (v0 : BitVec 6)
  /-- BFX (R129): Extracts a bit field of ra zero-extended into rd. -/
  | bfx (d : BitVec 5) (a : BitVec 5) (p : BitVec 6) (l : BitVec 6)
  /-- BFI (R129): Inserts the low bits of ra into a field of rd. -/
  | bfi (d : BitVec 5) (a : BitVec 5) (p : BitVec 6) (l : BitVec 6)
  /-- LI (R130): Loads a sign-extended 20-bit immediate into rd. -/
  | li (d : BitVec 5) (i : BitVec 20)
  /-- LIH (R130): Shifts rd left and appends a zero-extended immediate. -/
  | lih (d : BitVec 5) (i : BitVec 20)
  /-- BEQ (R132): Branches when ra equals rb. -/
  | beq (a : BitVec 5) (b : BitVec 5) (o : BitVec 12)
  /-- BNE (R132): Branches when ra differs from rb. -/
  | bne (a : BitVec 5) (b : BitVec 5) (o : BitVec 12)
  /-- BLT (R132): Branches when ra is signed-less than rb. -/
  | blt (a : BitVec 5) (b : BitVec 5) (o : BitVec 12)
  /-- BGE (R132): Branches when ra is signed-greater or equal to rb. -/
  | bge (a : BitVec 5) (b : BitVec 5) (o : BitVec 12)
  /-- BLTN (R132): Branches when ra is unsigned-less than rb. -/
  | bltn (a : BitVec 5) (b : BitVec 5) (o : BitVec 12)
  /-- BGEN (R132): Branches when ra is unsigned-greater or equal to rb. -/
  | bgen (a : BitVec 5) (b : BitVec 5) (o : BitVec 12)
  /-- BZ (R132): Branches when ra is zero. -/
  | bz (a : BitVec 5) (o : BitVec 12) (v0 : BitVec 5)
  /-- BNZ (R132): Branches when ra is nonzero. -/
  | bnz (a : BitVec 5) (o : BitVec 12) (v0 : BitVec 5)
  /-- JAL (R133): Writes the return address to rd and jumps by a halfword offset. -/
  | jal (d : BitVec 5) (o : BitVec 20)
  /-- JR (R133): Jumps to ra plus an immediate, writing the return address to rd. -/
  | jr (d : BitVec 5) (a : BitVec 5) (i : BitVec 12)
  /-- LOOP (R134): Opens a hardware loop level with count ra and end label. -/
  | loop (d : BitVec 5) (a : BitVec 5) (i : BitVec 12)
  /-- HALT (R137): Completes and stops issue until an allowed asynchronous cause or isle reset. -/
  | halt (v0 : BitVec 10) (v1 : BitVec 12)
  /-- FADD (R139): FP32 addition rounded once in fcsr.RM. -/
  | fadd (d : BitVec 5) (a : BitVec 5) (b : BitVec 5) (v0 : BitVec 5)
  /-- FSUB (R139): FP32 subtraction. -/
  | fsub (d : BitVec 5) (a : BitVec 5) (b : BitVec 5) (v0 : BitVec 5)
  /-- FMUL (R139): FP32 multiplication. -/
  | fmul (d : BitVec 5) (a : BitVec 5) (b : BitVec 5) (v0 : BitVec 5)
  /-- FFMA (R139): FP32 fused multiply-add rounded once. -/
  | ffma (d : BitVec 5) (a : BitVec 5) (b : BitVec 5) (c : BitVec 5)
  /-- FDIV (R139): FP32 division. -/
  | fdiv (d : BitVec 5) (a : BitVec 5) (b : BitVec 5) (v0 : BitVec 5)
  /-- FSQRT (R139): FP32 square root. -/
  | fsqrt (d : BitVec 5) (a : BitVec 5) (v0 : BitVec 10)
  /-- FMIN (R139): FP32 minimumNumber. -/
  | fmin (d : BitVec 5) (a : BitVec 5) (b : BitVec 5) (v0 : BitVec 5)
  /-- FMAX (R139): FP32 maximumNumber. -/
  | fmax (d : BitVec 5) (a : BitVec 5) (b : BitVec 5) (v0 : BitVec 5)
  /-- FEQ (R139): Quiet FP32 equality comparison giving 1 or 0. -/
  | feq (d : BitVec 5) (a : BitVec 5) (b : BitVec 5) (v0 : BitVec 5)
  /-- FLT (R139): Ordered FP32 less-than comparison. -/
  | flt (d : BitVec 5) (a : BitVec 5) (b : BitVec 5) (v0 : BitVec 5)
  /-- FLE (R139): Ordered FP32 less-or-equal comparison. -/
  | fle (d : BitVec 5) (a : BitVec 5) (b : BitVec 5) (v0 : BitVec 5)
  /-- FCLASS (R140): Writes a one-hot class mask of the FP32 operand. -/
  | fclass (d : BitVec 5) (a : BitVec 5) (v0 : BitVec 10)
  /-- FMV (R139): Moves the low 32 bits of ra zero-extended, with no flags. -/
  | fmv (d : BitVec 5) (a : BitVec 5) (v0 : BitVec 10)
  /-- FCVT (R141): Converts between scalar formats coded in the immediate. -/
  | fcvt (d : BitVec 5) (a : BitVec 5) (s : BitVec 4) (t : BitVec 4) (v0 : BitVec 4)
  /-- LD (R196): Loads and sign-extends a value of size SZ from global memory. -/
  | ld (t : BitVec 5) (a : BitVec 5) (z : BitVec 3) (o : BitVec 11)
  /-- LDN (R196): Loads and zero-extends a value from global memory. -/
  | ldn (t : BitVec 5) (a : BitVec 5) (z : BitVec 3) (o : BitVec 11)
  /-- ST (R196): Stores the low bytes of rt to global memory. -/
  | st (t : BitVec 5) (a : BitVec 5) (z : BitVec 3) (o : BitVec 11)
  /-- PREF (R197): Asks that a line be brought into the isle L2, never faulting. -/
  | pref (w : BitVec 1) (a : BitVec 5) (o : BitVec 11) (v0 : BitVec 4) (v1 : BitVec 3)
  /-- LDA (R198): Load with acquire ordering at SYS scope. -/
  | lda (t : BitVec 5) (a : BitVec 5) (z : BitVec 3) (o : BitVec 11)
  /-- STL (R198): Store with release ordering at SYS scope. -/
  | stl (t : BitVec 5) (a : BitVec 5) (z : BitVec 3) (o : BitVec 11)
  /-- AMO (R199): Indivisible read-modify-write at the line's home, returning the old value. -/
  | amo (d : BitVec 5) (a : BitVec 5) (b : BitVec 5) (z : BitVec 2) (o : BitVec 5) (v0 : BitVec 3)
  /-- CAS (R199): Compare-and-swap at the line's home with rd as the compare value. -/
  | cas (d : BitVec 5) (a : BitVec 5) (b : BitVec 5) (z : BitVec 2) (v0 : BitVec 3)
  /-- LDS (R201): Loads from the isle scratchpad. -/
  | lds (t : BitVec 5) (a : BitVec 5) (z : BitVec 3) (o : BitVec 11)
  /-- STS (R201): Stores to the isle scratchpad. -/
  | sts (t : BitVec 5) (a : BitVec 5) (z : BitVec 3) (o : BitVec 11)
  /-- AMOS (R202): Indivisible atomic on a scratchpad word at its bank. -/
  | amos (d : BitVec 5) (a : BitVec 5) (b : BitVec 5) (z : BitVec 2) (o : BitVec 5) (v0 : BitVec 3)
  /-- TSB (R202): Test-and-set of a scratchpad bit. -/
  | tsb (d : BitVec 5) (a : BitVec 5) (b : BitVec 5) (v0 : BitVec 5)
  /-- TCB (R202): Test-and-clear of a scratchpad bit. -/
  | tcb (d : BitVec 5) (a : BitVec 5) (b : BitVec 5) (v0 : BitVec 5)
  /-- FENCE (R200): Orders the agent's accesses and performs cache actions for its kind and scope. -/
  | fence (k : BitVec 2) (s : BitVec 3) (v0 : BitVec 15)
  /-- OWN_DECL (R203): Declares a scratchpad buffer and writes its header. -/
  | ownDecl (d : BitVec 5) (a : BitVec 5) (b : BitVec 5) (v0 : BitVec 3)
  /-- OWN_GIVE (R203): Gives a CORE-owned buffer to an engine. -/
  | ownGive (d : BitVec 5) (a : BitVec 5) (b : BitVec 5) (v0 : BitVec 3)
  /-- OWN_TAKE (R203): Takes an unreferenced engine-owned buffer back to CORE. -/
  | ownTake (d : BitVec 5) (a : BitVec 5) (v0 : BitVec 8)
  /-- OWN_DROP (R203): Removes an unreferenced CORE-owned buffer from the directory. -/
  | ownDrop (d : BitVec 5) (a : BitVec 5) (v0 : BitVec 8)
  /-- VADD (R170): Lane-wise addition. -/
  | vadd (d : BitVec 5) (a : BitVec 5) (b : BitVec 5) (q : BitVec 1) (t : BitVec 4)
  /-- VSUB (R170): Lane-wise subtraction. -/
  | vsub (d : BitVec 5) (a : BitVec 5) (b : BitVec 5) (q : BitVec 1) (t : BitVec 4)
  /-- VMUL (R170): Lane-wise multiplication. -/
  | vmul (d : BitVec 5) (a : BitVec 5) (b : BitVec 5) (q : BitVec 1) (t : BitVec 4)
  /-- VFMA (R170): Lane-wise fused multiply-add with rd as addend. -/
  | vfma (d : BitVec 5) (a : BitVec 5) (b : BitVec 5) (q : BitVec 1) (t : BitVec 4)
  /-- VMIN (R170): Lane-wise minimum. -/
  | vmin (d : BitVec 5) (a : BitVec 5) (b : BitVec 5) (q : BitVec 1) (t : BitVec 4)
  /-- VMAX (R170): Lane-wise maximum. -/
  | vmax (d : BitVec 5) (a : BitVec 5) (b : BitVec 5) (q : BitVec 1) (t : BitVec 4)
  /-- VABS (R170): Lane-wise absolute value. -/
  | vabs (d : BitVec 5) (a : BitVec 5) (q : BitVec 1) (t : BitVec 4) (v0 : BitVec 5)
  /-- VNEG (R170): Lane-wise negation. -/
  | vneg (d : BitVec 5) (a : BitVec 5) (q : BitVec 1) (t : BitVec 4) (v0 : BitVec 5)
  /-- VAND (R170): Lane-wise bitwise AND. -/
  | vand (d : BitVec 5) (a : BitVec 5) (b : BitVec 5) (t : BitVec 4) (v0 : BitVec 1)
  /-- VOR (R170): Lane-wise bitwise OR. -/
  | vor (d : BitVec 5) (a : BitVec 5) (b : BitVec 5) (t : BitVec 4) (v0 : BitVec 1)
  /-- VXOR (R170): Lane-wise bitwise XOR. -/
  | vxor (d : BitVec 5) (a : BitVec 5) (b : BitVec 5) (t : BitVec 4) (v0 : BitVec 1)
  /-- VSHL (R170): Lane-wise shift left. -/
  | vshl (d : BitVec 5) (a : BitVec 5) (b : BitVec 5) (t : BitVec 4) (v0 : BitVec 1)
  /-- VSHR (R170): Lane-wise logical shift right. -/
  | vshr (d : BitVec 5) (a : BitVec 5) (b : BitVec 5) (t : BitVec 4) (v0 : BitVec 1)
  /-- VSRA (R170): Lane-wise arithmetic shift right. -/
  | vsra (d : BitVec 5) (a : BitVec 5) (b : BitVec 5) (t : BitVec 4) (v0 : BitVec 1)
  /-- VSEL (R171): Selects whole lanes of ra or rb by the lanes of rd. -/
  | vsel (d : BitVec 5) (a : BitVec 5) (b : BitVec 5) (t : BitVec 4) (v0 : BitVec 1)
  /-- VRED (R172): Reduces the eight lanes in a fixed tree order into lane 0. -/
  | vred (d : BitVec 5) (a : BitVec 5) (q : BitVec 1) (t : BitVec 4) (v0 : BitVec 5)
  /-- VRCP (R173): Correctly rounded reciprocal per lane. -/
  | vrcp (d : BitVec 5) (a : BitVec 5) (t : BitVec 4) (v0 : BitVec 6)
  /-- VRSQ (R173): Correctly rounded reciprocal square root per lane. -/
  | vrsq (d : BitVec 5) (a : BitVec 5) (t : BitVec 4) (v0 : BitVec 6)
  /-- VEXP2 (R173): Correctly rounded base-2 exponential per lane. -/
  | vexp2 (d : BitVec 5) (a : BitVec 5) (t : BitVec 4) (v0 : BitVec 6)
  /-- VLOG2 (R173): Correctly rounded base-2 logarithm per lane. -/
  | vlog2 (d : BitVec 5) (a : BitVec 5) (t : BitVec 4) (v0 : BitVec 6)
  /-- VCMP (R171): Lane-wise comparison with the relation in FN writing an all-ones mask. -/
  | vcmp (d : BitVec 5) (a : BitVec 5) (b : BitVec 5) (q : BitVec 1) (t : BitVec 4) (r : BitVec 3)
  /-- VCVT (R174): Converts each lane from TY to the destination format. -/
  | vcvt (d : BitVec 5) (a : BitVec 5) (e : BitVec 4) (t : BitVec 4) (v0 : BitVec 1) (v1 : BitVec 1)
  /-- VPACK (R175): Packs 16- or 8-bit elements from two registers. -/
  | vpack (d : BitVec 5) (a : BitVec 5) (b : BitVec 5) (t : BitVec 4) (v0 : BitVec 1)
  /-- VUNPK (R175): Unpacks a group of packed elements into lanes. -/
  | vunpk (d : BitVec 5) (a : BitVec 5) (b : BitVec 5) (t : BitVec 4) (v0 : BitVec 1)
  /-- VPERM (R176): Permutes lanes of ra by indices in rb. -/
  | vperm (d : BitVec 5) (a : BitVec 5) (b : BitVec 5) (t : BitVec 4) (v0 : BitVec 1)
  /-- VBCST (R176): Broadcasts one lane of ra to every lane. -/
  | vbcst (d : BitVec 5) (a : BitVec 5) (b : BitVec 5) (t : BitVec 4) (v0 : BitVec 1)
  /-- VLEN (R176): Writes the element count of the token that supplied input ra. -/
  | vlen (d : BitVec 5) (a : BitVec 5) (t : BitVec 4) (v0 : BitVec 6)
  /-- VCAT (R176): Concatenates the low halves of ra and rb. -/
  | vcat (d : BitVec 5) (a : BitVec 5) (b : BitVec 5) (t : BitVec 4) (v0 : BitVec 1)
  /-- VSPL (R176): Moves the high four lanes of ra to the low half. -/
  | vspl (d : BitVec 5) (a : BitVec 5) (t : BitVec 4) (v0 : BitVec 6)
  /-- VIDX (R176): Writes the lane index into each lane. -/
  | vidx (d : BitVec 5) (t : BitVec 4) (v0 : BitVec 11)
  /-- SEND (R164): Composes a DATA token, or an ERR token in an ERR-started task, into the output latch. -/
  | send (s : BitVec 5) (r : BitVec 5) (m : BitVec 3) (l : BitVec 3) (o : BitVec 6)
  /-- SENDE (R164): Composes an EOS token into the output latch. -/
  | sende (r : BitVec 5) (m : BitVec 3) (o : BitVec 6) (v0 : BitVec 5) (v1 : BitVec 3)
  /-- SENDR (R164): Composes an EOR token with the count from rs. -/
  | sendr (s : BitVec 5) (r : BitVec 5) (m : BitVec 3) (o : BitVec 6) (v0 : BitVec 3)
  /-- SENDM (R164): Composes a MARK token with the identifier from rs. -/
  | sendm (s : BitVec 5) (r : BitVec 5) (m : BitVec 3) (o : BitVec 6) (v0 : BitVec 3)
  /-- SENDO (R164): Composes an ORD token carrying the cell's logical time. -/
  | sendo (r : BitVec 5) (m : BitVec 3) (o : BitVec 6) (v0 : BitVec 5) (v1 : BitVec 3)
  /-- HDR (R165): Extracts a named field of a header scalar. -/
  | hdr (d : BitVec 5) (a : BitVec 5) (b : BitVec 5) (v0 : BitVec 5)
  /-- TAGX (R165): Builds a tag scalar from a frame and an iteration. -/
  | tagx (d : BitVec 5) (a : BitVec 5) (b : BitVec 5) (v0 : BitVec 5)
  /-- FALLOC (R165): Draws a frame from the task's reservation and makes it LIVE. -/
  | falloc (d : BitVec 5) (v0 : BitVec 15)
  /-- FFREE (R166): Frees a LIVE frame of the task's context. -/
  | ffree (a : BitVec 5) (v0 : BitVec 5) (v1 : BitVec 10)
  /-- FSTO (R167): Stores a DATA token into a frame slot. -/
  | fsto (n : BitVec 3) (a : BitVec 5) (b : BitVec 5) (s : BitVec 3) (v0 : BitVec 2) (v1 : BitVec 2)
  /-- FLDO (R167): Loads a frame slot's payload and clears its presence bit. -/
  | fldo (d : BitVec 5) (a : BitVec 5) (s : BitVec 3) (v0 : BitVec 7)
  /-- INJ (R168): Checks and injects a token from the control core into the fabric. -/
  | inj (a : BitVec 5) (b : BitVec 5) (v0 : BitVec 5) (v1 : BitVec 5)
  /-- SLD (R263): Loads 256 scale words into a register, bumps its generation and optionally stamps a buffer. -/
  | sld (d : BitVec 8) (r : BitVec 5) (v0 : BitVec 8)
  /-- SST (R263): Stores a scale register's words to scratchpad. -/
  | sst (d : BitVec 8) (r : BitVec 5) (v0 : BitVec 8)
  /-- SBIND (R264): Stamps a buffer header with the current tag of a scale register. -/
  | sbind (d : BitVec 8) (r : BitVec 5) (v0 : BitVec 8)
  /-- SUNB (R264): Empties a scale map entry, orphaning or freeing its register. -/
  | sunb (d : BitVec 8) (v0 : BitVec 13)
  /-- SADD (R265): Adds k to every finite block exponent. -/
  | sadd (d : BitVec 8) (a : BitVec 8) (r : BitVec 5)
  /-- SMAX (R265): Raises every block exponent to at least k. -/
  | smax (d : BitVec 8) (a : BitVec 8) (r : BitVec 5)
  /-- SMIN (R265): Lowers every block exponent to at most k. -/
  | smin (d : BitVec 8) (a : BitVec 8) (r : BitVec 5)
  /-- SMULV (R265): Adds a signed per-row byte from scratchpad to each exponent. -/
  | smulv (d : BitVec 8) (a : BitVec 8) (r : BitVec 5)
  /-- SNORM (R265): Moves the common quad shift into the block exponent. -/
  | snorm (d : BitVec 8) (a : BitVec 8) (v0 : BitVec 5)
  /-- SCPY (R266): Copies the 256 words of one scale register to another. -/
  | scpy (d : BitVec 8) (a : BitVec 8) (v0 : BitVec 5)
  /-- SGEN (R266): Sets every word of a scale register to a value. -/
  | sgen (d : BitVec 8) (r : BitVec 5) (v0 : BitVec 8)
  /-- SZERO (R266): Sets every word of a scale register to zero. -/
  | szero (d : BitVec 8) (v0 : BitVec 13)
  /-- TFETCH (R269): Claims a fetch slot and starts fetching an operand tile, or prefetches in class C. -/
  | tfetch (d : BitVec 5) (a : BitVec 5) (b : BitVec 5) (n : BitVec 8)
  /-- TREL (R272): Releases a fetch slot by handle. -/
  | trel (a : BitVec 5) (v0 : BitVec 5) (v1 : BitVec 13)
  /-- MMA (R280): Checks slots and scales, snapshots scales and queues a float matrix step. -/
  | mma (a : BitVec 5) (b : BitVec 5) (c : BitVec 5) (v0 : BitVec 5)
  /-- MMAI (R280): Queues an integer matrix step. -/
  | mmai (a : BitVec 5) (b : BitVec 5) (c : BitVec 5) (v0 : BitVec 5)
  /-- MACC (R281): Queues a command setting window length and overflow masking. -/
  | macc (a : BitVec 5) (b : BitVec 5) (v0 : BitVec 5) (v1 : BitVec 5)
  /-- MZERO (R281): Queues a command clearing an accumulator. -/
  | mzero (a : BitVec 5) (v0 : BitVec 5) (v1 : BitVec 10)
  /-- MEOR (R281): Queues a command setting the expected contribution count. -/
  | meor (a : BitVec 5) (b : BitVec 5) (v0 : BitVec 5) (v1 : BitVec 5)
  /-- MRD (R282): Reads eight accumulator elements into rd. -/
  | mrd (d : BitVec 5) (a : BitVec 5) (b : BitVec 5) (v0 : BitVec 5)
  /-- OPW (R306): Writes an operator or cell register between firings. -/
  | opw (a : BitVec 5) (b : BitVec 5) (v0 : BitVec 5) (v1 : BitVec 5)
  /-- OPR (R306): Reads an operator or cell register, clearing RC fields. -/
  | opr (d : BitVec 5) (a : BitVec 5) (v0 : BitVec 10)
  /-- OPSNAP (R307): Copies and clears SELECT or COUNT counters at one instant into scratchpad. -/
  | opsnap (d : BitVec 5) (a : BitVec 5) (b : BitVec 5) (v0 : BitVec 5)
  /-- CPY (R246): Accepts a box copy completing by a copy tag. -/
  | cpy (a : BitVec 5) (b : BitVec 5) (t : BitVec 8) (v0 : BitVec 5)
  /-- CPYB (R246): Accepts a box copy whose sectors are counted in a barrier. -/
  | cpyb (d : BitVec 5) (a : BitVec 5) (b : BitVec 5) (v0 : BitVec 8)
  /-- CTARM (R247): Arms a copy template on a trigger queue. -/
  | ctarm (d : BitVec 5) (a : BitVec 5) (b : BitVec 5) (q : BitVec 8)
  /-- CTDIS (R249): Disarms a template after any firing in progress and returns its firing count. -/
  | ctdis (d : BitVec 5) (q : BitVec 8) (v0 : BitVec 10)
  /-- STRMI (R250): Binds the sensor stream port to a ring tensor in memory. -/
  | strmi (d : BitVec 5) (a : BitVec 5) (t : BitVec 8) (v0 : BitVec 5)
  /-- STRMI_STOP (R253): EXT-prefixed form ending this isle's binding with the tag after the line in progress. -/
  | strmiStop (d : BitVec 5) (a : BitVec 5) (t : BitVec 8) (v0 : BitVec 5)
  /-- STRMO (R252): Streams a source tensor box as tokens to TDEST. -/
  | strmo (a : BitVec 5) (b : BitVec 5) (t : BitVec 8) (v0 : BitVec 5)
  /-- STRMS (R251): Binds the sensor stream port directly to the fabric. -/
  | strms (a : BitVec 5) (t : BitVec 8) (v0 : BitVec 5) (v1 : BitVec 5)
  /-- STRMS_STOP (R253): EXT-prefixed form ending a fabric stream binding. -/
  | strmsStop (a : BitVec 5) (t : BitVec 8) (v0 : BitVec 5) (v1 : BitVec 5)
  /-- STRMB (R254): Marks a scratchpad ordering point in the copy engine's acceptance order. -/
  | strmb (t : BitVec 8) (v0 : BitVec 15)
  /-- CWANY (R255): Waits until any masked copy tag is set. -/
  | cwany (d : BitVec 5) (a : BitVec 5) (v0 : BitVec 10)
  /-- CWALL (R255): Waits until every masked copy tag is set. -/
  | cwall (a : BitVec 5) (v0 : BitVec 5) (v1 : BitVec 10)
  /-- CFFR (R255): Returns the lowest set masked copy tag without waiting. -/
  | cffr (d : BitVec 5) (a : BitVec 5) (v0 : BitVec 10)
  /-- QPUSH (R338): Pushes an entry from scratchpad to a queue. -/
  | qpush (d : BitVec 5) (a : BitVec 5) (b : BitVec 5) (t : BitVec 1) (v0 : BitVec 4)
  /-- QPOP (R338): Pops the head entry of a TASK or STREAM queue to scratchpad. -/
  | qpop (d : BitVec 5) (a : BitVec 5) (b : BitVec 5) (t : BitVec 1) (v0 : BitVec 4)
  /-- CONT (R338): Increments a join count and pushes a TASK record. -/
  | cont (d : BitVec 5) (a : BitVec 5) (b : BitVec 5) (v0 : BitVec 5)
  /-- JOIN (R338): Decrements a join block and pushes its parent at zero. -/
  | join (d : BitVec 5) (a : BitVec 5) (v0 : BitVec 10)
  /-- STEAL (R335): Takes up to n records from the tail of an OPEN task queue, retrying lost CAS. -/
  | steal (d : BitVec 5) (a : BitVec 5) (b : BitVec 5) (c : BitVec 5)
  /-- QSTAT (R338): Reports a queue's fill, state, kind and priority. -/
  | qstat (d : BitVec 5) (a : BitVec 5) (v0 : BitVec 10)
  /-- BINIT (R374): Writes a whole barrier word and resets any straggler record. -/
  | binit (a : BitVec 5) (b : BitVec 5) (v0 : BitVec 5) (v1 : BitVec 5)
  /-- BARR (R375): Performs one arrival at a barrier, possibly completing a phase. -/
  | barr (d : BitVec 5) (a : BitVec 5) (b : BitVec 5) (v0 : BitVec 5)
  /-- BARRX (R375): Performs n arrivals, optionally dropping them from EXPECT. -/
  | barrx (d : BitVec 5) (a : BitVec 5) (b : BitVec 5) (c : BitVec 5)
  /-- BWAIT (R376): Waits, or in a cell arms a wake entry, until the phase differs. -/
  | bwait (d : BitVec 5) (a : BitVec 5) (b : BitVec 5) (c : BitVec 5)
  /-- BWAITP (R376): As BWAIT comparing the low two phase bits. -/
  | bwaitp (d : BitVec 5) (a : BitVec 5) (b : BitVec 5) (c : BitVec 5)
  /-- BTEST (R377): Reads one half of a barrier word. -/
  | btest (d : BitVec 5) (a : BitVec 5) (b : BitVec 5) (v0 : BitVec 5)
  /-- BSEC (R378): Adds pending sectors to a barrier. -/
  | bsec (a : BitVec 5) (b : BitVec 5) (v0 : BitVec 5) (v1 : BitVec 5)
  /-- PREQ (R398): Reports a page's state word and demands it when its gang is current. -/
  | preq (d : BitVec 5) (a : BitVec 5) (v0 : BitVec 10)
  /-- PPIN (R398): Sets a page's PINNED attribute. -/
  | ppin (d : BitVec 5) (a : BitVec 5) (v0 : BitVec 10)
  /-- PUNP (R398): Clears a page's PINNED attribute. -/
  | punp (d : BitVec 5) (a : BitVec 5) (v0 : BitVec 10)
  /-- PEVT (R399): Starts the eviction of a page's gang. -/
  | pevt (d : BitVec 5) (a : BitVec 5) (v0 : BitVec 10)
  /-- STEP (R350): Advances a job's program counter if the expected value matches, sending a step token. -/
  | step (d : BitVec 5) (a : BitVec 5) (b : BitVec 5) (v0 : BitVec 5)
  /-- FRZ (R400): Freezes every page of a gang in place. -/
  | frz (d : BitVec 5) (a : BitVec 5) (v0 : BitVec 10)
  /-- THAW (R400): Resumes a page frozen by FRZ. -/
  | thaw (d : BitVec 5) (a : BitVec 5) (v0 : BitVec 10)
  /-- SNAP (R401): Starts a snapshot of a running job. -/
  | snap (d : BitVec 5) (a : BitVec 5) (b : BitVec 5) (v0 : BitVec 5)
  /-- CFGW (R404): Writes a tile record into a tile of a load slot. -/
  | cfgw (a : BitVec 5) (b : BitVec 5) (v0 : BitVec 5) (v1 : BitVec 5)
  /-- CFGC (R404): Checks a written tile record's CRC and configuration. -/
  | cfgc (d : BitVec 5) (a : BitVec 5) (v0 : BitVec 10)
  /-- CFGK (R405): Commits a load slot, making the page RESIDENT. -/
  | cfgk (d : BitVec 5) (a : BitVec 5) (v0 : BitVec 10)
  /-- CFGA (R405): Aborts a load slot, leaving the page ABSENT. -/
  | cfga (d : BitVec 5) (a : BitVec 5) (v0 : BitVec 10)
  /-- PLACE (R403): Claims a region for a page in a load slot. -/
  | place (d : BitVec 5) (a : BitVec 5) (b : BitVec 5) (v0 : BitVec 5)
  /-- SRD (R143): Reads a system register. -/
  | srd (d : BitVec 5) (r : BitVec 12) (v0 : BitVec 5)
  /-- SWR (R143): Writes a system register. -/
  | swr (a : BitVec 5) (r : BitVec 12) (v0 : BitVec 5)
  /-- TRAP (R144): Raises SOFTWARE with the code, or aborts the task in a cell. -/
  | trap (c : BitVec 12) (v0 : BitVec 10)
  /-- ERET (R145): Returns from a Supervisor or Machine trap. -/
  | eret (v0 : BitVec 10) (v1 : BitVec 12)
  /-- WFE (R146): Clears the event bit or waits for an event or pending cause. -/
  | wfe (v0 : BitVec 10) (v1 : BitVec 12)
  /-- SEV (R146): Sets the event bit of every core with the same context loaded. -/
  | sev (v0 : BitVec 10) (v1 : BitVec 12)
  /-- BRK (R144): Raises BREAKPOINT with the code. -/
  | brk (c : BitVec 12) (v0 : BitVec 10)
  /-- CYC (R147): Writes the cycle counter to rd. -/
  | cyc (d : BitVec 5) (v0 : BitVec 5) (v1 : BitVec 12)
  /-- TLBI (R148): Invalidates selected TLB entries and waits for their users. -/
  | tlbi (a : BitVec 5) (s : BitVec 1) (g : BitVec 1) (p : BitVec 2) (v0 : BitVec 5) (v1 : BitVec 8)
  /-- SIGV (R149): Hands a signature verification to the security engine under a copy tag. -/
  | sigv (a : BitVec 5) (t : BitVec 6) (v0 : BitVec 5) (v1 : BitVec 6)
  /-- CONN_STATUS (R409): Reads the state and specification of a connection table entry. -/
  | connStatus (d : BitVec 5) (a : BitVec 5) (b : BitVec 5) (v0 : BitVec 5)
  /-- CONN_OPEN (R409): Requests a circuit in an IDLE entry after budget checks. -/
  | connOpen (d : BitVec 5) (a : BitVec 5) (b : BitVec 5) (v0 : BitVec 5)
  /-- CONN_CLOSE (R409): Closes a requested, tuning or UP circuit. -/
  | connClose (d : BitVec 5) (a : BitVec 5) (b : BitVec 5) (v0 : BitVec 5)
  /-- CONN_RESET (R409): Returns a FAILED entry to IDLE. -/
  | connReset (d : BitVec 5) (a : BitVec 5) (b : BitVec 5) (v0 : BitVec 5)
  /-- CTXS (R320): Saves the loaded context's isle state to a save area and releases its resources. -/
  | ctxs (d : BitVec 5) (a : BitVec 5) (v0 : BitVec 10)
  /-- CTXL (R321): Loads a saved context onto the isle. -/
  | ctxl (d : BitVec 5) (a : BitVec 5) (v0 : BitVec 10)
  /-- HINT (R100): Executes as NOP with unchecked hint bits. -/
  | hint (h : BitVec 25)
  /-- NOP (R100): The 16-bit NOP halfword 0x7000. -/
  | nop
  /-- HINT_SHORT (R100): A 16-bit class 0xE hint that executes as NOP. -/
  | hintShort (h : BitVec 11)
  /-- EXT (R91): Prefix widening a field of the following 32-bit instruction. -/
  | ext (p : BitVec 11)
  /-- LI_SHORT (R90): 16-bit form of LI with a 7-bit immediate. -/
  | liShort (d : BitVec 3) (i : BitVec 7)
  /-- MOV_SHORT (R90): 16-bit form of MOV. -/
  | movShort (d : BitVec 3) (a : BitVec 3) (v0 : BitVec 4)
  /-- ADD_SHORT (R90): 16-bit form of ADD. -/
  | addShort (d : BitVec 3) (a : BitVec 3) (b : BitVec 3)
  /-- SUB_SHORT (R90): 16-bit form of SUB. -/
  | subShort (d : BitVec 3) (a : BitVec 3) (b : BitVec 3)
  /-- ADDI_SHORT_POS (R90): 16-bit ADDI adding 1 to 8. -/
  | addiShortPos (d : BitVec 3) (a : BitVec 3) (k : BitVec 3)
  /-- ADDI_SHORT_NEG (R90): 16-bit ADDI subtracting 1 to 8. -/
  | addiShortNeg (d : BitVec 3) (a : BitVec 3) (k : BitVec 3)
  /-- VADD_F32_SHORT (R90): 16-bit VADD.F32. -/
  | vaddF32Short (d : BitVec 3) (a : BitVec 3) (b : BitVec 3)
  /-- VMUL_F32_SHORT (R90): 16-bit VMUL.F32. -/
  | vmulF32Short (d : BitVec 3) (a : BitVec 3) (b : BitVec 3)
  /-- VFMA_F32_SHORT (R90): 16-bit VFMA.F32. -/
  | vfmaF32Short (d : BitVec 3) (a : BitVec 3) (b : BitVec 3)
  /-- VADD_I32_SHORT (R90): 16-bit VADD.I32. -/
  | vaddI32Short (d : BitVec 3) (a : BitVec 3) (b : BitVec 3)
  /-- SEND_SHORT (R90): 16-bit SEND with tag mode KEEP. -/
  | sendShort (s : BitVec 3) (n : BitVec 3) (o : BitVec 4)
  /-- SEND_INC_SHORT (R90): 16-bit SEND.INC. -/
  | sendIncShort (s : BitVec 3) (n : BitVec 3) (o : BitVec 4)
  /-- LDS_SHORT (R90): 16-bit scratchpad load with scaled offset. -/
  | ldsShort (t : BitVec 3) (a : BitVec 3) (o : BitVec 4)
  /-- STS_SHORT (R90): 16-bit scratchpad store with scaled offset. -/
  | stsShort (t : BitVec 3) (a : BitVec 3) (o : BitVec 4)
  /-- BZ_SHORT (R90): 16-bit BZ with a 7-bit offset. -/
  | bzShort (a : BitVec 3) (o : BitVec 7)
  /-- BNZ_SHORT (R90): 16-bit BNZ with a 7-bit offset. -/
  | bnzShort (a : BitVec 3) (o : BitVec 7)
  /-- SEQ_SHORT (R90): 16-bit SEQ. -/
  | seqShort (d : BitVec 3) (a : BitVec 3) (b : BitVec 3)
  /-- SLT_SHORT (R90): 16-bit SLT. -/
  | sltShort (d : BitVec 3) (a : BitVec 3) (b : BitVec 3)
  /-- SLTN_SHORT (R90): 16-bit SLTN. -/
  | sltnShort (d : BitVec 3) (a : BitVec 3) (b : BitVec 3)
  /-- SEL_SHORT (R90): 16-bit SEL with the condition in rd. -/
  | selShort (d : BitVec 3) (a : BitVec 3) (b : BitVec 3)
  /-- ILLEGAL_ENCODING (R81): An illegal or unassigned encoding raises ILLEGAL_ENC with no other effect. -/
  | illegalEncoding
  /-- ASYNC_CAUSE_TAKEN (R123): A pending enabled asynchronous cause is taken between units, highest code first. -/
  | asyncCauseTaken (k : Nat)
  /-- WAIT_COMPLETE (R255): A control-core instruction that was waiting completes once its condition holds. -/
  | waitComplete (k : Nat)
  /-- TOKEN_RESOLVE (R382): A token entering a switch is resolved through the relocation copy to mesh, strait, hardware queue or lagoon. -/
  | tokenResolve (n : Nat)
  /-- TOKEN_DELIVERY (R64): A token arriving at its destination tile is checked against the base register and steered. -/
  | tokenDelivery (n : Nat)
  /-- TASK_ADMISSION (R151): An idle cell admits its highest-priority admissible ready task, reserving frames. -/
  | taskAdmission (t : Nat)
  /-- LATCH_RELEASE (R157): A latch token leaves toward the switch as credit allows after its task ends. -/
  | latchRelease (t : Nat)
  /-- DISPATCH_POP (R332): An enabled dispatch port pops a TASK record and starts an arity-0 task. -/
  | dispatchPop (k : Nat) (p : Nat)
  /-- MATRIX_FIRE (R292): A MATRIX operator takes a handle token and queues a step as MMA does. -/
  | matrixFire (t : Nat)
  /-- REDUCE_PARTIAL (R294): A REDUCE operator adds a partial token into a row of its accumulator. -/
  | reducePartial (t : Nat) (i : Nat)
  /-- REDUCE_EOR (R293): An EOR token at a REDUCE input sets EXPECT as MEOR or is consumed. -/
  | reduceEor (t : Nat) (i : Nat)
  /-- MAP_FIRE (R295): A MAP operator applies its element-wise operation to a token. -/
  | mapFire (t : Nat)
  /-- CONVERT_FIRE (R296): A CONVERT operator converts a token's elements or block and may merge packets. -/
  | convertFire (t : Nat)
  /-- MERGE_HOLD_EXPIRY (R73): A CONVERT merge's hold limit expires and the partial packet leaves. -/
  | mergeHoldExpiry (t : Nat)
  /-- SELECT_FIRE (R297): A SELECT operator takes a token into its current column. -/
  | selectFire (t : Nat)
  /-- LUT_FIRE (R299): A LUT operator maps each integer element through its table. -/
  | lutFire (t : Nat)
  /-- LUT_DATA_ACCESS (R299): An access of LUT register 3 reads or writes entry INDEX and advances INDEX. -/
  | lutDataAccess (t : Nat) (w : Option (BitVec 32))
  /-- FILTER_FIRE (R300): A FILTER operator keeps or rejects elements by its test. -/
  | filterFire (t : Nat)
  /-- COUNT_FIRE (R301): A COUNT operator forwards a token, counts it and may emit an EOR. -/
  | countFire (t : Nat)
  /-- MEMORY_LOADSEQ (R303): A MEMORY operator in LOADSEQ mode emits the next n tensor elements. -/
  | memoryLoadseq (t : Nat)
  /-- MEMORY_GATHER (R303): A MEMORY operator gathers elements at indexed positions. -/
  | memoryGather (t : Nat)
  /-- MEMORY_STORESEQ (R303): A MEMORY operator stores elements sequentially at POS. -/
  | memoryStoreseq (t : Nat)
  /-- MEMORY_SCATTER (R303): A MEMORY operator stores values at indexed positions. -/
  | memoryScatter (t : Nat)
  /-- MEMORY_ATOMIC (R303): A MEMORY operator performs per-lane scratchpad atomics. -/
  | memoryAtomic (t : Nat)
  /-- MEMORY_PORT (R303): A MEMORY operator in PORT mode turns a stream-port line into tokens. -/
  | memoryPort (t : Nat)
  /-- MERGE_FIRE (R305): A MERGE operator forwards a token from an enabled input by its policy. -/
  | mergeFire (t : Nat) (i : Nat)
  /-- SPLIT_FIRE (R305): A SPLIT operator cuts, deals, steers or broadcasts a token. -/
  | splitFire (t : Nat)
  /-- DELAY_WINDOW (R305): A DELAY in WINDOW mode emits a window token per element. -/
  | delayWindow (t : Nat)
  /-- DELAY_HOLD (R305): A DELAY in HOLD mode sends token n when token n plus D arrives. -/
  | delayHold (t : Nat)
  /-- ENGINE_STEP (R275): The matrix engine performs and retires a queued step. -/
  | engineStep (t : Nat)
  /-- PROMOTION_WINDOW (R276): The engine starts accumulating a window once its blocks are queued or it is closed. -/
  | promotionWindow (t : Nat) (a : Nat)
  /-- MACC_PERFORM (R281): A queued MACC closes the window and sets L and OVM. -/
  | maccPerform (t : Nat)
  /-- MZERO_PERFORM (R281): A queued MZERO discards the window and clears the accumulator. -/
  | mzeroPerform (t : Nat)
  /-- MEOR_PERFORM (R281): A queued MEOR sets EXPECT and may release. -/
  | meorPerform (t : Nat)
  /-- FETCH_COMPLETE (R270): A fetch slot's fetch completes, replacing scale words and sending its ready token. -/
  | fetchComplete (t : Nat) (h : Nat)
  /-- FETCH_FAULT (R270): A fault after acceptance makes a fetch slot FAULTED with a record. -/
  | fetchFault (t : Nat) (h : Nat)
  /-- PREFETCH_COMPLETE (R271): A class C prefetch completes, updating scale words if still current. -/
  | prefetchComplete (k : Nat) (n : Nat)
  /-- SECTOR_DECREMENT (R246): After a sector's writes, the engine decrements the barrier's pending sectors. -/
  | sectorDecrement (k : Nat) (n : Nat)
  /-- COPY_COMPLETE (R239): A copy's writes are performed; buffer step, time, tag or barrier and completion token follow. -/
  | copyComplete (k : Nat) (n : Nat)
  /-- TRANSFER_FAULT (R242): A translation fault during a transfer writes a copy-engine record and stops the operation. -/
  | transferFault (k : Nat) (n : Nat)
  /-- SOURCE_UE (R243): An uncorrectable source error stops a copy at a sector and fences the job. -/
  | sourceUe (k : Nat) (n : Nat)
  /-- TRIGGER_TOKEN (R248): A token taken from a trigger queue fires, merges, disarms or is forwarded by the template. -/
  | triggerToken (k : Nat) (q : Nat)
  /-- STREAM_LINE_STORE (R250): A STRMI binding writes a received line into its ring and publishes PRODUCED. -/
  | streamLineStore (d : Nat)
  /-- STREAM_LINE_TOKENS (R251): A STRMS binding turns a received line into DATA tokens and an EOR. -/
  | streamLineTokens (d : Nat)
  /-- STRMO_COMPLETE (R252): A STRMO sends its final EOS and completes its tag. -/
  | strmoComplete (k : Nat) (n : Nat)
  /-- STRMB_COMPLETE (R254): Earlier scratchpad writes are performed and the STRMB tag is set. -/
  | strmbComplete (k : Nat) (n : Nat)
  /-- SIGV_RESULT (R149): The security engine finishes a verification, writes RESULT or CERR, and sets the tag. -/
  | sigvResult (k : Nat) (n : Nat)
  /-- BUFFER_EDGE_REMOVE (R186): An EDGED buffer's entry is removed once OWNER is 0 and no reference remains after its consumer's EOS. -/
  | bufferEdgeRemove (k : Nat) (n : Nat)
  /-- PTS_TICK (R213): An agent hitting on leased loads advances its pts at least once per 64 cycles. -/
  | ptsTick (g : Agent)
  /-- LEASE_ROLLOVER (R214): A time reaching 2^47 raises LEASE_ROLLOVER to H-die firmware. -/
  | leaseRollover (g : Agent)
  /-- BANK_CTRL_WRITE (R181): A write to a bank control register starts, cancels or is ignored by a bank mode switch. -/
  | bankCtrlWrite (k : Nat) (n : Nat) (w : BitVec 32)
  /-- BANK_SWITCH_COMMIT (R180): A switching bank meets its commit condition and enters its new mode. -/
  | bankSwitchCommit (k : Nat) (n : Nat)
  /-- STRAGGLER_OPEN (R372): After the owner die's PKG release completes, a lagging member's queue enters OPEN. -/
  | stragglerOpen (n : Nat)
  /-- CONTEXT_OPEN (R313): CTXCMD OPEN validates a FREE context's record and makes it OPEN. -/
  | contextOpen (c : Nat)
  /-- CONTEXT_CLOSE (R317): CTXCMD CLOSE cancels the context's jobs and moves it to CLOSING. -/
  | contextClose (c : Nat)
  /-- CONTEXT_KILL (R317): CTXCMD KILL aborts tasks at once, raises CONTEXT_KILLED and moves to CLOSING. -/
  | contextKill (c : Nat)
  /-- CONTEXT_RELEASED (R313): A CLOSING context whose resources are returned becomes FREE. -/
  | contextReleased (c : Nat)
  /-- TENANT_SLICE_END (R314): A tenant slice expires and, if another tenant waits, the switch starts. -/
  | tenantSliceEnd
  /-- TSW_DONE (R315): A supervisor reports a tenant-switch save or load step done in TSW. -/
  | tswDone (k : Nat)
  /-- TSW_TIMEOUT (R315): An unreported switch step exceeds WDTO and its context is fenced with WATCHDOG. -/
  | tswTimeout (k : Nat)
  /-- QUEUE_ENABLE (R324): QCMD ENABLE turns an OFF queue ON with HEAD and TAIL zero. -/
  | queueEnable (c : Nat) (q : Nat)
  /-- QUEUE_DISABLE (R324): QCMD DISABLE turns a queue OFF, dropping its entries. -/
  | queueDisable (c : Nat) (q : Nat)
  /-- DOORBELL (R327): A doorbell write sets a COMMAND queue's TAIL and accepts new entries. -/
  | doorbell (c : Nat) (q : Nat) (w : BitVec 64)
  /-- LOAD (R340): Checks, verifies, places and relocates a Gorif image and records a kernel handle. -/
  | load (c : Nat) (q : Nat)
  /-- LAUNCH (R342): Checks a launch and makes a QUEUED job with its step list copy. -/
  | launch (c : Nat) (q : Nat)
  /-- CANCEL (R346): Cancels a non-final job of the context. -/
  | cancel (c : Nat) (q : Nat)
  /-- UNLOAD (R341): Frees a kernel handle with no non-final jobs. -/
  | unload (c : Nat) (q : Nat)
  /-- ADMISSION_DECISION (R328): The launch scheduler chooses the highest effective-priority head and admits, passes over or pre-empts. -/
  | admissionDecision
  /-- JOB_QUIESCENT (R349): A DRAINING job with no tasks, tokens or pending work becomes COMPLETE. -/
  | jobQuiescent (c : Nat) (j : Nat)
  /-- JOB_WATCHDOG (R430): A RUNNING or PAGE_WAIT job without progress for WDTO is fenced with WATCHDOG. -/
  | jobWatchdog (c : Nat) (j : Nat)
  /-- PAGE_FETCH_DONE (R385): A page's tile records are read and CRC-checked, retried once or failed. -/
  | pageFetchDone (p : Nat)
  /-- PAGE_PLACEMENT (R380): The placer finds a position and save space for a page or chooses victims. -/
  | pagePlacement (p : Nat)
  /-- PAGE_INSTALL_DONE (R386): A page finishes install and restore and becomes RESIDENT. -/
  | pageInstallDone (p : Nat)
  /-- PAGE_DRAIN_DONE (R391): Every token held by or addressed to a frozen page has been captured. -/
  | pageDrainDone (p : Nat)
  /-- PAGE_READOUT_DONE (R392): The last save word is written and the page becomes SAVED. -/
  | pageReadoutDone (p : Nat)
  /-- RELOCATION_ACK (R382): Every present die acknowledges a relocation entry change. -/
  | relocationAck (c : Nat) (j : Nat) (d : Nat)
  /-- LAGOON_DRAIN (R394): A restored page receives its lagoon tokens until LAG clears. -/
  | lagoonDrain (p : Nat)
  /-- DEFRAG_MIGRATE (R395): The defragmenter starts moving an unpinned gang on the same die. -/
  | defragMigrate (p : Nat)
  /-- MIGRATION_DONE (R395): A migrating page is reinstalled at its new position. -/
  | migrationDone (p : Nat)
  /-- SNAPSHOT_DONE (R396): A snapshot completes or aborts and its record word is written. -/
  | snapshotDone (c : Nat) (j : Nat)
  /-- SPILL_TIMEOUT (R388): A stalled sender's timer reaches SPTO and the context is fenced with SPILL_EXHAUSTED. -/
  | spillTimeout (c : Nat)
  /-- CIRCUIT_READY (R408): Both ends of a requested circuit are ready and tuning starts. -/
  | circuitReady (e : Nat)
  /-- CIRCUIT_LOCKED (R408): Every channel locks and training completes, so the circuit is UP. -/
  | circuitLocked (e : Nat)
  /-- TUNING_TIMEOUT (R408): A circuit fails to lock within 100 microseconds. -/
  | tuningTimeout (e : Nat)
  /-- CIRCUIT_DRAINED (R408): A draining circuit's retry buffers empty and its channels return. -/
  | circuitDrained (e : Nat)
  /-- LINK_FAIL (R413): Repeated flit CRC failure, light loss or far-end loss makes a circuit FAILED and fences its jobs. -/
  | linkFail (e : Nat) (w : BitVec 2)
  /-- X_DIE_RESET (R408): An X-die reset clears every connection table entry. -/
  | xDieReset
  /-- FLIT_RECEIVE (R411): A received flit is checked, deduplicated and delivered on its virtual channel. -/
  | flitReceive (e : Nat) (good : Bool)
  /-- FLIT_RESEND (R411): A flit whose CRC failed is resent from the retry buffer. -/
  | flitResend (e : Nat)
  /-- PORT_ENABLE (R420): SPCTL.EN set starts training the sensor stream port. -/
  | portEnable (d : Nat)
  /-- PORT_DISABLE (R420): SPCTL.EN cleared takes the port DOWN and ends its binding. -/
  | portDisable (d : Nat)
  /-- PORT_FENCE (R420): SPCTL.FENCE set fences the port and ends its binding. -/
  | portFence (d : Nat)
  /-- PORT_TRAINED (R420): All lanes lock and FEC aligns, so the port goes UP. -/
  | portTrained (d : Nat)
  /-- PORT_LOCK_LOST (R420): Lane lock or FEC alignment is lost and the port returns to TRAINING. -/
  | portLockLost (d : Nat)
  /-- LINE_FRAME (R418): A received frame is checked, sequenced, stored or dropped with gap tracking. -/
  | lineFrame (d : Nat) (f : List (BitVec 8))
  /-- ADV_TIMER (R417): The port sends an ADV frame every microsecond. -/
  | advTimer (d : Nat)
  /-- TRHEAD_WRITE (R426): Writing TRHEAD retires records, applying the default action to unacted ones. -/
  | trheadWrite (k : Nat) (w : BitVec 64)
  /-- RESUME (R427): TRACT RESUME resumes the agent of a trap record. -/
  | resume (k : Nat) (n : Nat)
  /-- DISCARD (R427): TRACT DISCARD drops the record's inputs or cancels its operation. -/
  | discard (k : Nat) (n : Nat)
  /-- FENCE_GANG (R428): TRACT FENCE_GANG freezes every page of the record's gang. -/
  | fenceGang (k : Nat) (n : Nat)
  /-- FENCE_JOB (R427): TRACT FENCE_JOB makes the record's job FAULTED. -/
  | fenceJob (k : Nat) (n : Nat)
  /-- FENCE_CTX (R427): TRACT FENCE_CTX fences the record's context. -/
  | fenceCtx (k : Nat) (n : Nat)
  /-- SOFT_ERROR_DETECT (R432): A detected logic error raises MACHINE_CHECK and fences the job, isle or die. -/
  | softErrorDetect (u : ErrUnit)
  /-- MODULE_RESET (R434): The boot ROM reads, verifies and trains, then starts firmware. -/
  | moduleReset (err : BitVec 8) (present : BitVec 4)
  /-- ISLE_RESET (R436): Writing an ISLERST bit resets or releases an isle. -/
  | isleReset (k : Nat) (hold : Bool)
  /-- ATTESTATION_START (R437): Writing ATTCMD starts building a signed attestation report. -/
  | attestationStart (w : BitVec 64)
  /-- ATTESTATION_DONE (R437): The security engine finishes the report and writes its status. -/
  | attestationDone
  /-- SUPPLY_SAG (R439): The core supply falls below 315 mV and the fabric clock stretches to 0.6 GHz. -/
  | supplySag (d : Nat)
  /-- STRETCH_END (R439): The clock returns to 1.2 GHz once the supply recovers and 200 ns have passed. -/
  | stretchEnd (d : Nat)
  /-- RC_REGISTER_READ (R11): A read of a read-clear register field returns and clears it. -/
  | rcRegisterRead (g : Nat)
  /-- REGISTER_WRITE (R11): A write to a device register with no behaviour of its own updates its fields. -/
  | registerWrite (g : Nat) (w : BitVec 64)
  /-- LEASE_REBASE (R214): H-die firmware rebases every pts, wts, rts and saved time by the least agent time and invalidates every COH copy. -/
  | leaseRebase
  /-- LEASE_BRIDGE_ACCESS (R226): A host core's COH load, store or atomic arrives at the lease bridge and is performed under R207 to R210. -/
  | leaseBridgeAccess (h : Nat) (op : HostOp) (g : Nat) (w : BitVec 64)
  /-- IO_PATH_ACCESS (R227): A host read or write of LOC memory goes through the I/O path directly to home memory. -/
  | ioPathAccess (wr : Bool) (g : Nat) (w : BitVec 64)
  /-- TOKEN_BUCKET_REFILL (R438): The power controller refills the credit buckets of the fabric ingresses at the rates that keep PMEAS at or below PLIM. -/
  | tokenBucketRefill (n : Nat) (c : Nat)
  deriving DecidableEq, Repr

end Sys2Proof
end

