-- ==== Sys2Proof/Machine/State.lean ====
section
/-! DEFINITION. The state of one AQ-840 module as plain data, the reasons a step can stop, and the state after module
reset. Every field names the rule of spec/ that gives it; a field marked MODEL is the model's own. -/

namespace Sys2Proof.Machine

/-- The cause codes of R423, in code order from 0x00. -/
inductive Cause where
  | illegalEnc | reservedField | prefixOrphan | priv | classMode | misalignPc | routineOverrun | tempUndef
  | breakpoint | singleStep | divZero | intOverflow | fpInvalid | fpOverflow | accOverflow | software
  | s1Unmapped | s1Perm | s2Fault | s2Perm | addrRange | misalignData | atomicKind | scopeIllegal
  | memUe | poisonConsumed | spmBounds | ownerBit | leaseRollover | descInvalid | swizzleMismatch | dimLimit
  | staleScale | scaleUnbound | scaleShape | formatUnsupported | errTokenSink | frameExhausted | frameInvalid
  | slotCollision | pageAbsent | pageSig | pageCrc | placeFail | spillExhausted | quota | routeInvalid
  | checkpointOverflow | queueFull | queueEmpty | joinUnderflow | barrierAhead | barrierOverarrive | sectorUnderflow
  | stealDenied | tagBusy | linkDown | remoteFenced | streamOverflow | watchdog | preempt | contextKilled
  | machineCheck | doubleFault
  deriving DecidableEq, Repr

/-- A step stops with a fault where the spec gives the machine no next state. No rule of the spec does so: every cause
of R423 is taken as a trap, an abort, a record or a fence, which are next states. The one constructor is kept for the
host's interface; no meaning raises it (safe). -/
inductive Fault where
  | noNextState
  deriving DecidableEq, Repr

/-- A step is refused where an instruction has no meaning in this model. `notModelled` is raised by an arm of
`exec` whose instruction has none yet (safe: nothing can be proved of it). -/
inductive Refusal where
  | notModelled (mnemonic : String)
  deriving DecidableEq, Repr

/-- A sending port (R75): the tokens of one port to one destination port keep their order. -/
inductive PortId where
  | cell (t : Nat)
  | op (t : Nat) (slot : Nat) (out : Nat)
  | fetch (t : Nat)
  | inject (k : Nat)
  | resend (k : Nat)
  | engine (k : Nat)
  | barrier (k : Nat)
  | stream (d : Nat)
  | step (c : Nat) (j : Nat)
  | lagoon (c : Nat) (j : Nat) (v : Nat)
  deriving DecidableEq, Repr

/-- MODEL. The next thing that happens in the module: a runner runs a unit, a step of another agent is performed, or
a cached line or translation is replaced, or the next hop of a sending port runs out of credit or has credit again (R75),
or stored bits are lost beyond correction: a line of GDDR 7, a byte of memory in SRAM, a byte of scratchpad, or a word of the
state that a draining page saves (R383, R432), at a moment the spec leaves open. -/
inductive Item where
  | run (r : Runner)
  | event (i : Instr)
  | dropLine (k : Nat) (line : Nat)
  | dropTlb (k : Nat) (n : Nat)
  | dropStage2 (d : Nat) (n : Nat)
  | credit (p : PortId) (on : Bool)
  | loseLine (key : Nat)
  | loseByte (key : Nat)
  | loseScratch (k : Nat) (a : Nat)
  | losePage (c : Nat) (j : Nat) (ix : Nat) (line : Bool)
  deriving DecidableEq, Repr

/-- A token: header and payload (R60, R61). -/
structure Token where
  hdr : Word64
  lanes : Lanes
  deriving DecidableEq, Repr

/-- A token under way (R75, R382, R456): its sending port, the job whose relocation table resolves it, the die it is
on, and the tile or hardware queue it is resolved to. `dest = none` while it waits to enter a switch; `strait` while it
waits at the ingress of the strait to another die (R412); `src` is the place of the sending tile in its page, VREG + 64 × X +
1024 × Y, by which a port stays the same sender wherever its page is placed. -/
structure Flight where
  tok : Token
  port : PortId
  job : Option Nat
  die : Nat
  dest : Option Nat
  hwq : Bool
  strait : Bool
  src : Nat
  deriving DecidableEq, Repr

/-- Why a control core does not go on to its next unit (R146, R255, R365 and the waits of R237, R271, R149, R168).
`reissue` marks an instruction that is issued again when its resource frees. -/
inductive Wait where
  | reissue
  | anyTag (d : BitVec 5) (m : Word64)
  | allTags (m : Word64)
  | event
  | barrier (d : BitVec 5) (a : Word64) (b : Word64) (low : Bool)
  | steal (lost : Nat)
  deriving DecidableEq, Repr

/-- An isle control core (R112, R114). `event` is the event bit (R146) and `eventPts` the time of the tags that set it
(R217); `atVector` says that the next fetch is the first at a trap target (R124); `unfenced` holds the bytes its stores
have replaced since its last FENCE.ACQREL (R95); `killed`, `check`, `preempts` and `overflow` are its pending
asynchronous causes (R424). -/
structure Core where
  g : Vector Word64 32
  pc : Word64
  pfx : Option (BitVec 11)
  status : Word64
  epc : Word64
  cause : Word64
  tval : Word64
  tvec : Word64
  ptroot : Word64
  lease : Word64
  capbase : Word64
  mepc : Word64
  mcause : Word64
  mtval : Word64
  mtvec : Word64
  fcsr : Word64
  lbeg0 : Word64
  lend0 : Word64
  lbeg1 : Word64
  lend1 : Word64
  event : Bool
  eventPts : Nat
  halted : Bool
  stopped : Bool
  waiting : Option Wait
  atVector : Bool
  unfenced : Tbl Byte
  pts : Nat
  killed : Bool
  check : Bool
  preempts : List Nat
  overflow : Option Nat
  deriving DecidableEq, Repr

/-- The modes of an SRAM bank (R179). -/
inductive BankMode where
  | cache | scratch | fifo | matching
  deriving DecidableEq, Repr

/-- An SRAM bank's control register (R179). -/
structure Bank where
  mode : BankMode
  ctx : Nat
  nctx : Nat
  target : BankMode
  busy : Bool
  refused : Bool
  deriving DecidableEq, Repr

/-- The states of a frame (R67). -/
inductive FrameState where
  | free | reserved | live
  deriving DecidableEq, Repr

/-- A frame of the matching store: its state, owner, reserving tile and eight slots (R66, R67). -/
structure Frame where
  st : FrameState
  ctx : Nat
  tile : Nat
  slots : Tbl (Option Token)
  deriving DecidableEq, Repr

/-- The states of a scale register (R256). -/
inductive ScaleState where
  | free | named | orphan
  deriving DecidableEq, Repr

/-- A scale register: 256 scale words with its owner, generation and tag count (R256). -/
structure ScaleReg where
  st : ScaleState
  ctx : Nat
  gen : Nat
  live : Nat
  words : Tbl (BitVec 16)
  deriving DecidableEq, Repr

/-- An entry of the buffer directory (R183, R185): the header's address, the engine operations that hold a reference,
and whether one of them wrote the buffer. LENGTH, EDGE, GEN, STAG, OWNER and the rest stand in the header's bytes. -/
structure BufEntry where
  base : Nat
  len : Nat
  refs : Nat
  wrote : Bool
  eos : Bool
  deriving DecidableEq, Repr

/-- A line that an isle L2 holds (R177, R206): COH with its lease, or LOC with its dirty bytes; `bank` is the CACHE bank in
whose ways it lies (R180). -/
structure L2Line where
  coh : Bool
  data : List Byte
  dirty : Word64
  cw : Nat
  cr : Nat
  pins : Nat
  bank : Nat
  deriving DecidableEq, Repr

/-- The translation clients of an isle (R190); `second` is the isle's second-level TLB. -/
inductive Client where
  | fetch | data | copy | queue | second
  | memop (t : Nat)
  | tileFetch (t : Nat)
  | port (d : Nat)
  deriving DecidableEq, Repr

/-- The rights and kind of a stage-1 leaf (R177, R188). -/
structure Leaf where
  out : Nat
  kind : BitVec 2
  u : Bool
  x : Bool
  w : Bool
  r : Bool
  deriving DecidableEq, Repr

/-- A TLB entry (R190): client, context, tenant, the virtual block it covers (`base`, `size`), and its leaf. -/
structure TlbEntry where
  client : Client
  ctx : Nat
  tenant : Nat
  base : Nat
  size : Nat
  leaf : Leaf
  deriving DecidableEq, Repr

/-- A stage-2 cache entry of a die (R192): tenant, guest block, local base and rights. -/
structure S2Entry where
  tenant : Nat
  base : Nat
  size : Nat
  localBase : Nat
  w : Bool
  r : Bool
  deriving DecidableEq, Repr

/-- A tensor descriptor as an operation read it (R229, R230). -/
structure Desc where
  tid : Nat
  base : Nat
  sbase : Nat
  fmt : BitVec 4
  rank : Nat
  swz : BitVec 2
  spm : Bool
  extents : List Nat
  strides : List Int
  deriving DecidableEq, Repr

/-- What an operation of the copy engine does (R236, R252, R254). -/
inductive CopyKind where
  | copy
  | streamOut
  | mark
  deriving DecidableEq, Repr

/-- An accepted operation of a copy engine (R237 to R244). `pos` is the next box index, `sector` the sectors whose
writes are performed, `firing` the template and firing count it belongs to. -/
structure CopyOp where
  id : Nat
  kind : CopyKind
  ctx : Nat
  job : Nat
  src : Desc
  dst : Desc
  coord : Word64
  cside : Bool
  tag : Option Nat
  barrier : Option Word64
  tok : Bool
  tdest : Nat
  pos : Nat
  sector : Nat
  bufs : List Nat
  record : Option Nat
  firing : Option Nat
  deriving DecidableEq, Repr

/-- A copy template on a trigger queue (R247). -/
structure Template where
  armed : Bool
  word : Word64
  base : Word64
  src : Desc
  dst : Desc
  barrier : Option Word64
  bufs : List Nat
  ctx : Nat
  job : Nat
  count : Nat
  busy : Bool
  stopped : Bool
  deriving DecidableEq, Repr

/-- A signature verification in progress (R149). `seen` is MODEL: what its descriptor, bytes and signature held when it was
accepted. -/
structure SigReq where
  tag : Nat
  addr : Nat
  ctx : Nat
  pts : Nat
  seen : List Byte
  deriving DecidableEq, Repr

/-- A class C tile prefetch in progress (R271). -/
structure Prefetch where
  id : Nat
  ctx : Nat
  desc : Desc
  coord : Word64
  tag : Option (Nat × Nat)
  tok : Bool
  tdest : Nat
  frame : Nat
  record : Option Nat
  deriving DecidableEq, Repr

/-- An entry of the wake table (R366). -/
structure Wake where
  addr : Nat
  ph : Nat
  low : Bool
  dest : Nat
  ctx : Nat
  job : Option Nat
  deriving DecidableEq, Repr

/-- A hardware queue of an isle (R334): the queue bound to it, if any, and its tokens. -/
structure HwQueue where
  bound : Option (Nat × Nat)
  cap : Nat
  toks : List Token
  deriving DecidableEq, Repr

/-- A trap record (R425). `tile` and `dead` are MODEL: the tile of the agent that the record stands for, and
that its job has become final, since a number of a final job may be given again (R342, R427). -/
structure TrapRec where
  job : Nat
  ctx : Nat
  cls : Nat
  slot : Nat
  x : Nat
  y : Nat
  agent : Nat
  offset : Nat
  acted : Bool
  pfx : Bool
  code : BitVec 6
  tval : Word64
  hdr : Word64
  in0 : Lanes
  in1 : Lanes
  pts : Nat
  pos : Nat
  sector : Nat
  opid : Nat
  tile : Nat
  dead : Bool
  deriving DecidableEq, Repr

/-- The load states of a tile of a load slot (R402). -/
inductive LoadState where
  | blank | written | good | bad
  deriving DecidableEq, Repr

/-- A load slot (R402): the load state of each tile of the page that names it, keyed 16 y + x. -/
structure LoadSlot where
  tiles : Tbl LoadState
  deriving DecidableEq, Repr

/-- An isle (R4, R5, R112, R179, R183, R190, R256, R332, R334, R366, R426, R315). -/
structure Isle where
  core : Core
  ctx : Nat
  tenant : Nat
  ctb : Word64
  cerr : Word64
  tagTime : Tbl Nat
  banks : Tbl Bank
  spm : Tbl Byte
  spmUe : List Nat
  dir : List BufEntry
  frames : Tbl Frame
  freeList : List Nat
  scales : Tbl ScaleReg
  scaleMap : Tbl (Option Nat)
  l2 : Tbl L2Line
  tlb : List TlbEntry
  engPts : Nat
  ops : List CopyOp
  templates : Tbl Template
  sigs : List SigReq
  prefetches : List Prefetch
  wakes : List Wake
  ports : Tbl Word64
  hwq : Tbl HwQueue
  ring : Tbl TrapRec
  trHead : Nat
  trTail : Nat
  trAct : Word64
  tsw : Word64
  tswAt : Nat
  loads : Tbl (Option LoadSlot)
  saved : Bool
  fenced : Bool
  waitRecs : List TrapRec
  deriving DecidableEq, Repr

/-- A running task of a cell (R152 to R157). -/
structure Task where
  cls : Nat
  pc : Nat
  start : Nat
  size : Nat
  slots : Nat
  t : Vector (Option Lanes) 8
  hdr : Word64
  i0 : Lanes
  i1 : Lanes
  len1 : Nat
  tinx : Bool
  tsat : Bool
  err : Option Word64
  sends : Nat
  engCmds : Nat
  units : Nat
  cycles : Nat
  reserved : List Nat
  drawn : List Nat
  pfx : Option (BitVec 11)
  held : Option Nat
  part : Nat
  deriving DecidableEq, Repr

/-- A ready task of a cell (R150): its class, header and inputs, or the frame pair whose slots hold them (R70); `len1` is
the element count of input 1 of a resumed task. -/
structure Ready where
  cls : Nat
  hdr : Word64
  i0 : Lanes
  i1 : Lanes
  pair : Option (Nat × Nat)
  len1 : Nat
  deriving DecidableEq, Repr

/-- A slot of the output latch: `out` is set once its task has ended (R157). -/
structure LatchTok where
  tok : Token
  out : Bool
  deriving DecidableEq, Repr

/-- A cell (R150, R157, R161, R205). -/
structure Cell where
  vf : Word32
  task : Option Task
  ready : List Ready
  latch : List LatchTok
  pts : Nat
  deriving DecidableEq, Repr

/-- An open column of a SELECT operator (R297): its ITER, frame, header, values in candidate order, ERR tokens. -/
structure Column where
  hdr : Word64
  vals : List Word32
  errs : List Token
  sat : Bool
  inx : Bool
  deriving DecidableEq, Repr

/-- An operator slot of a tile (R286 to R305). `sent` counts DATA and ERR tokens per output since its last EOR (R290),
`buf` holds a merge partial or HOLD line, `elems` gathered elements or the window history, `parts` the partial counts
of a REDUCE, `marks` the inputs whose MARK has arrived (R291), `record` the pending fault record's slot and `rins` the inputs that
its firing consumes; `added` marks a partial token at the head that has been added with an overflow and not yet counted
(R277). `hist` holds INX and SAT of each element of the window history (R62), `block` the header and format of a block that
CONVERT gathers (R296), and `pend` the control tokens that wait for the outputs of an open block or column (R290). -/
structure Op where
  used : Bool
  regs : Tbl Word32
  inputs : Tbl (List Token)
  sent : Tbl Nat
  buf : List Token
  elems : List Word32
  lut : Tbl Word32
  cnt : Tbl Nat
  col : Option Column
  rr : Nat
  parts : Tbl Nat
  eosSeen : List Nat
  marks : List Nat
  ckbuf : List Token
  record : Option Nat
  held : Option (Cause × Word64)
  desc : Option Desc
  pts : Nat
  elem : Nat
  ended : Bool
  rins : List Nat
  sat : Bool
  added : Bool
  hist : List (Bool × Bool)
  block : Option (Word64 × BitVec 4)
  pend : List Token
  deriving DecidableEq, Repr

/-- The states of a fetch slot (R272). -/
inductive SlotState where
  | free | fetching | ready | consumed | releasing | faulted
  deriving DecidableEq, Repr

/-- A fetch slot of an M-tile (R267, R269). `data` holds the fetched element codes, 64 per row, `lines` the lines it
pins, `seq` the order of acceptance (R210); `reload` is the state to which a restored slot comes back once its lines are
there again (R285), and `preempt` the PREEMPT that a drain records (R391). -/
structure Slot where
  st : SlotState
  tid : Nat
  coord : Word64
  keep : Bool
  scl : Option Nat
  tag : Option (Nat × Nat)
  tok : Bool
  tdest : Nat
  frame : Nat
  buf : Option Nat
  fmt : BitVec 4
  data : List (List Nat)
  lines : List Nat
  queued : Nat
  released : Bool
  record : Option Nat
  reload : Option SlotState
  seq : Nat
  preempt : Bool
  deriving DecidableEq, Repr

/-- One of the four blocks of a step: its number, and per row of A and of B the scale word and the 16 codes. -/
structure Block where
  fa : BitVec 4
  fb : BitVec 4
  a : List (BitVec 16 × List Nat)
  b : List (BitVec 16 × List Nat)
  deriving DecidableEq, Repr

/-- The modes of an accumulator (R273). -/
inductive AccMode where
  | empty | float | int
  deriving DecidableEq, Repr

/-- A REDUCE accumulator (R273). `vals` is keyed 64 row + column and holds FP32 bits or a signed 64-bit integer;
`window` holds the blocks of the open promotion window, `closing` what the whole windows still have to accumulate, and `v`
the 40-bit sums of the integer window under accumulation (R47, R51). -/
structure Acc where
  vals : Tbl Word64
  window : List Block
  closing : List (List Block)
  v : Tbl Word64
  mode : AccMode
  fa : BitVec 4
  fb : BitVec 4
  partial0 : Bool
  l : Nat
  ovm : BitVec 2
  count : Nat
  expect : Option Nat
  absorb : Option (BitVec 6 × Nat)
  ovf : Bool
  inx : Bool
  sat : Bool
  deriving DecidableEq, Repr

/-- A command of the engine queue (R274, R275, R281); a step carries the scale snapshots of its two operands. -/
inductive EngCmd where
  | step (acc : Nat) (a : Nat) (b : Nat) (int : Bool) (sa : Tbl (BitVec 16)) (sb : Tbl (BitVec 16))
  | macc (acc : Nat) (l : Nat) (ovm : BitVec 2)
  | mzero (acc : Nat)
  | meor (acc : Nat) (n : Nat)
  deriving DecidableEq, Repr

/-- The matrix engine of an M-tile (R273, R274). -/
structure Engine where
  acc0 : Acc
  acc1 : Acc
  queue : List EngCmd
  deriving DecidableEq, Repr

/-- The base register of a tile's switch: the tile's place in its page and the page's position (R381). -/
structure TileBase where
  ctx : Nat
  job : Nat
  vreg : Nat
  px : Nat
  py : Nat
  bx : Nat
  byy : Nat
  skip : Nat
  deriving DecidableEq, Repr

/-- A tile: its configuration (R108 to R110), cell, operators, fetch unit and engine. `skipped` is the base register of a
tile in a skipped column of a region (R380, R381); `ending` marks a tile that is left only to the task which runs on it when
its job has ended (R160, R346). -/
structure Tile where
  base : Option TileBase
  record : List Byte
  steer : Tbl (BitVec 16)
  classes : Tbl Word32
  dests : Tbl Word32
  routes : Tbl Word32
  store : Tbl (BitVec 16)
  mask : Byte
  cell : Cell
  ops : Tbl Op
  slots : Tbl Slot
  fetchPts : Nat
  eng : Engine
  frozen : Bool
  captured : List Token
  skipped : Option TileBase
  ending : Bool
  deriving DecidableEq, Repr

/-- The states of a page (R383). -/
inductive PageState where
  | absent | fetching | placing | installing | resident | draining | saved | migrating | failed
  deriving DecidableEq, Repr

/-- A page's saved state (R284, R392): tiles by 16 × page row + page column, the LIVE frames with the tile of their task
coded so, and the scale registers by the number their saved tags name, each with its name and words. -/
structure PageSave where
  tiles : Tbl Tile
  frames : List (Nat × Frame)
  scales : List (Nat × Option Nat × Tbl (BitVec 16))
  deriving DecidableEq, Repr

/-- A page of a job (R379, R383, R384, R458). `records` are the tile records as fetched, an empty one not yet; `retried`
the records whose CRC has failed; `frz` marks a freeze that only THAW ends (R400); `drained` a DRAINING page whose drain
has ended; `evicting` a MIGRATING page whose eviction is held; `stamp` is the time of its last delivery (R389); `attempt`
marks a page that the placement of its gang has brought in so far (R353). -/
structure Page where
  ctx : Nat
  job : Nat
  ix : Nat
  region : Nat
  w : Nat
  h : Nat
  st : PageState
  pinned : Bool
  frz : Bool
  die : Nat
  bx : Nat
  byy : Nat
  skip : Nat
  records : List (List Byte)
  retried : List Nat
  save : Option PageSave
  reserved : Bool
  load : Option Nat
  evicting : Bool
  drained : Bool
  stamp : Nat
  attempt : Bool
  deriving DecidableEq, Repr

/-- The states of a job (R346). -/
inductive JobState where
  | queued | admitted | placing | running | pageWait | preempted | draining | complete | faulted | cancelled
  deriving DecidableEq, Repr

/-- The states of a gang within a job (R356). -/
inductive GangState where
  | declared | waiting | resident | stepping | preempted | done
  deriving DecidableEq, Repr

/-- An entry of the step list (R343). -/
structure StepEntry where
  count : Nat
  gang : Nat
  pin : Bool
  start : Nat
  deriving DecidableEq, Repr

/-- A relocation entry (R379) as the residency manager holds it; `acks` are the dies that have taken the last
change (R382). -/
structure Reloc where
  v : Bool
  hq : Bool
  res : Bool
  lag : Bool
  die : Nat
  bx : Nat
  byy : Nat
  wm1 : Nat
  h8 : Bool
  isle : Nat
  skip : Nat
  acks : List Nat
  deriving DecidableEq, Repr

/-- A snapshot in progress (R396, R401). -/
structure Snap where
  id : Nat
  recAddr : Nat
  area : Nat
  len : Nat
  used : Nat
  abort : Bool
  deriving DecidableEq, Repr

/-- A job (R342, R344, R346, R348). `order` counts admissions (R347); `since` is when a QUEUED job became its queue's head,
or when it was pre-empted (R328, R346); `act` is the last time that R430 counts from. -/
structure Job where
  ctx : Nat
  num : Nat
  kernel : Nat
  queue : Nat
  st : JobState
  cause : BitVec 6
  steps : List StepEntry
  cstep : Nat
  its : Nat
  first : Bool
  jrec : Nat
  doneCtr : Nat
  gangs : Tbl GangState
  reloc : Tbl Reloc
  snap : Option Snap
  order : Nat
  since : Nat
  act : Nat
  deriving DecidableEq, Repr

/-- A page as the image of a loaded kernel lists it (R111): region, size, PINNED and its records' addresses. -/
structure ImgPage where
  region : Nat
  w : Nat
  h : Nat
  pinned : Bool
  recs : List Nat
  deriving DecidableEq, Repr

/-- A loaded kernel (R340): what the scheduler reads from the image's sections, and the SHA-256 of
its signed bytes (R437). -/
structure Kernel where
  ctx : Nat
  handle : Nat
  pages : List ImgPage
  gangs : List (List Nat)
  regions : List (Bool × Nat × Nat)
  digest : List Byte
  deriving DecidableEq, Repr

/-- The states of a context (R309). -/
inductive CtxState where
  | free | opened | active | slicedOut | fenced | closing
  deriving DecidableEq, Repr

/-- The states of a sensor stream port (R420). -/
inductive PortState where
  | down | training | up | fenced
  deriving DecidableEq, Repr

/-- What a stream port is bound to (R250, R251, R303). -/
inductive BindKind where
  | memory
  | fabric
  | operator (t : Nat)
  deriving DecidableEq, Repr

/-- A stream binding (R250 to R253). -/
structure Binding where
  kind : BindKind
  isle : Nat
  tag : Option Nat
  ctx : Nat
  job : Nat
  desc : Option Desc
  ring : Nat
  tok : Bool
  tdest : Nat
  buf : Option Nat
  ending : Bool
  record : Option Nat
  gapNext : Bool
  seq : Nat
  deriving DecidableEq, Repr

/-- What a receive slot of a port holds, in stream order (R417, R418): a line, or the GAP of a missing run. -/
inductive Received where
  | line (seq : Nat) (bytes : List Byte)
  | gap (first : Nat) (last : Nat)
  deriving DecidableEq, Repr

/-- A sensor stream port (R417 to R420); `adv` is FREE and LAST of the latest ADV frame it has sent. -/
structure StreamPort where
  st : PortState
  en : Bool
  ove : Bool
  fence : Bool
  nslot : Nat
  bound : Nat
  last : Nat
  drops : Nat
  crcs : Nat
  dups : Nat
  exp : Option Nat
  missing : Option (Nat × Nat)
  queue : List Received
  binding : Option Binding
  adv : Option (Nat × Nat)
  pts : Nat
  deriving DecidableEq, Repr

/-- The clock stretch of a C-die in progress, and sfreq when it began (R439). -/
structure Supply where
  stretched : Bool
  since : Word64
  deriving DecidableEq, Repr

/-- A die: C-die 0 to 3, or the H-die's block as die 4 (R191, R194, R114, R419, R431, R439). -/
structure Die where
  cyc : Word64
  sfreq : Word64
  dsel : Tbl Word64
  s2root : Tbl Word64
  s2cache : List S2Entry
  spBase : Word64
  spSize : Word32
  psBase : Word64
  psSize : Word32
  port : StreamPort
  supply : Supply
  shoals : List Nat
  fenced : Bool
  deriving DecidableEq, Repr

/-- The states of a circuit (R408). -/
inductive CircuitState where
  | idle | requested | tuning | up | draining | failed
  deriving DecidableEq, Repr

/-- A flit in a retry buffer (R411): its sequence number, the endpoint that sends it, and its tokens. -/
structure Flit where
  seq : Nat
  src : Nat
  toks : List Flight
  deriving DecidableEq, Repr

/-- An entry of the connection table (R407, R408) with its strait's retry buffers, in the order the flits were sent, and
the sequence numbers of each sender (R411). `fails` counts the CRC failures of the first flit in a row; `resend` marks it
discarded until it is sent again; `since` is when tuning began. -/
structure Circuit where
  st : CircuitState
  fcause : BitVec 2
  spec : Word64
  since : Nat
  retry : List Flit
  txSeq : Tbl Nat
  rxSeq : Tbl Nat
  fails : Nat
  resend : Bool
  deriving DecidableEq, Repr

/-- The registers of the H-die management block (R212, R308, R312, R314, R324, R329, R368, R388, R406, R430, R436). -/
structure Mgmt where
  lease : Word64
  ctxtab : Word64
  ctxcmd : Word32
  tslice : Word32
  qcmd : Word32
  jbase : Word64
  jlog2 : Word64
  jseq : Word64
  srtab : Word64
  spto : Word32
  modid : Word64
  fibmap : Word64
  wdto : Word32
  bootstat : Word64
  bootpc : Word64
  islerst : Word64
  plim : BitVec 16
  pmeas : BitVec 16
  mcount : Word32
  mlevel : BitVec 3
  mdie : BitVec 3
  misle : BitVec 4
  attAddr : Word64
  attBusy : Bool
  deriving DecidableEq, Repr

/-- A tenant switch in progress (R314, R315): the tenants, and the isles whose SAVE or LOAD step is outstanding. -/
structure Switch where
  out : Nat
  inc : Nat
  saving : List Nat
  loading : List Nat
  deriving DecidableEq, Repr

/-- A context as the launch scheduler tracks it (R309, R313): its state, tenant, and the isles' contexts saved at the
tenant's last switch, keyed by isle. -/
structure CtxInfo where
  st : CtxState
  tenant : Nat
  savedOn : List Nat
  deriving DecidableEq, Repr

/-- A step on a member's queue that a completion of phase `phase` asked for and that is not over (R371, R372): an opening, or a
closing behind one, of queue `queue` of context `ctx` for straggler record `ix`. -/
structure Opening where
  ix : Nat
  ctx : Nat
  queue : Nat
  opens : Bool
  phase : Nat
  deriving DecidableEq, Repr

/-- One AQ-840 module.

`active`, `agenda`, `free` are MODEL fields: who runs the next unit when the agenda is empty, what happens next, and the
counter to which the free values of Config are applied. `mem` is keyed by die-local location (2^40 × die + address),
`poison` by line, `times` by line; `keys` are the security engine's signer keys, modulus and revocation, by identifier
(R149); `opens` are the straggler openings and closings under way (R372); `cmds` are the accepted commands
not yet carried out, in order of acceptance: context, queue and entry index (R339); `slice` is when the tenant's slice began
(R314); `stalls` are the stall timers of the sending ports (R388); `stuck` is MODEL: the sending ports whose next hop has no credit
(R75, log entry 8); `hits` is MODEL: the COH loads of an agent that have hit since its time last advanced by hits (R213, log
entry 79); `held` is MODEL: an access of this step waits at a
strait (R412); `isles`, `tiles` and `dies` are keyed as `Runner` and R4 number them. -/
structure State where
  active : Runner
  agenda : List Item
  free : Nat
  mem : Tbl Byte
  memUe : List Nat
  poison : List Nat
  times : Tbl (Nat × Nat)
  isles : Tbl Isle
  tiles : Tbl Tile
  dies : Tbl Die
  flights : List Flight
  pages : List Page
  jobs : List Job
  kernels : List Kernel
  lagoons : List ((Nat × Nat × Nat) × List Token)
  ctxs : Tbl CtxInfo
  tslot : Option Switch
  tenant : Nat
  keys : Tbl (Nat × Bool)
  circuits : Tbl Circuit
  mgmt : Mgmt
  hostPts : Tbl Nat
  schedPts : Nat
  secPts : Nat
  rollover : Bool
  served : Tbl (Nat × Nat)
  buckets : Tbl Nat
  orders : Nat
  micros : Nat
  opIds : Nat
  opens : List Opening
  cmds : List (Nat × Nat × Nat)
  slice : Nat
  stalls : List (PortId × Nat)
  stuck : List PortId
  hits : List (Agent × Nat)
  held : Bool
  deriving DecidableEq, Repr

/-- A core after isle reset: Machine mode, `status` at its reset value (R113, R116), lease 64 (R119); the g registers
are zero (log entry 2). -/
def Core.reset : Core where
  g := Vector.replicate 32 0
  pc := 0
  pfx := none
  status := 0xC
  epc := 0
  cause := 0
  tval := 0
  tvec := 0
  ptroot := 0
  lease := 64
  capbase := 0xFFF0004008000
  mepc := 0
  mcause := 0
  mtval := 0
  mtvec := 0
  fcsr := 0
  lbeg0 := 0
  lend0 := 0
  lbeg1 := 0
  lend1 := 0
  event := false
  eventPts := 0
  halted := false
  stopped := false
  waiting := none
  atVector := false
  unfenced := []
  pts := 0
  killed := false
  check := false
  preempts := []
  overflow := none

/-- A bank after isle reset (R181): CACHE, no owner. -/
def Bank.reset : Bank := ⟨.cache, 0, 0, .cache, false, false⟩

/-- A frame that is not in use (R67). -/
def Frame.reset : Frame := ⟨.free, 0, 0, []⟩

/-- A scale register after isle reset (R256): FREE; its words are zero (log entry 3). -/
def ScaleReg.reset : ScaleReg := ⟨.free, 0, 0, 0, []⟩

/-- A descriptor with no elements, for an unarmed template. -/
def Desc.none : Desc := ⟨0, 0, 0, 0, 1, 0, false, [0], [0]⟩

/-- A disarmed template. -/
def Template.reset : Template :=
  ⟨false, 0, 0, Desc.none, Desc.none, none, [], 0, 0, 0, false, false⟩

/-- A hardware queue with nothing bound; a TRIGGER queue holds 16 tokens (R334). -/
def HwQueue.reset : HwQueue := ⟨none, 16, []⟩

/-- A trap record of zeros. -/
def TrapRec.zero : TrapRec :=
  ⟨0, 0, 0, 0, 0, 0, 0, 0, false, false, 0, 0, 0, Lanes.zero, Lanes.zero, 0, 0, 0, 0, 0, false⟩

/-- An isle after isle reset: context 0 loaded (R311), every ctb bit 1 (R240), every bank CACHE (R181). -/
def Isle.reset : Isle where
  core := Core.reset
  ctx := 0
  tenant := 0
  ctb := BitVec.allOnes 64
  cerr := 0
  tagTime := []
  banks := []
  spm := []
  spmUe := []
  dir := []
  frames := []
  freeList := []
  scales := []
  scaleMap := []
  l2 := []
  tlb := []
  engPts := 0
  ops := []
  templates := []
  sigs := []
  prefetches := []
  wakes := []
  ports := []
  hwq := []
  ring := []
  trHead := 0
  trTail := 0
  trAct := 0
  tsw := 0
  tswAt := 0
  loads := []
  saved := false
  fenced := false
  waitRecs := []

/-- A cell of a tile with no page. -/
def Cell.reset : Cell := ⟨0, none, [], [], 0⟩

/-- An operator slot that is not in use. -/
def Op.reset : Op :=
  { used := false, regs := [], inputs := [], sent := [], buf := [], elems := [], lut := [], cnt := [], col := none,
    rr := 0, parts := [], eosSeen := [], marks := [], ckbuf := [], record := none, held := none, desc := none,
    pts := 0, elem := 0, ended := false, rins := [], sat := false,
    added := false, hist := [], block := none, pend := [] }

/-- A FREE fetch slot (R272). -/
def Slot.reset : Slot :=
  { st := .free, tid := 0, coord := 0, keep := false, scl := none, tag := none, tok := false, tdest := 0, frame := 0,
    buf := none, fmt := 0, data := [], lines := [], queued := 0, released := false, record := none,
    reload := none, seq := 0, preempt := false }

/-- A cleared accumulator with `L` 64 and OVM 0b00 (R273). -/
def Acc.reset : Acc :=
  { vals := [], window := [], closing := [], v := [], mode := .empty, fa := 0, fb := 0, partial0 := false, l := 64, ovm := 0,
    count := 0, expect := none, absorb := none, ovf := false, inx := false, sat := false }

/-- An engine with empty queue and cleared accumulators. -/
def Engine.reset : Engine := ⟨Acc.reset, Acc.reset, []⟩

/-- A tile with no page: unconfigured and power-gated (R108). -/
def Tile.reset : Tile where
  base := none
  record := []
  steer := []
  classes := []
  dests := []
  routes := []
  store := []
  mask := 0
  cell := Cell.reset
  ops := []
  slots := []
  fetchPts := 0
  eng := Engine.reset
  frozen := false
  captured := []
  skipped := none
  ending := false

/-- A port after reset: DOWN, NSLOT 16 (R419). -/
def StreamPort.reset : StreamPort where
  st := .down
  en := false
  ove := false
  fence := false
  nslot := 16
  bound := 0
  last := 0
  drops := 0
  crcs := 0
  dups := 0
  exp := none
  missing := none
  queue := []
  binding := none
  adv := none
  pts := 0

/-- A die after module reset (R194, R206). -/
def Die.reset : Die where
  cyc := 0
  sfreq := 0
  dsel := []
  s2root := []
  s2cache := []
  spBase := 0
  spSize := 0
  psBase := 0
  psSize := 0
  port := StreamPort.reset
  supply := ⟨false, 0⟩
  shoals := []
  fenced := false

/-- An IDLE circuit (R408). -/
def Circuit.reset : Circuit := ⟨.idle, 0, 0, 0, [], [], [], 0, false⟩

/-- The management block after module reset: LEASE 64, TSLICE 2,000, SPTO 10,000, WDTO 1,000, PLIM 1,000, JSEQ 1, every
isle held (R212, R314, R388, R430, R436, R329). -/
def Mgmt.reset : Mgmt where
  lease := 64
  ctxtab := 0
  ctxcmd := 0
  tslice := 2000
  qcmd := 0
  jbase := 0
  jlog2 := 8
  jseq := 1
  srtab := 0
  spto := 10000
  modid := 0
  fibmap := 0
  wdto := 1000
  bootstat := 0
  bootpc := 0
  islerst := BitVec.allOnes 64
  plim := 1000
  pmeas := 0
  mcount := 0
  mlevel := 0
  mdie := 0
  misle := 0
  attAddr := 0
  attBusy := false

/-- A context as the scheduler tracks it before OPEN. -/
def CtxInfo.reset : CtxInfo := ⟨.free, 0, []⟩

/-- The module right after module reset (R434 to R436): every isle held in reset, no die in service, memory with nothing
listed, context 0 OPEN (R311). -/
def State.reset : State where
  active := .core 0
  agenda := []
  free := 0
  mem := []
  memUe := []
  poison := []
  times := []
  isles := []
  tiles := []
  dies := []
  flights := []
  pages := []
  jobs := []
  kernels := []
  lagoons := []
  ctxs := [(0, ⟨.opened, 0, []⟩)]
  tslot := none
  tenant := 0
  keys := []
  circuits := []
  mgmt := Mgmt.reset
  hostPts := []
  schedPts := 0
  secPts := 0
  rollover := false
  served := []
  buckets := []
  orders := 0
  micros := 0
  opIds := 0
  opens := []
  cmds := []
  slice := 0
  stalls := []
  stuck := []
  hits := []
  held := false

end Sys2Proof.Machine
end

