-- ==== Sys2Proof/Machine/Ops.lean ====
section
/-! DEFINITION. The named operations over the state: the parts of the module, trap entry and return, logical time, the
caches, translation, and the memories. -/

namespace Sys2Proof.Machine

/-! ### Bits -/

/-- Bits [hi:lo] of a word as a number (R10). -/
def bits {n : Nat} (x : BitVec n) (hi lo : Nat) : Nat := x.toNat / 2 ^ lo % 2 ^ (hi + 1 - lo)

/-- Bit `i` of a word. -/
def bit {n : Nat} (x : BitVec n) (i : Nat) : Bool := x.getLsbD i

/-- The word with bits [hi:lo] replaced by the low bits of `v`. -/
def putBits {n : Nat} (x : BitVec n) (hi lo v : Nat) : BitVec n :=
  BitVec.ofNat n (x.toNat - bits x hi lo * 2 ^ lo + v % 2 ^ (hi + 1 - lo) * 2 ^ lo)

/-- One bit as a number. -/
def b2n (b : Bool) : Nat := if b then 1 else 0

/-- sext(v, n) of R17 as an integer. -/
def sextInt (v n : Nat) : Int :=
  let m := v % 2 ^ n
  if n = 0 then 0 else if 2 ^ (n - 1) ≤ m then (m : Int) - 2 ^ n else m

/-- wrapn(x, n) of R59 as the n-bit pattern. -/
def wrapPat (x : Int) (n : Nat) : Nat := (x % (2 ^ n : Nat)).toNat

/-- An integer as a 64-bit word (wrap64 of R59). -/
def word64 (x : Int) : Word64 := BitVec.ofInt 64 x

/-- The little-endian bytes of `v`, `n` of them (R10). -/
def bytesOf (v n : Nat) : List Byte := (List.range n).map (fun i => BitVec.ofNat 8 (v / 2 ^ (8 * i)))

/-- The number whose little-endian bytes are given (R10). -/
def numOf (l : List Byte) : Nat := l.foldr (fun b acc => b.toNat + 256 * acc) 0

/-- Lanes from little-endian bytes, lane 0 first (R332). -/
def lanesOfBytes (l : List Byte) : Lanes :=
  Lanes.ofFn (fun i => BitVec.ofNat 32 (numOf ((l.drop (4 * i)).take 4)))

/-- The little-endian bytes of lanes 0 to n − 1. -/
def bytesOfLanes (v : Lanes) (n : Nat) : List Byte :=
  (List.range n).flatMap (fun i => bytesOf (v.get i).toNat 4)

/-- The code of a cause (R423). -/
def causeCode : Cause → BitVec 6
  | .illegalEnc => 0x00 | .reservedField => 0x01 | .prefixOrphan => 0x02 | .priv => 0x03
  | .classMode => 0x04 | .misalignPc => 0x05 | .routineOverrun => 0x06 | .tempUndef => 0x07
  | .breakpoint => 0x08 | .singleStep => 0x09 | .divZero => 0x0A | .intOverflow => 0x0B
  | .fpInvalid => 0x0C | .fpOverflow => 0x0D | .accOverflow => 0x0E | .software => 0x0F
  | .s1Unmapped => 0x10 | .s1Perm => 0x11 | .s2Fault => 0x12 | .s2Perm => 0x13
  | .addrRange => 0x14 | .misalignData => 0x15 | .atomicKind => 0x16 | .scopeIllegal => 0x17
  | .memUe => 0x18 | .poisonConsumed => 0x19 | .spmBounds => 0x1A | .ownerBit => 0x1B
  | .leaseRollover => 0x1C | .descInvalid => 0x1D | .swizzleMismatch => 0x1E | .dimLimit => 0x1F
  | .staleScale => 0x20 | .scaleUnbound => 0x21 | .scaleShape => 0x22 | .formatUnsupported => 0x23
  | .errTokenSink => 0x24 | .frameExhausted => 0x25 | .frameInvalid => 0x26 | .slotCollision => 0x27
  | .pageAbsent => 0x28 | .pageSig => 0x29 | .pageCrc => 0x2A | .placeFail => 0x2B
  | .spillExhausted => 0x2C | .quota => 0x2D | .routeInvalid => 0x2E | .checkpointOverflow => 0x2F
  | .queueFull => 0x30 | .queueEmpty => 0x31 | .joinUnderflow => 0x32 | .barrierAhead => 0x33
  | .barrierOverarrive => 0x34 | .sectorUnderflow => 0x35 | .stealDenied => 0x36 | .tagBusy => 0x37
  | .linkDown => 0x38 | .remoteFenced => 0x39 | .streamOverflow => 0x3A | .watchdog => 0x3B
  | .preempt => 0x3C | .contextKilled => 0x3D | .machineCheck => 0x3E | .doubleFault => 0x3F

/-! ### The parts of the module -/

/-- Isle `k`. -/
def State.isle (s : State) (k : Nat) : Isle := s.isles.get Isle.reset k

/-- Isle `k` replaced. -/
def State.setIsle (s : State) (k : Nat) (v : Isle) : State := { s with isles := s.isles.put k v }

/-- Isle `k` changed by `f`. -/
def State.updIsle (s : State) (k : Nat) (f : Isle → Isle) : State := s.setIsle k (f (s.isle k))

/-- The control core of isle `k`. -/
def State.core (s : State) (k : Nat) : Core := (s.isle k).core

/-- The control core of isle `k` replaced. -/
def State.setCore (s : State) (k : Nat) (v : Core) : State := s.setIsle k { s.isle k with core := v }

/-- The control core of isle `k` changed by `f`. -/
def State.updCore (s : State) (k : Nat) (f : Core → Core) : State := s.setCore k (f (s.core k))

/-- Tile `t`. -/
def State.tile (s : State) (t : Nat) : Tile := s.tiles.get Tile.reset t

/-- Tile `t` replaced. -/
def State.setTile (s : State) (t : Nat) (v : Tile) : State := { s with tiles := s.tiles.put t v }

/-- Tile `t` changed by `f`. -/
def State.updTile (s : State) (t : Nat) (f : Tile → Tile) : State := s.setTile t (f (s.tile t))

/-- The cell of tile `t`. -/
def State.cell (s : State) (t : Nat) : Cell := (s.tile t).cell

/-- The cell of tile `t` replaced. -/
def State.setCell (s : State) (t : Nat) (v : Cell) : State := s.setTile t { s.tile t with cell := v }

/-- Die `d`; die 4 is the H-die's block. -/
def State.die (s : State) (d : Nat) : Die := s.dies.get Die.reset d

/-- Die `d` changed by `f`. -/
def State.updDie (s : State) (d : Nat) (f : Die → Die) : State := { s with dies := s.dies.put d (f (s.die d)) }

/-- Operator `c` of tile `t` (R286). -/
def State.op (s : State) (t c : Nat) : Op := (s.tile t).ops.get Op.reset c

/-- Operator `c` of tile `t` changed by `f`. -/
def State.updOp (s : State) (t c : Nat) (f : Op → Op) : State :=
  s.updTile t (fun v => { v with ops := v.ops.put c (f (v.ops.get Op.reset c)) })

/-- Tile `(x, y)` of die `d`. -/
def tileAt (d x y : Nat) : Nat := 2048 * d + 64 * y + x

/-- The die of a tile. -/
def tileDie (t : Nat) : Nat := t / 2048

/-- The physical column of a tile. -/
def tileX (t : Nat) : Nat := t % 64

/-- The physical row of a tile. -/
def tileY (t : Nat) : Nat := t / 64 % 32

/-- The isle that holds tile (x, y) has index 4 × (y div 8) + (x div 16) (R4). -/
def tileIsle (t : Nat) : Nat := 16 * tileDie t + 4 * (tileY t / 8) + tileX t / 16

/-- The die of an isle. -/
def isleDie (k : Nat) : Nat := k / 16

/-- The tile at column `x`, row `y` of isle `k` (R306, R332). -/
def isleTile (k x y : Nat) : Nat :=
  tileAt (isleDie k) (16 * (k % 16 % 4) + x) (8 * (k % 16 / 4) + y)

/-- The kinds of tile (R5). -/
inductive TileKind where
  | m | v | s
  deriving DecidableEq, Repr

/-- The kind depends only on the row (R5). -/
def tileKind (t : Nat) : TileKind :=
  match tileY t % 4 with
  | 0 => .m | 1 => .m | 2 => .v | _ => .s

/-- C-die `d` is present (R3, R436). -/
def State.present (s : State) (d : Nat) : Bool := decide (d < 4) && bit s.mgmt.bootstat (16 + d)

/-- Isle `k` is held in reset (R436). -/
def State.inReset (s : State) (k : Nat) : Bool := bit s.mgmt.islerst k

/-- The isle of an agent that has one. -/
def agentIsle : Agent → Nat
  | .core k => k
  | .engine k => k
  | .cell t => tileIsle t
  | .memop t => tileIsle t
  | .fetch t => tileIsle t
  | .binding k => k
  | .host _ => 64
  | .sched => 64
  | .security => 64

/-- The die whose copy of the die-select table an agent uses (R194). -/
def agentDie (g : Agent) : Nat := if agentIsle g = 64 then 4 else isleDie (agentIsle g)

/-! ### Logical time (R205) -/

/-- The logical time of an agent. -/
def State.pts (s : State) : Agent → Nat
  | .core k => (s.core k).pts
  | .engine k => (s.isle k).engPts
  | .cell t => (s.cell t).pts
  | .memop t => (s.op t 8).pts
  | .fetch t => (s.tile t).fetchPts
  | .binding k => (s.die (k / 16)).port.pts
  | .host h => s.hostPts.get 0 h
  | .sched => s.schedPts
  | .security => s.secPts

/-- The state with an agent's logical time set. -/
def State.setPts (s : State) (g : Agent) (p : Nat) : State :=
  match g with
  | .core k => s.updCore k (fun c => { c with pts := p })
  | .engine k => s.updIsle k (fun i => { i with engPts := p })
  | .cell t => s.setCell t { s.cell t with pts := p }
  | .memop t => s.updOp t 8 (fun o => { o with pts := p })
  | .fetch t => s.updTile t (fun v => { v with fetchPts := p })
  | .binding k => s.updDie (k / 16) (fun v => { v with port := { v.port with pts := p } })
  | .host h => { s with hostPts := s.hostPts.put h p }
  | .sched => { s with schedPts := p }
  | .security => { s with secPts := p }

/-- pts := max(pts, t) (R216, R217). -/
def State.mergePts (s : State) (g : Agent) (t : Nat) : State :=
  if s.pts g < t then s.setPts g t else s

/-- The lease length of an agent's loads (R212). -/
def State.leaseLen (s : State) (g : Agent) : Nat :=
  match g with
  | .host _ => bits s.mgmt.lease 15 0
  | .sched => bits s.mgmt.lease 15 0
  | .security => bits s.mgmt.lease 15 0
  | _ => bits (s.core (agentIsle g)).lease 15 0

/-! ### Trap entry and return (R120 to R123, R145) -/

/-- The modes of a control core (R113). -/
inductive Mode where
  | user | supervisor | machine
  deriving DecidableEq, Repr

/-- The encoding of a mode (R113). -/
def modeBits : Mode → Nat
  | .user => 0 | .supervisor => 1 | .machine => 3

/-- status.MODE (R116). -/
def Core.mode (c : Core) : Mode :=
  match bits c.status 3 2 with
  | 0 => .user | 1 => .supervisor | _ => .machine

/-- The order of privilege (R101). -/
def modeLe (a b : Mode) : Bool := decide (modeBits a ≤ modeBits b)

/-- A 57-bit virtual address as the pc holds it: bits [63:57] equal bit 56 (R112, R178). -/
def va57 (a : Nat) : Word64 := BitVec.ofInt 64 (sextInt a 57)

/-- Where a trap enters: BASE × 4, or BASE × 4 + 16 × CODE when vectored (R118, R121). -/
def vectorOf (vec : Word64) (c : Cause) : Word64 :=
  let base := 4 * bits vec 56 2
  va57 (if bits vec 1 0 = 1 then base + 16 * (causeCode c).toNat else base)

/-- The image that cause and mcause take (R117, R121). -/
def causeImage (c : Cause) (async pfx : Bool) : Word64 :=
  BitVec.ofNat 64 ((causeCode c).toNat + 128 * b2n async + 256 * b2n pfx)

/-- Machine mode takes every trap raised in Machine mode, and every MACHINE_CHECK and DOUBLE_FAULT (R120). -/
def trapTarget (m : Mode) (c : Cause) : Mode :=
  if m = .machine ∨ c = .machineCheck ∨ c = .doubleFault then .machine else .supervisor

/-- Trap entry as one step (R121): exception address `e`, trap value `v`. The latched prefix is dropped, a halted or
waiting core issues again, and the next fetch is the first at a trap target (R124). -/
def trapEntry (cr : Core) (c : Cause) (e v : Word64) (async pfx : Bool) : Core :=
  let cr := { cr with pfx := none, waiting := none, halted := false, atVector := true }
  match trapTarget cr.mode c with
  | .machine =>
    { cr with
      mepc := e, mcause := causeImage c async pfx, mtval := v,
      status := putBits (putBits (putBits (putBits cr.status 9 8 (bits cr.status 3 2))
        7 7 (bits cr.status 1 1)) 1 1 0) 3 2 3,
      pc := vectorOf cr.mtvec c }
  | _ =>
    { cr with
      epc := e, cause := causeImage c async pfx, tval := v,
      status := putBits (putBits (putBits (putBits cr.status 5 5 (b2n (decide (bits cr.status 3 2 = 1))))
        4 4 (bits cr.status 0 0)) 0 0 0) 3 2 1,
      pc := vectorOf cr.tvec c }

/-- The return of ERET to an even target (R145). -/
def trapReturn (cr : Core) : Core :=
  match cr.mode with
  | .machine =>
    { cr with
      status := putBits (putBits (putBits (putBits cr.status 3 2 (bits cr.status 9 8))
        1 1 (bits cr.status 7 7)) 7 7 1) 9 8 0,
      pc := cr.mepc }
  | _ =>
    { cr with
      status := putBits (putBits (putBits (putBits cr.status 3 2 (bits cr.status 5 5))
        0 0 (bits cr.status 4 4)) 4 4 1) 5 5 0,
      pc := cr.epc }

/-- The loop-end step on the pc that a completed unit leaves (R136): with the innermost active level's END and MODE. A
counter of g0 discards the write and reads zero (R82). -/
def loopEnd (cr : Core) : Core :=
  if bit cr.lend1 63 then
    if cr.pc = va57 (2 * bits cr.lend1 55 0) ∧ bits cr.status 3 2 = bits cr.lend1 57 56 then
      let r := cr.lend1.extractLsb' 58 5
      let n := if r = 0 then 0 else cr.g[r.toFin] - 1
      let g := if r = 0 then cr.g else cr.g.set r.toFin n
      if n ≠ 0 then { cr with g := g, pc := va57 (2 * bits cr.lbeg1 55 0) }
      else { cr with g := g, lend1 := putBits cr.lend1 63 63 0 }
    else cr
  else if bit cr.lend0 63 then
    if cr.pc = va57 (2 * bits cr.lend0 55 0) ∧ bits cr.status 3 2 = bits cr.lend0 57 56 then
      let r := cr.lend0.extractLsb' 58 5
      let n := if r = 0 then 0 else cr.g[r.toFin] - 1
      let g := if r = 0 then cr.g else cr.g.set r.toFin n
      if n ≠ 0 then { cr with g := g, pc := va57 (2 * bits cr.lbeg0 55 0) }
      else { cr with g := g, lend0 := putBits cr.lend0 63 63 0 }
    else cr
  else cr

/-! ### Physical memory -/

/-- The byte at a physical location; a byte that nothing has written reads 0 (log entry 1). -/
def Memory.read (m : Tbl Byte) (a : Nat) : Byte := m.get 0 a

/-- One byte written; writing 0 removes the entry, so equal memories are equal lists (log entry 1). -/
def Memory.write (m : Tbl Byte) (a : Nat) (b : Byte) : Tbl Byte :=
  if b = 0 then m.erase a else m.put a b

/-- Keys rise strictly. -/
def Memory.rising : Tbl Byte → Bool
  | [] => true
  | [_] => true
  | (a, _) :: (b, y) :: r => decide (a < b) && Memory.rising ((b, y) :: r)

/-- The canonical form: keys rise strictly and no listed byte is what an unlisted one reads as. -/
def Memory.wf (m : Tbl Byte) : Bool := Memory.rising m && m.all (fun e => e.2 != 0)

/-- `n` bytes from `a` upward. -/
def Memory.readN (m : Tbl Byte) (a n : Nat) : List Byte := (List.range n).map (fun i => Memory.read m (a + i))

/-- Bytes written from `a` upward. -/
def Memory.writeN (m : Tbl Byte) (a : Nat) : List Byte → Tbl Byte
  | [] => m
  | b :: r => Memory.writeN (Memory.write m a b) (a + 1) r

/-- A die-local address of die `d` as a key of `State.mem` (R178). -/
def physKey (d a : Nat) : Nat := 2 ^ 40 * d + a % 2 ^ 40

/-- The line of a key (R178). -/
def lineOf (key : Nat) : Nat := key / 64

/-- The list with `x` in it once. -/
def insertOnce (l : List Nat) (x : Nat) : List Nat := if l.contains x then l else l ++ [x]

/-- The marks of a write of `n` bytes at `key` (R195, R432): only a write of a whole line clears poison and an
uncorrectable error. -/
def clearMarks (s : State) (key n : Nat) : State :=
  if n = 64 ∧ key % 64 = 0 then
    { s with poison := s.poison.filter (· != lineOf key), memUe := s.memUe.filter (fun a => lineOf a != lineOf key) }
  else s

/-- Bytes written to the home memory. -/
def writeHome (s : State) (key : Nat) (l : List Byte) : State :=
  clearMarks { s with mem := Memory.writeN s.mem key l } key l.length

/-! ### The isle L2 (R177, R200, R206 to R209, R219, R223) -/

/-- The home times (wts, rts) of a line, 0 at die reset (R206). -/
def State.times' (s : State) (line : Nat) : Nat × Nat := s.times.get (0, 0) line

/-- Bank `n` of an isle. -/
def Isle.bank (i : Isle) (n : Nat) : Bank := i.banks.get Bank.reset n

/-- Bank `n` takes L2 lines: it is in CACHE mode and not leaving it (R180). -/
def Isle.takesLines (i : Isle) (n : Nat) : Bool := (i.bank n).mode == .cache && !(i.bank n).busy

/-- Some bank of the isle takes L2 lines. -/
def Isle.caches (i : Isle) : Bool := (List.range 256).any i.takesLines

/-- The bank that takes line `line` of isle `k`. -/
def bankFor (i : Isle) (k line : Nat) : Nat :=
  let l := (List.range 256).filter i.takesLines
  l.getD (Config.bankOfLine k line % l.length) 0

/-- The isle's copy of a line. -/
def Isle.line (i : Isle) (line : Nat) : Option L2Line := (i.l2.find? (fun e => e.1 == line)).map (·.2)

/-- The isle with a line stored. -/
def Isle.putLine (i : Isle) (line : Nat) (v : L2Line) : Isle := { i with l2 := i.l2.put line v }

/-- The isle without a line. -/
def Isle.dropLine (i : Isle) (line : Nat) : Isle := { i with l2 := i.l2.erase line }

/-- The fetch slots of isle `k` that pin a line (R269). -/
def slotPins (s : State) (k line : Nat) : Nat :=
  ((s.tiles.filter (fun e => tileIsle e.1 == k)).map (fun e =>
    (e.2.slots.map (fun x => x.2.lines.countP (· == line))).foldl (· + ·) 0)).foldl (· + ·) 0

/-- A line enters the L2 of isle `k`, if a bank takes it (R177, R180); the pins of fetch slots on it hold again (R269). A
line that the isle already holds keeps its bank. -/
def fillLine (s : State) (k line : Nat) (v : L2Line) : State :=
  match (s.isle k).line line with
  | some o => s.updIsle k (fun i => i.putLine line { v with pins := o.pins, bank := o.bank })
  | none =>
    if (s.isle k).caches then
      s.updIsle k (fun i => i.putLine line { v with pins := slotPins s k line, bank := bankFor i k line })
    else s

/-- The 64 bytes of a line at its home. -/
def homeLine (s : State) (line : Nat) : List Byte := Memory.readN s.mem (64 * line) 64

/-- A list with the bytes from index `at` replaced. -/
def spliceAt (l : List Byte) (pos : Nat) (new : List Byte) : List Byte :=
  l.take pos ++ new ++ l.drop (pos + new.length)

/-- The isles of a die. -/
def dieIsles (d : Nat) : List Nat := (List.range 16).map (fun i => 16 * d + i)

/-- The dirty bytes of a LOC line written home; the line stays, clean (R223). -/
def writeBack (s : State) (k line : Nat) : State :=
  match (s.isle k).line line with
  | none => s
  | some v =>
    if v.coh ∨ v.dirty = 0 then s
    else
      let mem := (List.range 64).foldl
        (fun m i => if bit v.dirty i then Memory.write m (64 * line + i) (v.data.getD i 0) else m) s.mem
      let s := clearMarks { s with mem := mem } (64 * line) (if v.dirty = BitVec.allOnes 64 then 64 else 1)
      s.updIsle k (fun i => i.putLine line { v with dirty := 0 })

/-- Every dirty LOC line of isle `k` written home (R200, REL at PKG). -/
def writeBackAll (s : State) (k : Nat) : State :=
  ((s.isle k).l2.map (·.1)).foldl (fun s l => writeBack s k l) s

/-- A LOC line some of whose bytes are dirty takes the home's bytes for its clean ones, as a line that went and came back
(R221, R227; log entry 76). -/
def refreshed (s : State) (line : Nat) (v : L2Line) : L2Line :=
  { v with data := (List.range 64).map (fun i => if bit v.dirty i then v.data.getD i 0 else (homeLine s line).getD i 0) }

/-- Every clean LOC line of isle `k` dropped, pinned or not, and every partly dirty one refreshed (R200, ACQ at PKG). -/
def dropCleanLoc (s : State) (k : Nat) : State :=
  s.updIsle k (fun i => { i with l2 := (i.l2.filter (fun e => e.2.coh || e.2.dirty != 0)).map (fun e =>
    (e.1, if e.2.coh then e.2 else refreshed s e.1 e.2)) })

/-- A copy replaced at a moment of the isle's own (MODEL: an agenda item); a dirty line goes home first. -/
def evictLine (s : State) (k line : Nat) : State :=
  match (s.isle k).line line with
  | none => s
  | some v => if v.pins ≠ 0 then s else (writeBack s k line).updIsle k (fun i => i.dropLine line)

/-- A time at or above 2^47 is reported to the H-die firmware (R214). -/
def noteTime (s : State) (t : Nat) : State := if t < 2 ^ 47 then s else { s with rollover := true }

/-- The time of an access (R214): one at or above 2^47 is reported, and an access that would need one beyond 2^48 − 1 waits. -/
def holdTime (s : State) (t : Nat) : State := if t < 2 ^ 48 then noteTime s t else { s with held := true }

/-- The leased copy of a line that a COH load of agent `g` hits (R207). Agents outside the isles keep no copy. -/
def cohHit (s : State) (g : Agent) (line : Nat) : Option L2Line :=
  if agentIsle g < 64 then
    match (s.isle (agentIsle g)).line line with
    | some v => if v.coh ∧ s.pts g ≤ v.cr then some v else none
    | none => none
  else none

/-- One more load of agent `g` has hit since its time last advanced by hits (R213). -/
def countHit (s : State) (g : Agent) : State :=
  let n := ((s.hits.find? (fun e => e.1 == g)).map (·.2)).getD 0
  { s with hits := (g, n + 1) :: s.hits.filter (fun e => e.1 != g) }

/-- The time of an agent that hits advances by 1 (R213). -/
def advanceHits (s : State) (g : Agent) : State :=
  let s1 := { s with hits := s.hits.filter (fun e => e.1 != g) }
  if s.pts g + 1 < 2 ^ 48 then (noteTime s1 (s.pts g + 1)).setPts g (s.pts g + 1) else s1

/-- A COH load performed at the home: the miss branch of R207. -/
def cohMiss (s : State) (g : Agent) (key n : Nat) : List Byte × State :=
  let line := lineOf key
  let k := agentIsle g
  let w := (s.times' line).1
  let ts := max (s.pts g) w
  let r' := max (s.times' line).2 (ts + s.leaseLen g)
  let s1 := { s with times := s.times.put line (w, r') }
  let s2 := if k < 64 then
      fillLine s1 k line { coh := true, data := homeLine s line, dirty := 0, cw := w, cr := r', pins := 0, bank := 0 }
    else s1
  (Memory.readN s.mem key n, (holdTime s2 r').setPts g ts)

/-- A COH load of `n` bytes of one line at `key` by agent `g` (R207). -/
def cohLoad (s : State) (g : Agent) (key n : Nat) : List Byte × State :=
  match cohHit s g (lineOf key) with
  | some v => ((v.data.drop (key % 64)).take n, countHit (s.setPts g (max (s.pts g) v.cw)) g)
  | none => cohMiss s g key n

/-- A COH write at the home at time max(p, rts + 1); a copy that the agent's isle has becomes the line's new value (R208,
R209). -/
def cohStore (s : State) (g : Agent) (key : Nat) (l : List Byte) : State :=
  let line := lineOf key
  let k := agentIsle g
  let ts := max (s.pts g) ((s.times' line).2 + 1)
  let s1 := { writeHome s key l with times := s.times.put line (ts, ts) }
  let s2 := if k < 64 then
      match (s.isle k).line line with
      | some v => if v.coh then s1.updIsle k (fun i => i.putLine line
          { v with data := homeLine s1 line, cw := ts, cr := ts }) else s1
      | none => s1
    else s1
  (holdTime s2 ts).setPts g ts

/-- The bytes of a LOC line as isle `k` sees them: its own copy, or else a dirty copy on its die, or else the home
(R219). -/
def locLine (s : State) (k line : Nat) : List Byte :=
  match (s.isle k).line line with
  | some v => v.data
  | none =>
    match (dieIsles (isleDie k)).findSome? (fun j =>
        match (s.isle j).line line with
        | some v => if v.dirty ≠ 0 then some v.data else none
        | none => none) with
    | some d => d
    | none => homeLine s line

/-- A LOC load: a miss fills a clean copy (R219). An agent outside the isles reads the home (R227). -/
def locLoad (s : State) (k key n : Nat) : List Byte × State :=
  if k < 64 then
    let line := lineOf key
    let data := locLine s k line
    let s' := match (s.isle k).line line with
      | some _ => s
      | none => fillLine s k line ⟨false, data, 0, 0, 0, 0, 0⟩
    ((data.drop (key % 64)).take n, s')
  else (Memory.readN s.mem key n, s)

/-- The dirty mask of `n` bytes from offset `o`. -/
def dirtyMask (o n : Nat) : Word64 := BitVec.ofNat 64 ((2 ^ n - 1) * 2 ^ o)

/-- A LOC store: the line comes into the storing isle's L2, and no other isle of the die keeps a copy; the dirty bytes of
one that goes are written home, so that its agents' releases still cover them (R219, R221; log entry 76). An isle without a
bank that takes lines writes through. -/
def locStore (s : State) (k key : Nat) (l : List Byte) : State :=
  if k < 64 then
    let line := lineOf key
    let data := locLine s k line
    let dirty := (((s.isle k).line line).map (·.dirty)).getD 0
    let s1 := (dieIsles (isleDie k)).foldl (fun s j =>
      if j = k ∨ ((s.isle j).line line).isNone then s
      else (writeBack s j line).updIsle j (fun i => i.dropLine line)) s
    if ((s.isle k).line line).isSome ∨ (s.isle k).caches then
      fillLine s1 k line {
        coh := false, data := spliceAt data (key % 64) l, dirty := dirty ||| dirtyMask (key % 64) l.length, cw := 0, cr := 0, pins := 0, bank := 0 }
    else writeHome s1 key l
  else writeHome s key l

/-- Every dirty copy of a line on the die of isle `k` written home, before an atomic there (R177). -/
def flushForAtomic (s : State) (k line : Nat) : State :=
  if k < 64 then
    (dieIsles (isleDie k)).foldl (fun s j =>
      if ((s.isle j).line line).isNone then s else (writeBack s j line).updIsle j (fun i => i.dropLine line)) s
  else s

/-! ### Die selection and stage 2 (R191 to R193) -/

/-- What an access does (R189); a prefetch needs no right (R197). -/
inductive Access where
  | load | store | atomic | fetch | pref
  deriving DecidableEq, Repr

/-- The rights of a stage-2 leaf suffice for an access (R192). -/
def S2Entry.permits (e : S2Entry) (a : Access) : Bool :=
  match a with
  | .load => e.r
  | .fetch => e.r
  | .store => e.w
  | .atomic => e.r && e.w
  | .pref => true

/-- h(g) of R191. -/
def dieHash (g : Nat) : Nat :=
  (g / 2 ^ 12 % 64) ^^^ (g / 2 ^ 18 % 64) ^^^ (g / 2 ^ 24 % 64) ^^^ (g / 2 ^ 30 % 64) ^^^ (g / 2 ^ 36 % 64)
    ^^^ (g / 2 ^ 42 % 64) ^^^ (g / 2 ^ 48 % 16)

/-- Entry `i` of die `d`'s copy of the die-select table (R194). -/
def State.dsel (s : State) (d i : Nat) : Nat := bits ((s.die d).dsel.get 0 (i / 8)) (8 * (i % 8) + 1) (8 * (i % 8))

/-- The home die of guest-physical address `g`, by the issuing die's table (R191, R194). -/
def homeDie (s : State) (d g : Nat) : Nat := s.dsel d (dieHash g)

/-- count(d): the entries of the table that hold die `h` (R191). -/
def dselCount (s : State) (d h : Nat) : Nat := (List.range 64).countP (fun j => s.dsel d j == h)

/-- rank of R193. -/
def dselRank (s : State) (d h g : Nat) : Nat :=
  let p := g / 2 ^ 12 % 64
  let kk := dieHash g ^^^ p
  (List.range p).countP (fun j => s.dsel d (j ^^^ kk) == h)

/-- The compacted local address of `g` in a leaf with local base `b` and block start `st` (R193). -/
def compact (s : State) (d h b st g : Nat) : Nat :=
  b + ((g - st) / 2 ^ 18 * dselCount s d h + dselRank s d h g) * 4096 + g % 4096

/-- An entry of a stage-2 table read from die-local memory (R192); beyond the die's memory no entry is valid (R1, log entry
77). -/
def s2read (s : State) (h a : Nat) : Nat := if Config.gddr ≤ a then 0 else numOf (Memory.readN s.mem (physKey h a) 8)

/-- A stage-2 entry has a nonzero reserved field (R192). -/
def s2bad (e : Nat) : Bool := decide (e / 2 ^ 40 ≠ 0 ∨ e / 16 % 256 ≠ 0)

/-- LADDR of a stage-2 entry as an address. -/
def s2addr (e : Nat) : Nat := e / 4096 % 2 ^ 28 * 4096

/-- A stage-2 leaf as a cache entry. -/
def s2leaf (tenant g size e : Nat) : S2Entry :=
  ⟨tenant, g / size * size, size, s2addr e, decide (e / 8 % 2 = 1), decide (e / 4 % 2 = 1)⟩

/-- The three-level walk at the home die (R192): `none` for V = 0, a reserved field, bad alignment or a leaf that its
level does not allow. -/
def s2walk (s : State) (h tenant g : Nat) : Option S2Entry :=
  let root := (s.die h).s2root.get 0 tenant
  if bit root 0 then
    let e0 := s2read s h (bits root 39 16 * 2 ^ 16 + 8 * (g / 2 ^ 39 % 8192))
    if e0 % 2 = 0 ∨ s2bad e0 ∨ e0 / 2 % 2 = 1 ∨ s2addr e0 % 4096 ≠ 0 then none
    else
      let e1 := s2read s h (s2addr e0 + 8 * (g / 2 ^ 30 % 512))
      if e1 % 2 = 0 ∨ s2bad e1 then none
      else if e1 / 2 % 2 = 1 then
        some (s2leaf tenant g (2 ^ 30) e1)
      else
        let e2 := s2read s h (s2addr e1 + 8 * (g / 2 ^ 21 % 512))
        if e2 % 2 = 0 ∨ s2bad e2 ∨ e2 / 2 % 2 = 0 then none
        else some (s2leaf tenant g (2 ^ 21) e2)
  else none

/-- The UP circuit between two endpoints of the module (R407, R408). -/
def upCircuit (s : State) (a b : Nat) : Option Nat :=
  (s.circuits.find? (fun e => e.2.st == .up && !bit e.2.spec 3 &&
    ((bits e.2.spec 2 0 == a && bits e.2.spec 6 4 == b) || (bits e.2.spec 2 0 == b && bits e.2.spec 6 4 == a)))).map (·.1)

/-- An access from die `d` to home die `h` waits at the ingress of its strait while no circuit between them is UP (R412). -/
def holdAccess (s : State) (d h : Nat) : State :=
  if d = h ∨ (upCircuit s d h).isSome then s else { s with held := true }

/-- The key that leaf `e` gives guest-physical `g` (R192, R193): a missing right raises S2_PERM, and a die-local address
beyond the die's memory S2_FAULT (R1, log entry 77). -/
def s2key (s : State) (d h g : Nat) (e : S2Entry) (a : Access) : Except Cause Nat :=
  let x := compact s d h e.localBase e.base g
  if ¬ e.permits a then .error .s2Perm
  else if Config.gddr ≤ x then .error .s2Fault
  else .ok (physKey h x)

/-- Stage 2 of guest-physical `g` issued by die `d` for `tenant` (R192, R193): the key, through the home die's cache.
A fenced home die raises REMOTE_FENCED (R431); an access to another die waits for its circuit (R412). -/
def stage2 (s : State) (d tenant g : Nat) (a : Access) : Except Cause (Nat × State) :=
  let h := homeDie s d g
  if (s.die h).fenced then .error .remoteFenced
  else
    let s := holdAccess s d h
    let cached := (s.die h).s2cache.find? (fun e =>
      e.tenant == tenant && decide (e.base ≤ g) && decide (g < e.base + e.size))
    match cached with
    | some e => (s2key s d h g e a).map (fun key => (key, s))
    | none =>
      match s2walk s h tenant g with
      | none => .error .s2Fault
      | some e =>
        (s2key s d h g e a).map (fun key => (key, s.updDie h (fun v => { v with s2cache := (e :: v.s2cache).take 8192 })))

/-! ### Stage 1 (R178, R187 to R190) -/

/-- A translated access: its agent, translation client, context, tenant, stage-1 root, whether U is needed and checked,
whether it is untranslated (a Machine-mode access of a core with EN = 0, R435), whether it reads page records and may read CFG
memory (R385), and whether it is performed at the home, as part of an indivisible step there (R325, R369). -/
structure Req where
  agent : Agent
  client : Client
  ctx : Nat
  tenant : Nat
  root : Word64
  user : Bool
  direct : Bool
  records : Bool
  home : Bool
  deriving DecidableEq, Repr

/-- Where an access goes: a key of memory with its kind, or the device window (R435). -/
structure Loc where
  dev : Bool
  gpa : Nat
  key : Nat
  kind : BitVec 2
  deriving DecidableEq, Repr

/-- Bits [63:57] of a virtual address equal bit 56 (R178). -/
def canonical (va : Word64) : Bool := decide (bits va 63 56 = 0 ∨ bits va 63 56 = 255)

/-- The level's index of a virtual address and the table's entry count (R188). -/
def walkIndex (va : Nat) : Nat → Nat
  | 0 => va / 2 ^ 48 % 512
  | 1 => va / 2 ^ 39 % 512
  | 2 => va / 2 ^ 30 % 512
  | 3 => va / 2 ^ 21 % 512
  | _ => va / 2 ^ 16 % 32

/-- The block a leaf of a level covers (R188). -/
def walkSize : Nat → Nat
  | 2 => 2 ^ 30
  | 3 => 2 ^ 21
  | _ => 2 ^ 16

/-- A stage-1 entry has a nonzero reserved field; KIND is reserved in a table entry (R188). -/
def s1bad (e : Nat) : Bool :=
  decide (e / 2 ^ 60 ≠ 0 ∨ e / 2 ^ 52 % 64 ≠ 0 ∨ e / 64 % 4 ≠ 0 ∨ (e / 2 % 2 = 0 ∧ e / 2 ^ 58 % 4 ≠ 0))

/-- ADDR of a stage-1 entry as an address. -/
def s1addr (e : Nat) : Nat := e / 256 % 2 ^ 44 * 256

/-- The reads of a walk: a COH load of 8 bytes at a guest-physical address, at the client's pts (R190, R205). -/
def walkRead (s : State) (rq : Req) (g : Nat) : Except Cause (Nat × State) :=
  match stage2 s (agentDie rq.agent) rq.tenant g .load with
  | .error c => .error c
  | .ok (key, s1) =>
    if s1.poison.contains (lineOf key) ∨ s1.memUe.any (fun a => lineOf a == lineOf key) then .error .memUe
    else
      let (l, s2) := cohLoad s1 rq.agent key 8
      .ok (numOf l, s2)

/-- The leaf of entry `e` at `level` (R188). -/
def leafOf (e va level : Nat) : Leaf :=
  { out := s1addr e + va % walkSize level, kind := BitVec.ofNat 2 (e / 2 ^ 58), u := decide (e / 32 % 2 = 1),
    x := decide (e / 16 % 2 = 1), w := decide (e / 8 % 2 = 1), r := decide (e / 4 % 2 = 1) }

/-- The walk from the table at `tbl`, with `fuel` levels left (R188): the leaf and the size of the block it maps. -/
def walk (s : State) (rq : Req) (va : Nat) : (level : Nat) → (fuel : Nat) → (tbl : Nat) →
    Except Cause ((Leaf × Nat) × State)
  | _, 0, _ => .error .reservedField
  | level, fuel + 1, tbl =>
    match walkRead s rq (tbl + 8 * walkIndex va level) with
    | .error c => .error c
    | .ok (e, s1) =>
      if e % 2 = 0 then .error .s1Unmapped
      else if s1bad e then .error .reservedField
      else if e / 2 % 2 = 1 then
        if level < 2 ∨ s1addr e % walkSize level ≠ 0 ∨ (e / 8 % 2 = 1 ∧ e / 4 % 2 = 0) then .error .reservedField
        else .ok ((leafOf e va level, walkSize level), s1)
      else if level = 4 ∨ (level < 3 ∧ s1addr e % 4096 ≠ 0) then .error .reservedField
      else walk s1 rq va (level + 1) fuel (s1addr e)

/-- The rights an access needs (R189); a prefetch needs none (R197, log entry 75). -/
def permits (rq : Req) (l : Leaf) (a : Access) : Bool :=
  let u := !rq.user || l.u
  if rq.records then l.r && u
  else match a with
    | .load => l.r && l.kind != 3 && u
    | .store => l.w && l.kind != 3 && u
    | .atomic => l.r && l.w && l.kind != 3 && u
    | .fetch => l.x && (l.kind == 0 || l.kind == 1) && u
    | .pref => true

/-- The first-level TLB of a client holds 128 entries and the second level 4,096 (R190); the oldest entry goes. -/
def tlbInsert (i : Isle) (e : TlbEntry) : Isle :=
  let own := (e :: i.tlb.filter (fun x => x.client == e.client)).take 128
  let sec := ({ e with client := .second } :: i.tlb.filter (fun x => x.client == .second)).take 4096
  { i with tlb := own ++ sec ++ i.tlb.filter (fun x => x.client != e.client && x.client != .second) }

/-- The TLB entry that translates `va` for a client, its own before the second level's (R190). -/
def tlbFind (i : Isle) (rq : Req) (va : Nat) : Option TlbEntry :=
  let covers := fun (x : TlbEntry) => x.ctx == rq.ctx && x.tenant == rq.tenant && decide (x.base ≤ va) &&
    decide (va < x.base + x.size)
  match i.tlb.find? (fun x => x.client == rq.client && covers x) with
  | some e => some e
  | none => i.tlb.find? (fun x => x.client == .second && covers x)

/-- Stage 1: with EN = 0 no address is mapped; else the leaf of `va`, from a TLB or by a walk that fills it (R187 to
R190). -/
def stage1 (s : State) (rq : Req) (va : Word64) : Except Cause (Leaf × State) :=
  let k := agentIsle rq.agent
  let cached := if k < 64 then tlbFind (s.isle k) rq va.toNat else none
  if bit rq.root 0 then
    match cached with
    | some e => .ok ({ e.leaf with out := e.leaf.out + (va.toNat - e.base) }, s)
    | none =>
      match walk s rq (va.toNat % 2 ^ 57) 0 5 (bits rq.root 51 12 * 4096) with
      | .error c => .error c
      | .ok ((l, size), s1) =>
        let base := va.toNat / size * size
        let s2 := if k < 64 then
            s1.updIsle k (fun i => tlbInsert i ⟨rq.client, rq.ctx, rq.tenant, base, size,
              { l with out := l.out - (va.toNat - base) }⟩)
          else s1
        .ok (l, s2)
  else .error .s1Unmapped

/-- The physical end of a translation: the device window takes no stage 2 and needs kind DEV (R435). -/
def toLoc (s : State) (rq : Req) (g : Nat) (kind : BitVec 2) (a : Access) : Except Cause (Loc × State) :=
  if Config.window ≤ g then
    if kind = 2 then .ok (⟨true, g, 0, kind⟩, s) else .error .s1Perm
  else
    match stage2 s (agentDie rq.agent) rq.tenant g a with
    | .error c => .error c
    | .ok (key, s1) => .ok (⟨false, g, key, kind⟩, s1)

/-- Translation of one access (R178, R187 to R193, R435), in the order of R195; an error carries its tval. -/
def translate (s : State) (rq : Req) (va : Word64) (a : Access) : Except (Cause × Word64) (Loc × State) :=
  if canonical va then
    if rq.direct then
      if bits va 56 52 ≠ 0 then .error (.addrRange, va)
      else
        let g := bits va 51 0
        let kind : BitVec 2 := if Config.window ≤ g then 2 else 0
        if kind = 2 ∧ a = .fetch then .error (.s1Perm, va)
        else match toLoc s rq g kind a with
          | .error c => .error (c, va)
          | .ok r => .ok r
    else
      match stage1 s rq va with
      | .error c => .error (c, va)
      | .ok (l, s1) =>
        if permits rq l a then
          match toLoc s1 rq l.out l.kind a with
          | .error c => .error (c, va)
          | .ok r => .ok r
        else .error (.s1Perm, va)
  else .error (.addrRange, va)

/-- The kind of a virtual address, where stage 1 maps it. -/
def kindOf (s : State) (rq : Req) (va : Word64) : Option (BitVec 2) :=
  if ¬ canonical va then none
  else if rq.direct then (if bits va 56 52 ≠ 0 then none else some (if Config.window ≤ bits va 51 0 then 2 else 0))
  else match stage1 s rq va with
    | .ok (l, _) => some l.kind
    | .error _ => none

/-! ### Accesses to memory -/

/-- A byte of the range carries an uncorrectable error, or the line is poisoned (R195, R432). -/
def readFault (s : State) (key n : Nat) : Option Cause :=
  if s.memUe.any (fun a => decide (key ≤ a) && decide (a < key + n)) then some .memUe
  else if s.poison.contains (lineOf key) then some .poisonConsumed
  else none

/-- The read of `n` bytes of one line by kind (R177); CFG and DEV memory outside the window are not cached. -/
def loadLoc (s : State) (g : Agent) (l : Loc) (n : Nat) : List Byte × State :=
  match l.kind.toNat with
  | 0 => cohLoad s g l.key n
  | 1 => locLoad s (agentIsle g) l.key n
  | _ => (Memory.readN s.mem l.key n, s)

/-- The write of bytes of one line by kind (R177). -/
def storeLoc (s : State) (g : Agent) (l : Loc) (b : List Byte) : State :=
  match l.kind.toNat with
  | 0 => cohStore s g l.key b
  | 1 => locStore s (agentIsle g) l.key b
  | _ => writeHome s l.key b

/-- The read of bytes of one line at its home, as an indivisible step there makes it: a COH line under the miss branch of R207,
and a LOC line after the dirty copies of the requesting die have gone home (R177, R209). -/
def homeLoad (s : State) (g : Agent) (l : Loc) (n : Nat) : List Byte × State :=
  match l.kind.toNat with
  | 0 => cohMiss s g l.key n
  | 1 =>
    let s1 := flushForAtomic s (agentIsle g) (lineOf l.key)
    (Memory.readN s1.mem l.key n, s1)
  | _ => (Memory.readN s.mem l.key n, s)

/-- The write of bytes of one line at its home, as an indivisible step there makes it (R177, R209). -/
def homeStore (s : State) (g : Agent) (l : Loc) (b : List Byte) : State :=
  match l.kind.toNat with
  | 0 => cohStore s g l.key b
  | 1 => writeHome (flushForAtomic s (agentIsle g) (lineOf l.key)) l.key b
  | _ => writeHome s l.key b

/-- The read of a request, at the home or through the agent's cache. -/
def Req.read (rq : Req) (s : State) (l : Loc) (n : Nat) : List Byte × State :=
  if rq.home then homeLoad s rq.agent l n else loadLoc s rq.agent l n

/-- The write of a request, at the home or through the agent's cache. -/
def Req.write (rq : Req) (s : State) (l : Loc) (b : List Byte) : State :=
  if rq.home then homeStore s rq.agent l b else storeLoc s rq.agent l b

/-- An engine's or device agent's read of `n` bytes that lie in one line. -/
def readIn (s : State) (rq : Req) (va : Nat) (n : Nat) : Except (Cause × Word64) (List Byte × State) :=
  match translate s rq (BitVec.ofNat 64 va) .load with
  | .error e => .error e
  | .ok (l, s1) =>
    if l.dev then .ok (List.replicate n 0, s1)
    else match readFault s1 l.key n with
      | some c => .error (c, BitVec.ofNat 64 va)
      | none => .ok (rq.read s1 l n)

/-- An engine's or device agent's write of bytes that lie in one line. -/
def writeIn (s : State) (rq : Req) (va : Nat) (b : List Byte) : Except (Cause × Word64) State :=
  match translate s rq (BitVec.ofNat 64 va) .store with
  | .error e => .error e
  | .ok (l, s1) => if l.dev then .ok s1 else .ok (rq.write s1 l b)

/-- A read of `n` bytes that may span lines, piece by piece upward; `fuel` bounds the pieces. -/
def readVa (s : State) (rq : Req) (va : Nat) : (n fuel : Nat) → Except (Cause × Word64) (List Byte × State)
  | 0, _ => .ok ([], s)
  | _, 0 => .ok ([], s)
  | n, fuel + 1 =>
    let m := min n (64 - va % 64)
    match readIn s rq va m with
    | .error e => .error e
    | .ok (l, s1) =>
      match readVa s1 rq (va + m) (n - m) fuel with
      | .error e => .error e
      | .ok (l', s2) => .ok (l ++ l', s2)

/-- A write that may span lines, piece by piece upward. -/
def writeVa (s : State) (rq : Req) (va : Nat) (b : List Byte) : (fuel : Nat) → Except (Cause × Word64) State
  | 0 => .ok s
  | fuel + 1 =>
    if b.isEmpty then .ok s
    else
      let m := min b.length (64 - va % 64)
      match writeIn s rq va (b.take m) with
      | .error e => .error e
      | .ok s1 => writeVa s1 rq (va + m) (b.drop m) fuel

/-- A write that may span lines, piece by piece upward: what is written before a cause stays, and the cause is reported. -/
def writeUpTo (s : State) (rq : Req) (va : Nat) (b : List Byte) : (fuel : Nat) → State × Option (Cause × Word64)
  | 0 => (s, none)
  | fuel + 1 =>
    if b.isEmpty then (s, none)
    else
      let m := min b.length (64 - va % 64)
      match writeIn s rq va (b.take m) with
      | .error e => (s, some e)
      | .ok s1 => writeUpTo s1 rq (va + m) (b.drop m) fuel

/-- The number of line pieces that a range of `n` bytes can have. -/
def pieces (n : Nat) : Nat := n / 64 + 2

/-- An indivisible COH read and write of bytes of one line (R209): the old bytes go through `f`, which gives the new
ones, or none where nothing is written (then it is a load at the home, under the miss branch of R207). -/
def atomicCoh (s : State) (g : Agent) (key n : Nat) (f : List Byte → Option (List Byte)) : List Byte × State :=
  let old := Memory.readN s.mem key n
  match f old with
  | none => cohMiss s g key n
  | some b => (old, cohStore s g key b)

end Sys2Proof.Machine
end

