-- ==== Sys2Proof/Machine/Flags.lean ====
section
/-! DEFINITION. Numbers and flags (R19 to R43, R59): element formats, exact values, rounding, conversions, and the flags
that each result sets. A set of flags is the low seven bits of vf (R32); fcsr has the same bits but SAT (R31). -/

namespace Sys2Proof.Machine

/-! ### Flags (R30 to R32) -/

/-- Flags in the places of vf[6:0] (R32). -/
abbrev FlagSet := BitVec 7

/-- NX, bit 0 (R30). -/
def flagNX : FlagSet := 1

/-- UF, bit 1. -/
def flagUF : FlagSet := 2

/-- OF, bit 2. -/
def flagOF : FlagSet := 4

/-- DZ, bit 3. -/
def flagDZ : FlagSet := 8

/-- NV, bit 4. -/
def flagNV : FlagSet := 16

/-- ACC_OVF, bit 5. -/
def flagACC : FlagSet := 32

/-- SAT, bit 6 of vf. -/
def flagSAT : FlagSet := 64

/-- A flag if a condition holds. -/
def flagIf (b : Bool) (f : FlagSet) : FlagSet := if b then f else 0

/-- The trap that a set of flags raises under the enables NVE and OFE (R34); FP_INVALID comes first. -/
def flagTrap (nve ofe : Bool) (f : FlagSet) : Option Cause :=
  if nve && bit f 4 then some .fpInvalid else if ofe && bit f 2 then some .fpOverflow else none

/-! ### Format codes (R19) -/

/-- Code 0x0 to 0x5. -/
def fmtIsInt (c : BitVec 4) : Bool := decide (c.toNat ≤ 5)

/-- Code 0x6 to 0xA. -/
def fmtIsFloat (c : BitVec 4) : Bool := decide (6 ≤ c.toNat ∧ c.toNat ≤ 10)

/-- Code 0xB to 0xD. -/
def fmtIsBlock (c : BitVec 4) : Bool := decide (11 ≤ c.toNat ∧ c.toNat ≤ 13)

/-- Code 0xE or 0xF. -/
def fmtReserved (c : BitVec 4) : Bool := decide (14 ≤ c.toNat)

/-- A signed integer code. -/
def fmtSigned (c : BitVec 4) : Bool := decide (c.toNat = 0 ∨ c.toNat = 2 ∨ c.toNat = 4)

/-- The width in bits of an element (R19); a block code's is its element code's. -/
def fmtWidth (c : BitVec 4) : Nat :=
  match c.toNat with
  | 0 => 32 | 1 => 32 | 2 => 16 | 3 => 16 | 4 => 8 | 5 => 8 | 6 => 32 | 7 => 16 | 8 => 16 | 9 => 8 | 10 => 8
  | 11 => 3 | 12 => 5 | 13 => 8 | _ => 0

/-- The bytes of an element in memory; 0 for a block code, whose elements are packed (R26). -/
def fmtBytes (c : BitVec 4) : Nat := if fmtIsBlock c then 0 else fmtWidth c / 8

/-- q of a block code (R25). -/
def fmtQ (c : BitVec 4) : Nat :=
  match c.toNat with
  | 11 => 2 | 12 => 4 | 13 => 7 | _ => 0

/-- The bounds of an integer format (R23). -/
def intMin (c : BitVec 4) : Int := if fmtSigned c then -(2 ^ (fmtWidth c - 1) : Nat) else 0

/-- The upper bound of an integer format (R23). -/
def intMax (c : BitVec 4) : Int :=
  if fmtSigned c then (2 ^ (fmtWidth c - 1) : Nat) - 1 else (2 ^ fmtWidth c : Nat) - 1

/-- sat(x, f) of R59, with whether it clamped. -/
def satFmt (c : BitVec 4) (x : Int) : Int × Bool :=
  if x < intMin c then (intMin c, true) else if intMax c < x then (intMax c, true) else (x, false)

/-- x clamped to n signed bits, with whether it clamped (sat_s64 and sat_s40 of R59). -/
def satBits (n : Nat) (x : Int) : Int × Bool :=
  if x < -(2 ^ (n - 1) : Nat) then (-(2 ^ (n - 1) : Nat), true)
  else if ((2 ^ (n - 1) : Nat) : Int) - 1 < x then (((2 ^ (n - 1) : Nat) : Int) - 1, true) else (x, false)

/-- The integer that the low bits of a word hold in an integer format. -/
def intOf (c : BitVec 4) (x : Nat) : Int :=
  if fmtSigned c then sextInt x (fmtWidth c) else ((x % 2 ^ fmtWidth c : Nat) : Int)

/-- The lane of an element pattern: sign-extended for I8 and I16, else zero-extended (R20). -/
def laneOf (c : BitVec 4) (x : Nat) : Word32 :=
  if fmtSigned c then BitVec.ofInt 32 (sextInt x (fmtWidth c)) else BitVec.ofNat 32 (x % 2 ^ fmtWidth c)

/-! ### Float values (R21, R22) -/

/-- The shape of a float format: fraction bits, exponent bits, bias, and whether it is FP8A. -/
structure FloatFmt where
  f : Nat
  e : Nat
  bias : Nat
  a8 : Bool
  deriving DecidableEq, Repr

/-- The shape of a float code (R21). -/
def floatFmt (c : BitVec 4) : FloatFmt :=
  match c.toNat with
  | 7 => ⟨10, 5, 15, false⟩
  | 8 => ⟨7, 8, 127, false⟩
  | 9 => ⟨3, 4, 7, true⟩
  | 10 => ⟨2, 5, 15, false⟩
  | _ => ⟨23, 8, 127, false⟩

/-- A float read: a NaN with its fraction, an infinity, or (−1)^neg × m × 2^e. -/
inductive FVal where
  | nan (neg : Bool) (frac : Nat)
  | inf (neg : Bool)
  | fin (neg : Bool) (m : Nat) (e : Int)
  deriving DecidableEq, Repr

/-- The value of a pattern (R21, R22). -/
def unpackF (p : FloatFmt) (x : Nat) : FVal :=
  let neg := decide (x / 2 ^ (p.e + p.f) % 2 = 1)
  let ex := x / 2 ^ p.f % 2 ^ p.e
  let fr := x % 2 ^ p.f
  if ex = 2 ^ p.e - 1 ∧ (!p.a8 ∨ fr = 7) then
    if p.a8 ∨ fr ≠ 0 then .nan neg fr else .inf neg
  else if ex = 0 then .fin neg fr (1 - (p.bias : Int) - p.f)
  else .fin neg (2 ^ p.f + fr) ((ex : Int) - p.bias - p.f)

/-- The sign bit of a format in place. -/
def signBit (p : FloatFmt) (neg : Bool) : Nat := if neg then 2 ^ (p.e + p.f) else 0

/-- The largest finite pattern without its sign (R21, R22). -/
def maxFinite (p : FloatFmt) : Nat := if p.a8 then 0x7E else (2 ^ p.e - 1) * 2 ^ p.f - 1

/-- The pattern of an infinity; FP8A has none and gives ±448 (R28). -/
def infPat (p : FloatFmt) (neg : Bool) : Nat :=
  signBit p neg + if p.a8 then 0x7E else (2 ^ p.e - 1) * 2 ^ p.f

/-- The canonical NaN (R35). -/
def canonNan (p : FloatFmt) : Nat := if p.a8 then 0x7F else (2 ^ p.e - 1) * 2 ^ p.f + 2 ^ (p.f - 1)

/-- A NaN pattern of sign and fraction, quieted (R35). -/
def nanPat (p : FloatFmt) (neg : Bool) (frac : Nat) : Nat :=
  signBit p neg + if p.a8 then 0x7F else (2 ^ p.e - 1) * 2 ^ p.f + (frac ||| 2 ^ (p.f - 1))

/-- The value is a NaN. -/
def FVal.isNan : FVal → Bool
  | .nan _ _ => true
  | _ => false

/-- A signalling NaN of a format: its quiet bit is 0; FP8A has none (R21, R22). -/
def isSnan (p : FloatFmt) (v : FVal) : Bool :=
  match v with
  | .nan _ fr => !p.a8 && decide (fr / 2 ^ (p.f - 1) % 2 = 0)
  | _ => false

/-- The value is an infinity. -/
def FVal.isInf : FVal → Bool
  | .inf _ => true
  | _ => false

/-- The value is zero. -/
def FVal.isZero : FVal → Bool
  | .fin _ 0 _ => true
  | _ => false

/-- The sign of a value. -/
def FVal.neg : FVal → Bool
  | .nan n _ => n
  | .inf n => n
  | .fin n _ _ => n

/-! ### Rounding (R27 to R29, R59) -/

/-- A rounding mode in the encoding of R27: 0 RNE, 1 RTZ, 2 RDN, 3 RUP. -/
abbrev RMode := BitVec 2

/-- num / den rounded to a natural number, for a value of sign `neg` (R27). -/
def roundDiv (rm : RMode) (neg : Bool) (num den : Nat) : Nat :=
  let q := num / den
  let r := num % den
  if r = 0 then q
  else match rm.toNat with
    | 0 => if den < 2 * r ∨ (den = 2 * r ∧ q % 2 = 1) then q + 1 else q
    | 1 => q
    | 2 => if neg then q + 1 else q
    | _ => if neg then q else q + 1

/-- m × 2^e rounded to a natural number, with whether it was inexact. -/
def roundShift (rm : RMode) (neg : Bool) (m : Nat) (e : Int) : Nat × Bool :=
  match e with
  | .ofNat n => (m * 2 ^ n, false)
  | .negSucc n => (roundDiv rm neg m (2 ^ (n + 1)), decide (m % 2 ^ (n + 1) ≠ 0))

/-- The pattern of an overflowed result (R28). -/
def overflowPat (p : FloatFmt) (rm : RMode) (neg : Bool) : Nat :=
  match rm.toNat with
  | 0 => infPat p neg
  | 1 => signBit p neg + maxFinite p
  | 2 => if neg then infPat p neg else signBit p neg + maxFinite p
  | _ => if neg then signBit p neg + maxFinite p else infPat p neg

/-- (−1)^neg × m × 2^e rounded once to a format, with its flags (R27 to R30). Tininess is detected after rounding. -/
def roundF (p : FloatFmt) (rm : RMode) (neg : Bool) (m : Nat) (e : Int) : Nat × FlagSet :=
  if m = 0 then (signBit p neg, 0)
  else
    let top := e + (Nat.log2 m : Int)
    let emin : Int := 1 - (p.bias : Int)
    let base := if top < emin then emin else top
    let (n, nx) := roundShift rm neg m (e - (base - p.f))
    let pat := ((base + p.bias - 1).toNat) * 2 ^ p.f + n
    if maxFinite p < pat then (overflowPat p rm neg, flagOF ||| flagNX)
    else
      let tiny := decide (top < emin - 1) ||
        (decide (top = emin - 1) && decide ((roundShift rm neg m (e - (top - p.f))).1 < 2 ^ (p.f + 1)))
      (signBit p neg + pat, flagIf nx flagNX ||| flagIf (nx && tiny) flagUF)

/-- A number num / den with a nonzero remainder marked by a lowest bit, as m × 2^e with `k` extra bits. -/
def quotient (num den k : Nat) : Nat :=
  2 * (num * 2 ^ k / den) + if num * 2 ^ k % den = 0 then 0 else 1

/-- One halving step of the integer square root. -/
def sqrtStep (x n : Nat) : Nat := (x + n / x) / 2

/-- Newton's method from above, at most `fuel` steps. -/
def sqrtLoop (n : Nat) : (fuel : Nat) → Nat → Nat
  | 0, x => x
  | fuel + 1, x =>
    let y := sqrtStep x n
    if y < x then sqrtLoop n fuel y else x

/-- The integer square root, rounded down. -/
def natSqrt (n : Nat) : Nat := if n = 0 then 0 else sqrtLoop n (Nat.log2 n + 2) (2 ^ (Nat.log2 n / 2 + 1))

/-! ### NaN rules and arithmetic (R30, R35 to R40) -/

/-- The first NaN of the operands, quieted, and NV if any operand is signalling (R35, R37). -/
def firstNan (p : FloatFmt) (l : List FVal) : Option (Nat × FlagSet) :=
  match l.find? FVal.isNan with
  | some (.nan n fr) => some (nanPat p n fr, flagIf (l.any (isSnan p)) flagNV)
  | _ => none

/-- The canonical NaN of an invalid operation (R35). -/
def invalid (p : FloatFmt) : Nat × FlagSet := (canonNan p, flagNV)

/-- The sign of an exact zero sum of opposite signs (R139). -/
def zeroSign (rm : RMode) : Bool := decide (rm.toNat = 2)

/-- The exact sum of two finite values as a signed integer times 2^e. -/
def sumExact (n1 : Bool) (m1 : Nat) (e1 : Int) (n2 : Bool) (m2 : Nat) (e2 : Int) : Int × Int :=
  let e := if e1 ≤ e2 then e1 else e2
  let x1 : Int := ((m1 * 2 ^ (e1 - e).toNat : Nat) : Int)
  let x2 : Int := ((m2 * 2 ^ (e2 - e).toNat : Nat) : Int)
  ((if n1 then -x1 else x1) + (if n2 then -x2 else x2), e)

/-- Two finite values added and rounded once (R28, R139). -/
def addFin (p : FloatFmt) (rm : RMode) (n1 : Bool) (m1 : Nat) (e1 : Int) (n2 : Bool) (m2 : Nat) (e2 : Int) :
    Nat × FlagSet :=
  let (x, e) := sumExact n1 m1 e1 n2 m2 e2
  if x = 0 then
    (signBit p (if m1 = 0 ∧ m2 = 0 ∧ n1 = n2 then n1 else zeroSign rm), 0)
  else roundF p rm (decide (x < 0)) x.natAbs e

/-- a + b (R30, R35, R139). -/
def fAdd (p : FloatFmt) (rm : RMode) (a b : Nat) : Nat × FlagSet :=
  let va := unpackF p a
  let vb := unpackF p b
  match firstNan p [va, vb] with
  | some r => r
  | none =>
    match va, vb with
    | .inf na, .inf nb => if na = nb then (infPat p na, 0) else invalid p
    | .inf na, _ => (infPat p na, 0)
    | _, .inf nb => (infPat p nb, 0)
    | .fin n1 m1 e1, .fin n2 m2 e2 => addFin p rm n1 m1 e1 n2 m2 e2
    | _, _ => invalid p

/-- The pattern with its sign flipped. -/
def fNeg (p : FloatFmt) (a : Nat) : Nat :=
  let x := a % 2 ^ (p.e + p.f + 1)
  if x / 2 ^ (p.e + p.f) = 1 then x - 2 ^ (p.e + p.f) else x + 2 ^ (p.e + p.f)

/-- The pattern with its sign cleared. -/
def fAbs (p : FloatFmt) (a : Nat) : Nat := a % 2 ^ (p.e + p.f)

/-- VABS of a float lane: the sign bit cleared, a NaN unchanged (R170). -/
def laneAbs (p : FloatFmt) (a : Nat) : Nat := if (unpackF p a).isNan then a % 2 ^ (p.e + p.f + 1) else fAbs p a

/-- VNEG of a float lane: the sign bit flipped, a NaN unchanged (R170). -/
def laneNeg (p : FloatFmt) (a : Nat) : Nat := if (unpackF p a).isNan then a % 2 ^ (p.e + p.f + 1) else fNeg p a

/-- a − b: a NaN operand keeps its own sign (R35). -/
def fSub (p : FloatFmt) (rm : RMode) (a b : Nat) : Nat × FlagSet :=
  if (unpackF p b).isNan then fAdd p rm a b else fAdd p rm a (fNeg p b)

/-- a × b (R30, R35). -/
def fMul (p : FloatFmt) (rm : RMode) (a b : Nat) : Nat × FlagSet :=
  let va := unpackF p a
  let vb := unpackF p b
  match firstNan p [va, vb] with
  | some r => r
  | none =>
    let neg := va.neg != vb.neg
    match va, vb with
    | .fin _ m1 e1, .fin _ m2 e2 => roundF p rm neg (m1 * m2) (e1 + e2)
    | _, _ => if va.isZero || vb.isZero then invalid p else (infPat p neg, 0)

/-- a × b + c rounded once, with the NaN rules of R35 and R38. -/
def fFma (p : FloatFmt) (rm : RMode) (a b c : Nat) : Nat × FlagSet :=
  let va := unpackF p a
  let vb := unpackF p b
  let vc := unpackF p c
  let zeroInf := (va.isZero && vb.isInf) || (va.isInf && vb.isZero)
  match firstNan p [va, vb, vc] with
  | some (r, f) => (r, f ||| flagIf zeroInf flagNV)
  | none =>
    if zeroInf then invalid p
    else
      let neg := va.neg != vb.neg
      match va, vb, vc with
      | .fin _ m1 e1, .fin _ m2 e2, .fin n3 m3 e3 => addFin p rm neg (m1 * m2) (e1 + e2) n3 m3 e3
      | .fin _ _ _, .fin _ _ _, .inf n3 => (infPat p n3, 0)
      | _, _, .inf n3 => if n3 = neg then (infPat p neg, 0) else invalid p
      | _, _, _ => (infPat p neg, 0)

/-- a / b (R30, R139). -/
def fDiv (p : FloatFmt) (rm : RMode) (a b : Nat) : Nat × FlagSet :=
  let va := unpackF p a
  let vb := unpackF p b
  match firstNan p [va, vb] with
  | some r => r
  | none =>
    let neg := va.neg != vb.neg
    match va, vb with
    | .inf _, .inf _ => invalid p
    | .inf _, _ => (infPat p neg, 0)
    | _, .inf _ => (signBit p neg, 0)
    | .fin _ m1 e1, .fin _ m2 e2 =>
      if m2 = 0 then (if m1 = 0 then invalid p else (infPat p neg, flagDZ))
      else if m1 = 0 then (signBit p neg, 0)
      else roundF p rm neg (quotient m1 m2 80) (e1 - e2 - 81)
    | _, _ => invalid p

/-- The square root of m × 2^e with a sticky lowest bit, `k` extra bits, as m' × 2^e'. -/
def sqrtExact (m : Nat) (e : Int) (k : Nat) : Nat × Int :=
  let m0 := if e % 2 = 0 then m else 2 * m
  let e0 := if e % 2 = 0 then e else e - 1
  let n := m0 * 2 ^ (2 * k)
  let r := natSqrt n
  (2 * r + (if r * r = n then 0 else 1), e0 / 2 - k - 1)

/-- √a (R30, R139). -/
def fSqrt (p : FloatFmt) (rm : RMode) (a : Nat) : Nat × FlagSet :=
  let va := unpackF p a
  match firstNan p [va] with
  | some r => r
  | none =>
    match va with
    | .inf n => if n then invalid p else (infPat p false, 0)
    | .fin n m e =>
      if m = 0 then (signBit p n, 0)
      else if n then invalid p
      else
        let (m', e') := sqrtExact m e 40
        roundF p rm false m' e'
    | _ => invalid p

/-- The order of two values that are not NaN, as a key: −0 below +0 where `zeros`. -/
def fLess (va vb : FVal) : Bool :=
  match va, vb with
  | .inf na, .inf nb => na && !nb
  | .inf na, _ => na
  | _, .inf nb => !nb
  | .fin n1 m1 e1, .fin n2 m2 e2 =>
    let (x, _) := sumExact n1 m1 e1 (!n2) m2 e2
    decide (x < 0)
  | _, _ => false

/-- Two values that are not NaN are equal; −0 equals +0. -/
def fSame (va vb : FVal) : Bool := !fLess va vb && !fLess vb va

/-- minimumNumber or maximumNumber (R39). -/
def fMinMax (p : FloatFmt) (max : Bool) (a b : Nat) : Nat × FlagSet :=
  let va := unpackF p a
  let vb := unpackF p b
  let fl := flagIf (isSnan p va || isSnan p vb) flagNV
  let lim := 2 ^ (p.e + p.f + 1)
  match va.isNan, vb.isNan with
  | true, true => (((firstNan p [va, vb]).map (·.1)).getD (canonNan p), fl)
  | true, false => (b % lim, fl)
  | false, true => (a % lim, fl)
  | false, false =>
    let aFirst := fLess va vb || (fSame va vb && va.neg)
    ((if aFirst != max then a else b) % lim, fl)

/-- The relations of VCMP and the scalar comparisons (R40, R171): 0 EQ, 1 NE, 2 LT, 3 LE, 4 GT, 5 GE. -/
def fCmp (p : FloatFmt) (rel : Nat) (a b : Nat) : Bool × FlagSet :=
  let va := unpackF p a
  let vb := unpackF p b
  let snan := isSnan p va || isSnan p vb
  let nan := va.isNan || vb.isNan
  match rel with
  | 0 => (!nan && fSame va vb, flagIf snan flagNV)
  | 1 => (nan || !fSame va vb, flagIf snan flagNV)
  | 2 => (!nan && fLess va vb, flagIf nan flagNV)
  | 3 => (!nan && !fLess vb va, flagIf nan flagNV)
  | 4 => (!nan && fLess vb va, flagIf nan flagNV)
  | _ => (!nan && !fLess va vb, flagIf nan flagNV)

/-- FCLASS (R140). -/
def fClass (p : FloatFmt) (a : Nat) : Nat :=
  match unpackF p a with
  | .nan n fr => if isSnan p (.nan n fr) then 2 ^ 8 else 2 ^ 9
  | .inf n => if n then 2 ^ 0 else 2 ^ 7
  | .fin n m _ =>
    if m = 0 then (if n then 2 ^ 3 else 2 ^ 4)
    else if m < 2 ^ p.f then (if n then 2 ^ 2 else 2 ^ 5)
    else (if n then 2 ^ 1 else 2 ^ 6)

/-! ### The functions of R173 -/

/-- 1 / a (R173). -/
def fRcp (p : FloatFmt) (rm : RMode) (a : Nat) : Nat × FlagSet :=
  let va := unpackF p a
  match firstNan p [va] with
  | some r => r
  | none =>
    match va with
    | .inf n => (signBit p n, 0)
    | .fin n m e => if m = 0 then (infPat p n, flagDZ) else roundF p rm n (quotient 1 m 80) (-e - 81)
    | _ => invalid p

/-- 1 / √a (R173). -/
def fRsq (p : FloatFmt) (rm : RMode) (a : Nat) : Nat × FlagSet :=
  let va := unpackF p a
  match firstNan p [va] with
  | some r => r
  | none =>
    match va with
    | .inf n => if n then invalid p else (signBit p false, 0)
    | .fin n m e =>
      if m = 0 then (infPat p n, flagDZ)
      else if n then invalid p
      else
        let m0 := if e % 2 = 0 then m else 2 * m
        let e0 := if e % 2 = 0 then e else e - 1
        let r := natSqrt (2 ^ 240 / m0)
        roundF p rm false (2 * r + (if r * r * m0 = 2 ^ 240 then 0 else 1)) (-(e0 / 2) - 121)
    | _ => invalid p

/-- The fraction bits kept in the functions of R173 (log entry 6). -/
def fnBits : Nat := 256

/-- 2^(0.b) in `fnBits` fraction bits, rounded down, for the `n` low bits of `b` as fraction bits: a square root per
bit, from the lowest up. -/
def exp2Frac (b : Nat) : (n : Nat) → (i : Nat) → Nat → Nat
  | 0, _, r => r
  | n + 1, i, r =>
    exp2Frac b n (i + 1) (natSqrt ((if b / 2 ^ i % 2 = 1 then 2 * r else r) * 2 ^ fnBits))

/-- 2^a (R173), exact only for an integer a; otherwise irrational, so a sticky bit stands below the kept bits. -/
def fExp2 (p : FloatFmt) (rm : RMode) (a : Nat) : Nat × FlagSet :=
  let va := unpackF p a
  match firstNan p [va] with
  | some r => r
  | none =>
    match va with
    | .inf n => if n then (signBit p false, 0) else (infPat p false, 0)
    | .fin n m e =>
      let lim : Int := 2 ^ 12
      let k := (-e).toNat
      let x : Int := if n then -(m * 2 ^ e.toNat : Nat) else (m * 2 ^ e.toNat : Nat)
      let whole := x / (2 ^ k : Nat)
      let frac := (x % (2 ^ k : Nat)).toNat
      let w := if whole < -lim then -lim else if lim < whole then lim else whole
      if frac = 0 then roundF p rm false 1 w
      else roundF p rm false (2 * exp2Frac frac k 0 (2 ^ fnBits) + 1) (w - fnBits - 1)
    | _ => invalid p

/-- The `n` leading bits of log2 of y / 2^fnBits in [1, 2), by squaring. -/
def log2Frac : (n : Nat) → (y acc : Nat) → Nat
  | 0, _, acc => acc
  | n + 1, y, acc =>
    let z := y * y / 2 ^ fnBits
    if 2 * 2 ^ fnBits ≤ z then log2Frac n (z / 2) (2 * acc + 1) else log2Frac n z (2 * acc)

/-- log2 a (R173), exact only for a power of two. -/
def fLog2 (p : FloatFmt) (rm : RMode) (a : Nat) : Nat × FlagSet :=
  let va := unpackF p a
  match firstNan p [va] with
  | some r => r
  | none =>
    match va with
    | .inf n => if n then invalid p else (infPat p false, 0)
    | .fin n m e =>
      if m = 0 then (infPat p true, flagDZ)
      else if n then invalid p
      else
        let l := Nat.log2 m
        let whole : Int := e + l
        if m = 2 ^ l then
          roundF p rm (decide (whole < 0)) whole.natAbs 0
        else
          let fr := log2Frac 128 (m * 2 ^ (fnBits - l)) 0
          let x : Int := 2 * (whole * 2 ^ 128 + fr) + 1
          roundF p rm (decide (x < 0)) x.natAbs (-129)
    | _ => invalid p

/-! ### Conversions (R36, R41) -/

/-- A NaN moved between float formats (R36). -/
def nanConvert (ps pd : FloatFmt) (neg : Bool) (frac : Nat) : Nat :=
  if pd.a8 then signBit pd neg + 0x7F
  else if ps.a8 then signBit pd neg + canonNan pd
  else nanPat pd neg (if pd.f ≤ ps.f then frac / 2 ^ (ps.f - pd.f) else frac * 2 ^ (pd.f - ps.f))

/-- Float to float (R36, R41). An infinity converted to FP8A is an invalid operation with no NaN input, so it gives the
canonical NaN (R30, R35). DESIGN CHOICE (log entry 64): formats of equal width but different precision (FP16 and BF16,
FP8A and FP8B), for which R41's "exact" is impossible, round in the current mode. -/
def floatToFloat (cs cd : BitVec 4) (rm : RMode) (x : Nat) : Nat × FlagSet :=
  let ps := floatFmt cs
  let pd := floatFmt cd
  match unpackF ps x with
  | .nan n fr => (if cs = cd ∧ ps.a8 then x % 256 else nanConvert ps pd n fr, flagIf (isSnan ps (.nan n fr)) flagNV)
  | .inf n => if pd.a8 then (canonNan pd, flagNV) else (infPat pd n, 0)
  | .fin n m e => roundF pd rm n m e

/-- Float to integer (R41): the integer and its flags. -/
def floatToInt (cs cd : BitVec 4) (rm : RMode) (x : Nat) : Int × FlagSet :=
  match unpackF (floatFmt cs) x with
  | .nan _ _ => (0, flagNV)
  | .inf n => (if n then intMin cd else intMax cd, flagNV)
  | .fin n m e =>
    let (r, nx) := roundShift rm n m e
    let v : Int := if n then -(r : Int) else r
    let (v', sat) := satFmt cd v
    (v', if sat then flagNV else flagIf nx flagNX)

/-- Integer to float (R41). -/
def intToFloat (cd : BitVec 4) (rm : RMode) (v : Int) : Nat × FlagSet :=
  roundF (floatFmt cd) rm (decide (v < 0)) v.natAbs 0

/-- One element converted between the codes 0x0 to 0xA (R41): its pattern in the destination's width, and the flags;
SAT marks an integer that saturated. DESIGN CHOICE (log entry 64): between integer formats of equal width, and from a
negative value to a wider unsigned format, which R41's table does not list, a value out of range saturates with SAT as in
a narrowing. -/
def convert (cs cd : BitVec 4) (rm : RMode) (x : Nat) : Nat × FlagSet :=
  if fmtIsInt cs then
    let v := intOf cs x
    if fmtIsInt cd then
      let (v', sat) := satFmt cd v
      (wrapPat v' (fmtWidth cd), flagIf sat flagSAT)
    else intToFloat cd rm v
  else if fmtIsInt cd then
    let (v, f) := floatToInt cs cd rm x
    (wrapPat v (fmtWidth cd), f)
  else floatToFloat cs cd rm x

/-! ### Block formats (R24 to R26, R42, R43) -/

/-- The quad shift δ of element `i` (R24). -/
def quadShift (w : BitVec 16) (i : Nat) : Nat := w.toNat / 2 ^ (2 * (i / 4)) % 4

/-- E of a scale word (R24). -/
def scaleExp (w : BitVec 16) : Nat := w.toNat / 256

/-- An element of a block as FP32 (R25, R43); a NaN block gives the canonical NaN. -/
def blockToF32 (q : Nat) (w : BitVec 16) (i code : Nat) : Nat :=
  let p := floatFmt 6
  if scaleExp w = 255 then canonNan p
  else
    let m := code % 2 ^ q
    let neg := decide (code / 2 ^ q % 2 = 1 ∧ m ≠ 0)
    (roundF p 0 neg m ((scaleExp w : Int) - 127 - quadShift w i - (q - 1))).1

/-- A block of 16 codes with its scale word and the flags of its conversion. -/
structure BlockOut where
  word : BitVec 16
  codes : List Nat
  flags : FlagSet
  deriving DecidableEq, Repr

/-- |x| of a finite FP32 value in units of 2^−149. -/
def absUnits (v : FVal) : Nat :=
  match v with
  | .fin _ m e => m * 2 ^ (e + 149).toNat
  | _ => 0

/-- δ_j of a quad of largest magnitude `pmax` (in units of 2^−149) under exponent `ex` (R42): the largest d for which
no element can overflow. -/
def quadDelta (q ex pmax : Nat) : Nat :=
  let fits := fun d => decide (pmax * 2 ^ (d + q + 200) < (2 ^ (q + 1) - 1) * 2 ^ (ex + 149 + 200 - 127))
  if fits 3 then 3 else if fits 2 then 2 else if fits 1 then 1 else 0

/-- Sixteen FP32 patterns converted to a block format (R42). SAT marks a saturated magnitude, which also sets NX. -/
def toBlock (q : Nat) (xs : List Nat) : BlockOut :=
  let vs := xs.map (unpackF (floatFmt 6))
  if vs.any (fun v => v.isNan || v.isInf) then ⟨0xFF00, xs.map (fun _ => 0), flagNV⟩
  else
    let us := vs.map absUnits
    let m := us.foldl max 0
    let ex := if m = 0 then 0 else min (Nat.log2 m + 127 - 149) 254
    let quads := (List.range 4).map (fun j => quadDelta q ex (((us.drop (4 * j)).take 4).foldl max 0))
    let one := fun (i : Nat) =>
      let u := us.getD i 0
      let n := roundDiv 0 false (u * 2 ^ (q - 1 + quads.getD (i / 4) 0 + 127)) (2 ^ (ex + 149))
      let exact := decide (u * 2 ^ (q - 1 + quads.getD (i / 4) 0 + 127) % 2 ^ (ex + 149) = 0)
      let sat := decide (2 ^ q - 1 < n)
      let n' := if sat then 2 ^ q - 1 else n
      let s := if n' ≠ 0 && ((vs.getD i (.inf false)).neg) then 2 ^ q else 0
      (s + n', flagIf (!exact || sat) flagNX ||| flagIf sat flagSAT)
    let outs := (List.range 16).map one
    let qs := (List.range 4).foldl (fun acc j => acc + quads.getD j 0 * 2 ^ (2 * j)) 0
    ⟨BitVec.ofNat 16 (ex * 256 + qs), outs.map (·.1), outs.foldl (fun f o => f ||| o.2) 0⟩

/-- FP32 of an element pattern of a float or integer code, for conversion into a block (R42). -/
def widenToF32 (c : BitVec 4) (x : Nat) : Nat := (convert c 6 0 x).1

/-! ### Elements of either kind (R169, R170) -/

/-- An arithmetic result of the integer elements of a vector or operator: wrapped, or saturated with SAT (R170). -/
def intResult (c : BitVec 4) (sat : Bool) (x : Int) : Nat × FlagSet :=
  if sat then
    let (v, cl) := satFmt c x
    (wrapPat v (fmtWidth c), flagIf cl flagSAT)
  else (wrapPat x (fmtWidth c), 0)

/-- a + b of R170 in any accepted element type. -/
def elemAdd (c : BitVec 4) (q : Bool) (rm : RMode) (a b : Nat) : Nat × FlagSet :=
  if fmtIsInt c then intResult c q (intOf c a + intOf c b) else fAdd (floatFmt c) rm a b

/-- a − b of R170. -/
def elemSub (c : BitVec 4) (q : Bool) (rm : RMode) (a b : Nat) : Nat × FlagSet :=
  if fmtIsInt c then intResult c q (intOf c a - intOf c b) else fSub (floatFmt c) rm a b

/-- a × b of R170. -/
def elemMul (c : BitVec 4) (q : Bool) (rm : RMode) (a b : Nat) : Nat × FlagSet :=
  if fmtIsInt c then intResult c q (intOf c a * intOf c b) else fMul (floatFmt c) rm a b

/-- a × b + c of R170. -/
def elemFma (c : BitVec 4) (q : Bool) (rm : RMode) (a b x : Nat) : Nat × FlagSet :=
  if fmtIsInt c then intResult c q (intOf c a * intOf c b + intOf c x) else fFma (floatFmt c) rm a b x

/-- VMIN and VMAX of R170: signed, or unsigned where Q. -/
def elemMinMax (c : BitVec 4) (q max : Bool) (a b : Nat) : Nat × FlagSet :=
  if fmtIsInt c then
    let w := fmtWidth c
    let less := if q then decide (a % 2 ^ w < b % 2 ^ w) else decide (intOf c a < intOf c b)
    ((if less != max then a else b) % 2 ^ w, 0)
  else fMinMax (floatFmt c) max a b

/-- VCMP's relation of R171. -/
def elemCmp (c : BitVec 4) (q : Bool) (rel : Nat) (a b : Nat) : Bool × FlagSet :=
  if fmtIsInt c then
    let w := fmtWidth c
    let x : Int := if q then ((a % 2 ^ w : Nat) : Int) else intOf c a
    let y : Int := if q then ((b % 2 ^ w : Nat) : Int) else intOf c b
    (match rel with
      | 0 => decide (x = y) | 1 => decide (x ≠ y) | 2 => decide (x < y)
      | 3 => decide (x ≤ y) | 4 => decide (y < x) | _ => decide (y ≤ x), 0)
  else fCmp (floatFmt c) rel a b

end Sys2Proof.Machine
end

