-- ==== Sys2Proof/Machine/Operands.lean ====
section
/-! DEFINITION. Operands, prefixes, and the frame of every unit: the checks of R94 in their order, the retirement of a
unit on a control core and in a cell, traps, task aborts and trap records. -/

namespace Sys2Proof.Machine

/-! ### Trap records (R425, R426) -/

/-- (TAIL − HEAD) mod 128 (R426). -/
def Isle.ringCount (i : Isle) : Nat := (i.trTail + 128 - i.trHead) % 128

/-- The record in slot `n` of the ring. -/
def Isle.ringAt (i : Isle) (n : Nat) : TrapRec := i.ring.get TrapRec.zero (n % 64)

/-- A record is written; with 64 records in the ring its agent holds it (R426). -/
def writeRecord (s : State) (k : Nat) (x : TrapRec) : State :=
  s.updIsle k (fun i =>
    if i.ringCount = 64 then { i with waitRecs := i.waitRecs ++ [x] }
    else { i with ring := i.ring.put (i.trTail % 64) x, trTail := (i.trTail + 1) % 128 })

/-- The context and job of the page that holds tile `t` (R457). -/
def tileCtx (s : State) (t : Nat) : Nat := ((s.tile t).base.map (·.ctx)).getD 0

/-- The job of the page that holds tile `t`. -/
def tileJob (s : State) (t : Nat) : Nat := ((s.tile t).base.map (·.job)).getD 0

/-- A record's fields that name a tile (R425). -/
def tileRecord (s : State) (t agent : Nat) (c : Cause) (v : Word64) : TrapRec :=
  { TrapRec.zero with
    job := tileJob s t, ctx := tileCtx s t, x := tileX t % 16, y := tileY t % 8, agent := agent,
    code := causeCode c, tval := v, tile := t, dead := (s.tile t).ending }

/-! ### Frames (R67, R159) -/

/-- A frame goes back to the free list with its tokens discarded (R67). -/
def freeFrame (i : Isle) (f : Nat) : Isle :=
  { i with frames := i.frames.put f Frame.reset, freeList := i.freeList ++ [f] }

/-- Frames of a list that are in state `st` go back to the free list. -/
def freeFrames (i : Isle) (st : FrameState) (l : List Nat) : Isle :=
  l.foldl (fun i f => if (i.frames.get Frame.reset f).st = st then freeFrame i f else i) i

/-! ### The end of a task (R157, R159) -/

/-- A tile as it is without a page; the times of its agents stay (R218). -/
def clearTile (v : Tile) : Tile :=
  { Tile.reset with
    cell := { Cell.reset with pts := v.cell.pts }, fetchPts := v.fetchPts,
    ops := [(8, { Op.reset with pts := (v.ops.get Op.reset 8).pts })] }

/-- The frames that tasks of tile `t` reserved, of context `c` (R67). -/
def tileFrames (s : State) (t c : Nat) : List Nat :=
  ((s.isle (tileIsle t)).frames.filter (fun e => e.2.st != .free && e.2.tile == t && e.2.ctx == c)).map (·.1)

/-- A tile whose job has ended is empty once its task is over: its frames return, and what the task would still send goes
nowhere (R160, R346, R456). -/
def leaveTile (s : State) (t : Nat) : State :=
  if (s.tile t).ending then
    let s1 := s.updIsle (tileIsle t) (fun i => (tileFrames s t (tileCtx s t)).foldl freeFrame i)
    s1.setTile t (clearTile (s1.tile t))
  else s

/-- The task of a cell ends: its tokens may leave the latch and its unused reservation returns (R67, R157). -/
def endTask (s : State) (t : Nat) : State :=
  match (s.cell t).task with
  | none => s
  | some k =>
    let c := s.cell t
    let s1 := s.setCell t { c with task := none, latch := c.latch.map (fun l => { l with out := true }) }
    leaveTile (s1.updIsle (tileIsle t) (fun i => freeFrames i .reserved k.reserved)) t

/-- The routine offset of the unit that is executing, at its EXT where it has one (R159). -/
def Task.unitStart (k : Task) : Nat := if k.pfx.isSome then k.pc - 1 else k.pc

/-- The state after a task is aborted, without its record (R159): its tokens and frames are discarded. -/
def dropTask (s : State) (t : Nat) : State :=
  match (s.cell t).task with
  | none => s
  | some k =>
    let c := s.cell t
    let s1 := s.setCell t { c with task := none, latch := c.latch.filter (·.out) }
    leaveTile (s1.updIsle (tileIsle t) (fun i => freeFrames (freeFrames i .live k.drawn) .reserved k.reserved)) t

/-- A task is aborted with a cause (R14, R159): the trap record receives the cause and the task's inputs. -/
def abortTask (s : State) (t : Nat) (c : Cause) (v : Word64) : State :=
  match (s.cell t).task with
  | none => s
  | some k =>
    let x := { tileRecord s t 0 c v with
      cls := k.cls, offset := k.unitStart, pfx := k.pfx.isSome, hdr := k.hdr, in0 := k.i0, in1 := k.i1,
      pts := (s.cell t).pts }
    writeRecord (dropTask s t) (tileIsle t) x

/-! ### Why a unit does not simply complete -/

/-- A unit that stops short: `trap` raises a cause with the state it leaves; `wait` holds the unit; `after` completes it
and then raises a cause (R122); `final` has set the pc itself (R145). -/
inductive Stop where
  | trap (s : State) (c : Cause) (v : Word64)
  | wait (s : State) (w : Wait)
  | after (s : State) (c : Cause) (v : Word64)
  | final (s : State)
  deriving Repr

/-- What a unit does: the state and the target it jumps to, an address on a core, a routine offset in a cell. -/
abbrev Done := Except Stop (State × Option Nat)

/-- A unit that falls through. -/
def fall (s : State) : Done := .ok (s, none)

/-- A unit that raises a cause and has no other effect. -/
def raise {α : Type} (s : State) (c : Cause) (v : Word64) : Except Stop α := .error (.trap s c v)

/-- The unit raises `c` unless `b`. -/
def check (b : Bool) (s : State) (c : Cause) (v : Word64) : Except Stop Unit := if b then .ok () else raise s c v

/-! ### The frame of a unit on a control core (R94, R121, R122, R136) -/

/-- A core's unit: its lowest mode, whether its reserved and register fields are legal, whether its type field is
accepted, and what it does. -/
structure CorePart where
  mode : Mode := .user
  rsv : Bool := true
  fmt : Bool := true
  body : Nat → State → Done

/-- The address of the first halfword of the unit (R93, R122). -/
def Core.unitStart (c : Core) : Word64 := if c.pfx.isSome then c.pc - 2 else c.pc

/-- A trap of the unit that core `k` executes (R121, R122). -/
def raiseCore (s : State) (k : Nat) (c : Cause) (v : Word64) : State :=
  let e := (s.core k).unitStart
  let p := (s.core k).pfx.isSome
  s.updCore k (fun cr => trapEntry cr c e v false p)

/-- A unit of `len` bytes has completed: the pc moves on and the loop-end step runs (R122, R136). Where the unit is an SWR of a
loop register, R115 and R136 leave open which value that step sees: here the new one (log entry 80). -/
def advance (cr : Core) (len : Nat) (target : Option Nat) : Core :=
  let pc := match target with
    | some a => BitVec.ofNat 64 a
    | none => cr.pc + BitVec.ofNat 64 len
  loopEnd { cr with pc := pc, pfx := none, atVector := false, waiting := none }

/-- A completed unit, with SINGLE_STEP after it in User mode where SS is set (R116, R122). -/
def retireCore (s : State) (k len : Nat) (target : Option Nat) : State :=
  s.updCore k (fun cr =>
    let cr' := advance cr len target
    if cr.mode = .user ∧ bit cr.status 10 then trapEntry cr' .singleStep cr'.pc 0 false cr.pfx.isSome else cr')

/-- A completed unit that then traps at the address it leaves (R122). -/
def retireTrap (s : State) (k len : Nat) (c : Cause) (v : Word64) : State :=
  s.updCore k (fun cr =>
    let cr' := advance cr len none
    trapEntry cr' c cr'.pc v false cr.pfx.isSome)

/-- A unit that waits stays at its first halfword (R122, R123). -/
def holdCore (s : State) (k : Nat) (w : Wait) : State :=
  s.updCore k (fun cr => { cr with pc := cr.unitStart, pfx := none, waiting := some w })

/-- The outcome of a core's unit. -/
def settleCore (k len : Nat) (d : Done) : State :=
  match d with
  | .ok (s', target) => retireCore s' k len target
  | .error (.trap s' c v) => raiseCore s' k c v
  | .error (.wait s' w) => holdCore s' k w
  | .error (.after s' c v) => retireTrap s' k len c v
  | .error (.final s') => s'.updCore k (fun cr => { cr with pfx := none, atVector := false, waiting := none })

/-- A unit on core `k`, `len` bytes long without its prefix: steps 3 and 5 to 8 of R94. -/
def runCore (len : Nat) (ext : Bool) (p : CorePart) (k : Nat) (s : State) : State :=
  if (s.core k).pfx.isSome && !ext then raiseCore s k .prefixOrphan 0
  else if !modeLe p.mode (s.core k).mode then raiseCore s k .priv 0
  else if !p.rsv then raiseCore s k .reservedField 0
  else if !p.fmt then raiseCore s k .formatUnsupported 0
  else settleCore k len (p.body k s)

/-! ### The frame of a unit in a cell (R94, R153 to R159) -/

/-- A cell's unit: whether it needs an M-tile, whether its offset direction is legal, whether its fields and type are
legal, its cycles (R155), and what it does. -/
structure CellPart where
  mTile : Bool := false
  legal : Bool := true
  rsv : Bool := true
  fmt : Bool := true
  cost : Nat := 1
  body : Nat → State → Done

/-- The task of cell `t` changed by `f`. -/
def State.updTask (s : State) (t : Nat) (f : Task → Task) : State :=
  s.setCell t { s.cell t with task := (s.cell t).task.map f }

/-- A completed unit of `len` bytes and `cost` cycles in cell `t`; the routine ends at START + SIZE (R153, R154). -/
def retireCell (s : State) (t len cost : Nat) (target : Option Nat) : State :=
  match (s.cell t).task with
  | none => s
  | some k =>
    let pc := target.getD (k.pc + len / 2)
    if k.start + k.size < pc then abortTask s t .routineOverrun (BitVec.ofNat 64 pc)
    else
      let s1 := s.updTask t (fun k =>
        { k with pc := pc, pfx := none, units := k.units + 1, cycles := k.cycles + cost, part := 0 })
      if pc = k.start + k.size then endTask s1 t else s1

/-- The outcome of a cell's unit. Only a STEAL waits by itself, between its attempts (R335); a held queue step marks the task
(R325). -/
def settleCell (t len cost : Nat) (d : Done) : State :=
  match d with
  | .ok (s', target) => retireCell s' t len cost target
  | .error (.trap s' c v) => abortTask s' t c v
  | .error (.wait s' _) => s'
  | .error (.after s' c v) => abortTask s' t c v
  | .error (.final s') => s'

/-- A unit in cell `t`: the unit limit of R154, then steps 3, 4 and 6 to 8 of R94. -/
def runCell (len : Nat) (ext : Bool) (p : CellPart) (t : Nat) (s : State) : State :=
  match (s.cell t).task with
  | none => s
  | some k =>
    let cost := p.cost + b2n k.pfx.isSome
    if k.pfx.isNone && decide (128 ≤ k.units) then abortTask s t .routineOverrun 0
    else if k.pfx.isSome && !ext then abortTask s t .prefixOrphan 0
    else if (p.mTile && decide (tileKind t ≠ .m)) || !p.legal then abortTask s t .classMode 0
    else if !p.rsv then abortTask s t .reservedField 0
    else if !p.fmt then abortTask s t .formatUnsupported 0
    else if 512 < k.cycles + cost then abortTask s t .routineOverrun 1
    else settleCell t len cost (p.body t s)

/-- A unit that its class does not allow: steps 3 and 4 of R94. -/
def wrongClassCore (ext : Bool) (k : Nat) (s : State) : State :=
  if (s.core k).pfx.isSome && !ext then raiseCore s k .prefixOrphan 0 else raiseCore s k .classMode 0

/-- A class C unit in a cell. -/
def wrongClassCell (ext : Bool) (t : Nat) (s : State) : State :=
  runCell 4 ext { legal := false, body := fun _ s => fall s } t s

/-- A unit of class C only. -/
def unitC (len : Nat) (ext : Bool) (p : CorePart) (s : State) : State :=
  match s.active with
  | .core k => runCore len ext p k s
  | .cell t => wrongClassCell ext t s

/-- A unit of class L only. -/
def unitL (len : Nat) (ext : Bool) (p : CellPart) (s : State) : State :=
  match s.active with
  | .core k => wrongClassCore ext k s
  | .cell t => runCell len ext p t s

/-- A unit of both classes. -/
def unitCL (len : Nat) (ext : Bool) (p : CorePart) (q : CellPart) (s : State) : State :=
  match s.active with
  | .core k => runCore len ext p k s
  | .cell t => runCell len ext q t s

/-! ### Register operands (R82 to R84) -/

/-- g register `r`; g0 reads zero (R82). -/
def gGet (s : State) (k : Nat) (r : BitVec 5) : Word64 := if r = 0 then 0 else (s.core k).g[r.toFin]

/-- g register `r` of a core set; a write to g0 is discarded (R82). -/
def Core.setG (cr : Core) (r : BitVec 5) (v : Word64) : Core :=
  if r = 0 then cr else { cr with g := cr.g.set r.toFin v }

/-- g register `r` of core `k` set (R82). -/
def gSet (s : State) (k : Nat) (r : BitVec 5) (v : Word64) : State := s.updCore k (fun cr => cr.setG r v)

/-- The g register that a 3-bit field names (R84). -/
def short5 (r : BitVec 3) : BitVec 5 := BitVec.ofNat 5 (8 + r.toNat)

/-- The temporary that a 3-bit field names in class L (R84). -/
def shortT (r : BitVec 3) : BitVec 5 := BitVec.ofNat 5 r.toNat

/-- A source field of class L: t0 to t7, i0, i1 or hdr (R82). -/
def srcL (r : BitVec 5) : Bool := decide (r.toNat ≤ 10)

/-- A destination field of class L: t0 to t7 (R82). -/
def dstL (r : BitVec 5) : Bool := decide (r.toNat ≤ 7)

/-- A task whose inputs are zero, read where a cell has no task. -/
def Task.zero : Task where
  cls := 0
  pc := 0
  start := 0
  size := 0
  slots := 0
  t := Vector.replicate 8 none
  hdr := 0
  i0 := Lanes.zero
  i1 := Lanes.zero
  len1 := 0
  tinx := false
  tsat := false
  err := none
  sends := 0
  engCmds := 0
  units := 0
  cycles := 0
  reserved := []
  drawn := []
  pfx := none
  held := none
  part := 0

/-- The running task of cell `t`. -/
def State.task (s : State) (t : Nat) : Task := (s.cell t).task.getD Task.zero

/-- The lanes of a source of class L; an undefined temporary raises TEMP_UNDEF with its number (R82, R156). -/
def lGet (s : State) (t : Nat) (r : BitVec 5) : Except Stop Lanes :=
  let k := s.task t
  match r.toNat with
  | 8 => .ok k.i0
  | 9 => .ok k.i1
  | 10 => .ok (Lanes.ofScalar k.hdr)
  | n =>
    match (k.t.toList.getD n none) with
    | some v => .ok v
    | none => raise s .tempUndef (BitVec.ofNat 64 n)

/-- A temporary of the running task of cell `t` written (R156). -/
def lSet (s : State) (t : Nat) (r : BitVec 5) (v : Lanes) : State :=
  s.updTask t (fun k => { k with t := Vector.ofFn (fun i => if i.val = r.toNat then some v else k.t[i]) })

/-- The scalar of a source in class L (R83). -/
def sGetL (s : State) (t : Nat) (r : BitVec 5) : Except Stop Word64 := (lGet s t r).map Lanes.scalar

/-- A scalar result in class L (R83). -/
def sSetL (s : State) (t : Nat) (r : BitVec 5) (v : Word64) : State := lSet s t r (Lanes.ofScalar v)

/-- A scalar operand in either class (R83): core `k` or cell `t` by runner. -/
def sGet (s : State) (x : Runner) (r : BitVec 5) : Except Stop Word64 :=
  match x with
  | .core k => .ok (gGet s k r)
  | .cell t => sGetL s t r

/-- A scalar result in either class (R83). -/
def sSet (s : State) (x : Runner) (r : BitVec 5) (v : Word64) : State :=
  match x with
  | .core k => gSet s k r v
  | .cell t => sSetL s t r v

/-- The agent that a runner is in the memory order (R205). -/
def runnerAgent : Runner → Agent
  | .core k => .core k
  | .cell t => .cell t

/-- The isle of a runner. -/
def runnerIsle : Runner → Nat
  | .core k => k
  | .cell t => tileIsle t

/-- The loaded context of a runner: ctxid.CTX of a core, the page's context of a cell (R119, R457). -/
def ctxOf (s : State) (x : Runner) : Nat :=
  match x with
  | .core k => (s.isle k).ctx
  | .cell t => tileCtx s t

/-- The prefix that governs the unit of a runner, if any (R91). -/
def payload (s : State) (x : Runner) : Option (BitVec 11) :=
  match x with
  | .core k => (s.core k).pfx
  | .cell t => (s.task t).pfx

/-! ### Immediates (R86, R91) -/

/-- A sign-extended field, with the prefix placed above it (R91). -/
def extImm {n : Nat} (p : Option (BitVec 11)) (f : BitVec n) : Int :=
  match p with
  | none => sextInt f.toNat n
  | some q => sextInt (q.toNat * 2 ^ n + f.toNat) (n + 11)

/-- The width of a field with its prefix (R91). -/
def extWidth (p : Option (BitVec 11)) (n : Nat) : Nat := if p.isSome then n + 11 else n

/-- The field with its prefix as a number. -/
def extNat {n : Nat} (p : Option (BitVec 11)) (f : BitVec n) : Nat :=
  match p with
  | none => f.toNat
  | some q => q.toNat * 2 ^ n + f.toNat

/-- The payload of a prefix, 0 without one (formats T, K and X of R91). -/
def extPayload (p : Option (BitVec 11)) : Nat := (p.map (·.toNat)).getD 0

/-! ### Flags of the runners (R30 to R34) -/

/-- fcsr.RM of core `k` (R27, R31). -/
def coreRm (s : State) (k : Nat) : RMode := (s.core k).fcsr.extractLsb' 8 2

/-- vf.VRM of cell `t` (R27, R32). -/
def cellRm (s : State) (t : Nat) : RMode := (s.cell t).vf.extractLsb' 8 2

/-- The flags of a unit set in fcsr; SAT is no flag of fcsr (R31). -/
def setFcsr (s : State) (k : Nat) (f : FlagSet) : State :=
  s.updCore k (fun cr => { cr with fcsr := cr.fcsr ||| (BitVec.ofNat 64 (f.toNat % 64)) })

/-- The trap that a core's flags raise under fcsr.NVE and fcsr.OFE (R31, R34). -/
def coreFlagTrap (s : State) (k : Nat) (f : FlagSet) : Option Cause :=
  flagTrap (bit (s.core k).fcsr 16) (bit (s.core k).fcsr 17) f

/-- The flags of a unit set in vf, with TINX and TSAT of the task (R32, R164). -/
def setVf (s : State) (t : Nat) (f : FlagSet) : State :=
  let s1 := s.setCell t { s.cell t with vf := (s.cell t).vf ||| BitVec.ofNat 32 f.toNat }
  s1.updTask t (fun k => { k with tinx := k.tinx || bit f 0, tsat := k.tsat || bit f 6 || bit f 2 })

/-- The trap that a cell's flags raise under vf.NVE and vf.OFE (R32, R34). -/
def cellFlagTrap (s : State) (t : Nat) (f : FlagSet) : Option Cause :=
  flagTrap (bit (s.cell t).vf 16) (bit (s.cell t).vf 17) f

/-- A scalar float result: flags set, then the trap of R34 with the unwritten result, or rd written (R138, R142). -/
def floatResult (s : State) (k : Nat) (d : BitVec 5) (r : Nat) (f : FlagSet) : Done :=
  let s1 := setFcsr s k f
  match coreFlagTrap s k f with
  | some c => raise s1 c (BitVec.ofNat 64 r)
  | none => fall (gSet s1 k d (BitVec.ofNat 64 r))

/-- A vector result: flags set, then the trap of R34 with no lane written, or the destination written (R33, R169). -/
def vectorResult (s : State) (t : Nat) (d : BitVec 5) (v : Lanes) (f : FlagSet) : Done :=
  let s1 := setVf s t f
  match cellFlagTrap s t f with
  | some c => raise s1 c 0
  | none => fall (lSet s1 t d v)

end Sys2Proof.Machine
end

