-- ==== Sys2Proof/Machine/Route.lean ====
section
/-! DEFINITION. Token headers, jobs and their relocation tables, the route check, and the way of a token into and across
the fabric (R60 to R64, R75, R379 to R382, R456). -/

namespace Sys2Proof.Machine

/-! ### Headers (R60, R61) -/

/-- CTX of a header (R60). -/
def hCtx (h : Word64) : Nat := bits h 7 0
/-- VREG of a header. -/
def hVreg (h : Word64) : Nat := bits h 13 8
/-- X of a header. -/
def hX (h : Word64) : Nat := bits h 17 14
/-- Y of a header. -/
def hY (h : Word64) : Nat := bits h 20 18
/-- PORT of a header. -/
def hPort (h : Word64) : Nat := bits h 26 21
/-- FRAME of a header. -/
def hFrame (h : Word64) : Nat := bits h 38 27
/-- ITER of a header. -/
def hIter (h : Word64) : Nat := bits h 48 39
/-- LEN of a header. -/
def hLen (h : Word64) : Nat := bits h 51 49
/-- TYPE of a header. -/
def hType (h : Word64) : BitVec 4 := h.extractLsb' 52 4
/-- KIND of a header. -/
def hKind (h : Word64) : Nat := bits h 59 56
/-- INX of a header. -/
def hInx (h : Word64) : Bool := bit h 60
/-- SAT of a header. -/
def hSat (h : Word64) : Bool := bit h 61
/-- GAP of a header. -/
def hGap (h : Word64) : Bool := bit h 62
/-- Header bits [26:8]: PORT, Y, X, VREG, as EDGE and TDEST code a destination (R183, R234). -/
def hDest (h : Word64) : Nat := bits h 26 8

/-- The kinds of R61 by code. -/
def kDATA : Nat := 0
/-- EOS. -/
def kEOS : Nat := 1
/-- EOR. -/
def kEOR : Nat := 2
/-- MARK. -/
def kMARK : Nat := 3
/-- ORD. -/
def kORD : Nat := 4
/-- ERR. -/
def kERR : Nat := 5
/-- GAP. -/
def kGAP : Nat := 6

/-- The length minus 1 that a kind other than DATA has (R61). -/
def kindLen (k : Nat) : Nat := if k = kORD ∨ k = kERR ∨ k = kGAP then 1 else 0

/-- A header with its destination word `dest` (R60). -/
def mkHdr (kind : Nat) (ty : BitVec 4) (len iter frame dest ctx : Nat) (gap sat inx : Bool) : Word64 :=
  BitVec.ofNat 64 (b2n gap * 2 ^ 62 + b2n sat * 2 ^ 61 + b2n inx * 2 ^ 60 + kind % 16 * 2 ^ 56 + ty.toNat * 2 ^ 52
    + len % 8 * 2 ^ 49 + iter % 1024 * 2 ^ 39 + frame % 4096 * 2 ^ 27 + dest % 2 ^ 19 * 2 ^ 8 + ctx % 256)

/-- A control token of a kind (R61): TYPE N32, its fixed length, its first two lanes. -/
def ctlToken (kind iter frame dest ctx : Nat) (l0 l1 : Word32) : Token :=
  ⟨mkHdr kind 1 (kindLen kind) iter frame dest ctx false false false, Lanes.ofList [l0, l1]⟩

/-- The time an ORD token carries (R61, R216). -/
def ordTime (t : Token) : Nat := t.lanes.l0.toNat + 2 ^ 32 * (t.lanes.l1.toNat % 2 ^ 16)

/-- An ORD token with a time (R61, R217). -/
def ordToken (iter frame dest ctx time : Nat) : Token :=
  ctlToken kORD iter frame dest ctx (BitVec.ofNat 32 time) (BitVec.ofNat 32 (time / 2 ^ 32 % 2 ^ 16))

/-- The header with its status bits replaced (R62). -/
def putStatus (h : Word64) (sat inx : Bool) : Word64 := putBits (putBits h 61 61 (b2n sat)) 60 60 (b2n inx)

/-- A token that breaks R60 or R61 at its receiver: bit 63, a reserved kind, a control token whose length or reserved
lane bits differ from the table. -/
def tokenReserved (t : Token) : Bool :=
  let k := hKind t.hdr
  bit t.hdr 63 || decide (7 ≤ k) ||
  (decide (k ≠ kDATA) &&
    (decide (hLen t.hdr ≠ kindLen k) ||
      (match k with
        | 1 => t.lanes.l0 != 0
        | 3 => decide (2 ^ 16 ≤ t.lanes.l0.toNat)
        | 4 => decide (2 ^ 16 ≤ t.lanes.l1.toNat)
        | 5 => decide (64 ≤ t.lanes.l0.toNat) || decide (2 ^ 13 ≤ t.lanes.l1.toNat)
        | _ => false)))

/-- What is wrong with a token at its receiver: RESERVED_FIELD (R60, R61), or FORMAT_UNSUPPORTED for a reserved TYPE of a DATA
token (R19). -/
def tokenFault (t : Token) : Option Cause :=
  if tokenReserved t then some .reservedField
  else if hKind t.hdr = kDATA ∧ fmtReserved (hType t.hdr) = true then some .formatUnsupported
  else none

/-- The header of a control token that an agent creates has TYPE N32; a DATA token keeps its TYPE (R61). -/
def createHdr (h : Word64) : Word64 := if hKind h = kDATA then h else putBits h 55 52 1

/-! ### Jobs and relocation (R346, R379, R456) -/

/-- A job is final (R346). -/
def jobFinal (j : Job) : Bool := j.st == .complete || j.st == .faulted || j.st == .cancelled

/-- An entry of no region. -/
def Reloc.none : Reloc := ⟨false, false, false, false, 0, 0, 0, 0, false, 0, 0, []⟩

/-- The job `num` of context `c`, where it is not final or is the last of its number. -/
def State.findJob (s : State) (c num : Nat) : Option Job := s.jobs.find? (fun j => j.ctx == c && j.num == num && !jobFinal j)

/-- The non-final jobs of a context. -/
def State.liveJobs (s : State) (c : Nat) : List Job := s.jobs.filter (fun j => j.ctx == c && !jobFinal j)

/-- The non-final job `num` of context `c` changed by `f`. -/
def State.updJob (s : State) (c num : Nat) (f : Job → Job) : State :=
  { s with jobs := s.jobs.map (fun j => if j.ctx == c && j.num == num && !jobFinal j then f j else j) }

/-- The relocation entry of region `v` of a job (R379). -/
def Job.entry (j : Job) (v : Nat) : Reloc := j.reloc.get Reloc.none v

/-- The job with the relocation entry of region `v` changed. -/
def Job.updEntry (j : Job) (v : Nat) (f : Reloc → Reloc) : Job := { j with reloc := j.reloc.put v (f (j.entry v)) }

/-- The job of the least number in a list. -/
def leastJob (l : List Job) : Option Job :=
  l.foldl (fun b j => match b with | none => some j | some x => if j.num < x.num then some j else some x) none

/-- The lowest-numbered non-final job of context `c` whose image declares region `v` (R456). -/
def declaringJob (s : State) (c v : Nat) : Option Job := leastJob ((s.liveJobs c).filter (fun j => (j.entry v).v))

/-- The lowest-numbered non-final job of context `c` with a page on isle `k`, to which work of that isle's core
belongs (log entry 7); 0 where there is none. -/
def isleJob (s : State) (c k : Nat) : Nat :=
  let on := s.tiles.filterMap (fun (t, v) => if tileIsle t = k then (match v.base with
    | some b => if b.ctx = c then some b.job else none
    | none => none) else none)
  ((leastJob ((s.liveJobs c).filter (fun j => on.contains j.num))).map (·.num)).getD 0

/-- The height of an entry's page. -/
def Reloc.height (r : Reloc) : Nat := if r.h8 then 8 else 4

/-- R63 against one relocation entry: the region is declared, and X and Y lie within its page; a region bound to a
queue manager has no page (R334). -/
def entryOk (r : Reloc) (x y : Nat) : Bool := r.v && (r.hq || (decide (x ≤ r.wm1) && decide (y < r.height)))

/-- R63 for a destination word by the relocation table of a job of the context. -/
def destOk (j : Option Job) (dest : Nat) : Bool :=
  match j with
  | some j => entryOk (j.entry (dest % 64)) (dest / 64 % 16) (dest / 2 ^ 10 % 8)
  | none => false

/-- phys(c): the physical offset of page column `c` under SKIP (R380). -/
def physCol (skip c : Nat) : Nat :=
  ((((List.range 32).filter (fun i => skip / 2 ^ i % 2 = 0))[c]?).getD 31)

/-! ### Sending (R75, R382) -/

/-- The place of a sending port's tile in its page, VREG + 64 × X + 1024 × Y; 0 for a port of no page. -/
def portSrc (s : State) (p : PortId) : Nat :=
  let at' := fun t => match (s.tile t).base with
    | some b => b.vreg + 64 * b.px + 2 ^ 10 * b.py
    | none => 0
  match p with
  | .cell t => at' t
  | .op t _ _ => at' t
  | .fetch t => at' t
  | _ => 0

/-- A token as it leaves a port. -/
def flightOf (s : State) (p : PortId) (d : Nat) (job : Option Nat) (t : Token) : Flight :=
  ⟨t, p, job, d, none, false, false, portSrc s p⟩

/-- Tokens enter the fabric from a port on die `d`, in order, to be resolved by `job` (R456). -/
def sendTokens (s : State) (p : PortId) (d : Nat) (job : Option Nat) (l : List Token) : State :=
  { s with flights := s.flights ++ l.map (flightOf s p d job) }

/-- The next hop of a port has credit (R75). -/
def hasCredit (s : State) (p : PortId) : Bool := !s.stuck.contains p

/-- Every token that leaves between `s` and `s1` has credit in `s` (R75). -/
def credited (s s1 : State) : Bool := (s1.flights.drop s.flights.length).all (fun f => hasCredit s f.port)

/-- What a sender does takes place only with credit for every token that it sends (R75, R288): `s1`, or `s` again. -/
def withCredit (s s1 : State) : State := if credited s s1 then s1 else s

/-- The job that resolves a flight (R456): its own while it is not final, and otherwise the lowest-numbered of its context
that declares the region. -/
def flightJob (s : State) (f : Flight) : Option Job :=
  let c := hCtx f.tok.hdr
  let v := hVreg f.tok.hdr
  match f.job with
  | some n =>
    match s.findJob c n with
    | some j => if (j.entry v).v then some j else none
    | none => declaringJob s c v
  | none => declaringJob s c v

/-- The lagoon of a job's region. -/
def State.lagoon (s : State) (c j v : Nat) : List Token :=
  ((s.lagoons.find? (fun e => e.1 == (c, j, v))).map (·.2)).getD []

/-- The lagoon of a job's region replaced; an empty one is not listed. -/
def State.setLagoon (s : State) (c j v : Nat) (l : List Token) : State :=
  let rest := s.lagoons.filter (fun e => e.1 != (c, j, v))
  { s with lagoons := if l.isEmpty then rest else rest ++ [((c, j, v), l)] }

/-- A token enters the tail of its region's lagoon, which sets LAG (R382, R387). -/
def toLagoon (s : State) (c j v : Nat) (t : Token) : State :=
  (s.setLagoon c j v (s.lagoon c j v ++ [t])).updJob c j (fun x => x.updEntry v (fun r => { r with lag := true }))

/-- A list without element `n`. -/
def dropAt {α : Type} (l : List α) (n : Nat) : List α := l.take n ++ l.drop (n + 1)

/-- The list with element `n` replaced. -/
def setAt {α : Type} (l : List α) (n : Nat) (v : α) : List α := l.take n ++ v :: l.drop (n + 1)

/-- Two tokens of a context were sent from one port: a port of a page's tile is known by its job and its place in the page,
so it is one sender through eviction, restore and migration (R75). -/
def samePort (a b : Flight) : Bool :=
  match a.port, b.port with
  | .cell _, .cell _ => a.job == b.job && a.src == b.src
  | .op _ c o, .op _ c' o' => a.job == b.job && a.src == b.src && c == c' && o == o'
  | .fetch _, .fetch _ => a.job == b.job && a.src == b.src
  | p, q => p == q

/-- Two flights of one sending port to one destination port, between which R75 keeps the order. -/
def sameStream (a b : Flight) : Bool := samePort a b && hDest a.tok.hdr == hDest b.tok.hdr && hCtx a.tok.hdr == hCtx b.tok.hdr

/-- No earlier token of the same port and destination is still under way (R75). -/
def inOrder (s : State) (n : Nat) (f : Flight) : Bool := (s.flights.take n).all (fun g => !sameStream g f)

/-! ### Receiving-tile faults (R77, R425) -/

/-- The record of a token that faults at tile `t` (R77). -/
def tokenRecord (s : State) (t : Nat) (tok : Token) (c : Cause) (v : Word64) : State :=
  writeRecord s (tileIsle t)
    { tileRecord s t 1 c v with hdr := tok.hdr, in0 := tok.lanes }

end Sys2Proof.Machine
end

