-- ==== Sys2Proof/Machine/Access.lean ====
section
/-! DEFINITION. Context records (R308 to R310) and the requests of a control core; the scratchpad of an isle: bounds, ownership, buffers and their directory (R182 to R186), and the atomic
operations on words (R199, R202). -/

namespace Sys2Proof.Machine

/-! ### Context records (R308, R309) -/

/-- Eight bytes at guest-physical `g` of tenant 0, read where they are used; 0 where stage 2 does not map them. The
device's own reads of the context table take no logical time (log entry 10). -/
def peek (s : State) (g : Nat) : Nat :=
  match stage2 s 4 0 g .load with
  | .ok (key, _) => numOf (Memory.readN s.mem key 8)
  | .error _ => 0

/-- Eight bytes written at guest-physical `g` of tenant 0, as a COH store of the launch scheduler. -/
def poke (s : State) (g v : Nat) : State :=
  match stage2 s 4 0 g .store with
  | .ok (key, s1) => cohStore s1 .sched key (bytesOf v 8)
  | .error _ => s

/-- The address of field `off` of the record of context `c` (R308). -/
def ctxField (s : State) (c off : Nat) : Nat := s.mgmt.ctxtab.toNat + 128 * c + off

/-- Word `off` of the record of context `c`; before CTXTAB is written there is no record (R311). -/
def ctxWord (s : State) (c off : Nat) : Nat := if s.mgmt.ctxtab = 0 then 0 else peek s (ctxField s c off)

/-- What the scheduler holds of context `c`. -/
def State.ctx (s : State) (c : Nat) : CtxInfo := s.ctxs.get CtxInfo.reset c

/-- Context `c` changed by `f`. -/
def State.updCtx (s : State) (c : Nat) (f : CtxInfo → CtxInfo) : State := { s with ctxs := s.ctxs.put c (f (s.ctx c)) }

/-- The tenant of a context: TENANT of its record at its OPEN, and of context 0's record as it is used (R309, R311). -/
def tenantOf (s : State) (c : Nat) : Nat := if c = 0 then ctxWord s 0 0 / 2 ^ 8 % 2 ^ 8 else (s.ctx c).tenant

/-! ### The requests of a control core (R189, R435) -/

/-- The request of core `k` as client `cl`: its context and ptroot; U is checked in User mode; Machine mode with
ptroot.EN = 0 is not translated by stage 1, and its address is a guest-physical address of context 0 (R435). -/
def coreReq (s : State) (k : Nat) (cl : Client) : Req :=
  let c := s.core k
  let direct := c.mode == .machine && !bit c.ptroot 0
  { agent := .core k, client := cl, ctx := (s.isle k).ctx, tenant := if direct then tenantOf s 0 else (s.isle k).tenant,
    root := c.ptroot, user := c.mode == .user, direct := direct, records := false, home := false }

/-! ### Scratchpad bytes (R179, R182) -/

/-- The bank of a scratchpad address (R182). -/
def bankOf (a : Nat) : Nat := a / 2 ^ 17

/-- Bank `n` replaced. -/
def Isle.setBank (i : Isle) (n : Nat) (b : Bank) : Isle := { i with banks := i.banks.put n b }

/-- Bank `n` is SCRATCH and belongs to context `c` (R182). -/
def Isle.scratchOf (i : Isle) (c n : Nat) : Bool := (i.bank n).mode == .scratch && (i.bank n).ctx == c

/-- A range of `n` bytes lies wholly in SCRATCH banks of context `c` (R182). -/
def Isle.spmOk (i : Isle) (c a n : Nat) : Bool :=
  decide (a + n ≤ 2 ^ 25) &&
    (n == 0 || (List.range (bankOf (a + n - 1) - bankOf a + 1)).all (fun j => i.scratchOf c (bankOf a + j)))

/-- The frames of the MATCH banks below bank `n` (R66). -/
def Isle.framesBelow (i : Isle) (n : Nat) : Nat :=
  384 * (List.range n).countP (fun b => (i.bank b).mode == .matching)

/-- Frame numbers from here on are withheld while a bank switches out of or into MATCH mode (R180). -/
def Isle.frameBound (i : Isle) : Nat :=
  (i.banks.filter (fun b => b.2.busy && (b.2.mode == .matching || b.2.target == .matching))).foldl
    (fun m b => min m (i.framesBelow b.1)) 4096

/-- The frames that the free list gives (R67, R180). -/
def Isle.freeAvail (i : Isle) : List Nat := i.freeList.filter (fun f => decide (f < i.frameBound))

/-- `n` bytes of scratchpad from `a`. -/
def Isle.spmRead (i : Isle) (a n : Nat) : List Byte := (List.range n).map (fun j => i.spm.get 0 (a + j))

/-- Bytes written to scratchpad from `a`; a zero byte is not listed. -/
def Isle.spmWrite (i : Isle) (a : Nat) (l : List Byte) : Isle := { i with spm := Memory.writeN i.spm a l }

/-! ### Buffers (R183 to R186) -/

/-- The header of the buffer at `base` as a 128-bit number (R183). -/
def Isle.header (i : Isle) (base : Nat) : Nat := numOf (i.spmRead base 16)

/-- The header of the buffer at `base` replaced. -/
def Isle.setHeader (i : Isle) (base h : Nat) : Isle := i.spmWrite base (bytesOf h 16)

/-- Bits [hi:lo] of a header. -/
def fieldOf (h hi lo : Nat) : Nat := h / 2 ^ lo % 2 ^ (hi + 1 - lo)

/-- A header with bits [hi:lo] replaced. -/
def withField (h hi lo v : Nat) : Nat := h - fieldOf h hi lo * 2 ^ lo + v % 2 ^ (hi + 1 - lo) * 2 ^ lo

/-- OWNER of a header is ENGINE. -/
def hdrEngine (h : Nat) : Bool := decide (h % 2 = 1)

/-- The directory entry whose header is at `a`. -/
def Isle.buffer (i : Isle) (a : Nat) : Option BufEntry := i.dir.find? (fun e => e.base == a)

/-- The directory entry whose range holds byte `a`. -/
def Isle.bufferAt (i : Isle) (a : Nat) : Option BufEntry :=
  i.dir.find? (fun e => decide (e.base ≤ a) && decide (a < e.base + e.len))

/-- The directory with the entry at `a` changed by `f`. -/
def Isle.updBuffer (i : Isle) (a : Nat) (f : BufEntry → BufEntry) : Isle :=
  { i with dir := i.dir.map (fun e => if e.base = a then f e else e) }

/-- An instruction access to byte `a` breaks ownership (R184): a write to a header, or any access to data while an
engine owns the buffer. -/
def Isle.ownerBad (i : Isle) (a : Nat) (wr : Bool) : Bool :=
  match i.bufferAt a with
  | none => false
  | some e => if a < e.base + 16 then wr else hdrEngine (i.header e.base)

/-- The first byte of a range that breaks ownership (R184). -/
def Isle.firstOwnerBad (i : Isle) (a n : Nat) (wr : Bool) : Option Nat :=
  ((List.range n).map (a + ·)).find? (fun b => i.ownerBad b wr)

/-- The checks of R195 on a scratchpad access of `n` bytes by an instruction of context `c`: SPM_BOUNDS, OWNER_BIT,
MEM_UE, with their tval. `reads` marks an access that reads. -/
def spmFault (i : Isle) (c : Nat) (ea : Word64) (n : Nat) (wr reads : Bool) : Option (Cause × Word64) :=
  if ¬ i.spmOk c ea.toNat n then some (.spmBounds, ea)
  else match i.firstOwnerBad ea.toNat n wr with
    | some b => some (.ownerBit, BitVec.ofNat 64 b)
    | none =>
      if reads && i.spmUe.any (fun u => decide (ea.toNat ≤ u) && decide (u < ea.toNat + n)) then some (.memUe, ea)
      else none

/-- The scratchpad access of a unit: `n` bytes at `ea`, aligned to `al`. -/
def spmCheck (s : State) (x : Runner) (ea : Word64) (n al : Nat) (wr reads : Bool) : Except Stop Unit := do
  check (decide (ea.toNat % al = 0)) s .misalignData ea
  match spmFault (s.isle (runnerIsle x)) (ctxOf s x) ea n wr reads with
  | some (c, v) => raise s c v
  | none => pure ()

/-- Scale register `r`. -/
def Isle.scale (i : Isle) (r : Nat) : ScaleReg := i.scales.get ScaleReg.reset r

/-- Scale register `r` replaced. -/
def Isle.setScale (i : Isle) (r : Nat) (v : ScaleReg) : Isle := { i with scales := i.scales.put r v }

/-- Tags of register `r` removed (R256): with no name and no tag left, the register is FREE. -/
def dropLive (i : Isle) (r n : Nat) : Isle :=
  let v := i.scale r
  let v1 := { v with live := v.live - n }
  i.setScale r (if v1.st = .orphan ∧ v1.live = 0 then { v1 with st := .free, ctx := 0 } else v1)

/-- A buffer leaves the directory, and with SBOUND = 1 its tag goes with it (R186, R203, R256). -/
def dropBuffer (i : Isle) (base : Nat) : Isle :=
  let h := i.header base
  let i1 := { i with dir := i.dir.filter (fun e => e.base != base) }
  if fieldOf h 35 35 = 1 then dropLive i1 (fieldOf h 47 40) 1 else i1

/-- A buffer takes a reference of an accepted engine operation that writes it where `wr` (R185). -/
def takeRef (i : Isle) (base : Nat) (wr : Bool) : Isle :=
  i.updBuffer base (fun e => { e with refs := e.refs + 1, wrote := e.wrote || wr })

/-- The buffer step of R185: the last reference raises GEN if the buffer was written, sets SWZ and frees the owner. -/
def dropRef (i : Isle) (base swz : Nat) (completed : Bool) : Isle :=
  match i.buffer base with
  | none => i
  | some e =>
    let i1 := i.updBuffer base (fun e => { e with refs := e.refs - 1 })
    if e.refs = 1 ∧ completed then
      let h := i1.header base
      let h1 := if e.wrote then withField h 63 48 (fieldOf h 63 48 + 1) else h
      let h2 := withField (withField h1 3 2 swz) 0 0 0
      (i1.setHeader base h2).updBuffer base (fun e => { e with wrote := false })
    else i1

/-- A new buffer's header (R183): LENGTH, EDGE and EDGED, all else zero. -/
def newHeader (len edge : Nat) (edged : Bool) : Nat := len * 2 ^ 96 + edge * 2 ^ 77 + b2n edged * 2 ^ 76

/-- The consumer at (VREG, X, Y), steering entries `ports`, of context `c` emits an EOS token (R186): the buffers tied
to that edge may go. -/
def markEos (s : State) (c vreg x y : Nat) (ports : List Nat) : State :=
  { s with isles := s.isles.map (fun (k, i) => (k, { i with dir := i.dir.map (fun e =>
      let h := i.header e.base
      let edge := fieldOf h 95 77
      if fieldOf h 76 76 = 1 ∧ (i.bank (bankOf e.base)).ctx = c ∧ edge % 64 = vreg ∧ edge / 64 % 16 = x ∧
        edge / 2 ^ 10 % 8 = y ∧ ports.contains (edge / 2 ^ 13) then { e with eos := true } else e) })) }

/-- Any byte of [a, a + n) lies in a declared buffer. -/
def Isle.overlaps (i : Isle) (a n : Nat) : Bool :=
  i.dir.any (fun e => decide (e.base < a + n) && decide (a < e.base + e.len))

/-! ### Atomic operations (R199, R202) -/

/-- The new value of an atomic operation on `w` bits (R199). -/
def amoResult (op w o b : Nat) : Nat :=
  let b := b % 2 ^ w
  match op with
  | 0 => (o + b) % 2 ^ w
  | 1 => o &&& b
  | 2 => o ||| b
  | 3 => o ^^^ b
  | 4 => if sextInt o w < sextInt b w then o else b
  | 5 => if sextInt o w < sextInt b w then b else o
  | 6 => if o < b then o else b
  | 7 => if o < b then b else o
  | _ => b

/-- The width of an atomic size code: 0b10 is 32, 0b11 is 64 (R88). -/
def amoWidth (z : BitVec 2) : Nat := if z = 3 then 64 else 32

end Sys2Proof.Machine
end

