-- ==== Sys2Proof/Machine/Trap.lean ====
section
/-! DEFINITION. The asynchronous causes of a control core (R123, R424, R426) and the event bit (R146). -/

namespace Sys2Proof.Machine

/-- Every cause, in code order. -/
def allCauses : List Cause :=
  [.illegalEnc, .reservedField, .prefixOrphan, .priv, .classMode, .misalignPc, .routineOverrun, .tempUndef,
   .breakpoint, .singleStep, .divZero, .intOverflow, .fpInvalid, .fpOverflow, .accOverflow, .software] ++
  [.s1Unmapped, .s1Perm, .s2Fault, .s2Perm, .addrRange, .misalignData, .atomicKind, .scopeIllegal,
   .memUe, .poisonConsumed, .spmBounds, .ownerBit, .leaseRollover, .descInvalid, .swizzleMismatch, .dimLimit] ++
  [.staleScale, .scaleUnbound, .scaleShape, .formatUnsupported, .errTokenSink, .frameExhausted, .frameInvalid,
   .slotCollision, .pageAbsent, .pageSig, .pageCrc, .placeFail, .spillExhausted, .quota, .routeInvalid,
   .checkpointOverflow] ++
  [.queueFull, .queueEmpty, .joinUnderflow, .barrierAhead, .barrierOverarrive, .sectorUnderflow, .stealDenied,
   .tagBusy, .linkDown, .remoteFenced, .streamOverflow, .watchdog, .preempt, .contextKilled, .machineCheck,
   .doubleFault]

/-- The cause of a code (R423). -/
def causeOf (c : BitVec 6) : Cause := allCauses.getD c.toNat .illegalEnc

/-- The asynchronous causes pending on core `k`, with their tval (R424, R426, R418, R347, R317, R432). -/
def pendingAsync (s : State) (k : Nat) : List (Cause × Word64) :=
  let i := s.isle k
  let c := i.core
  (if c.check then [(Cause.machineCheck, (0 : Word64))] else []) ++
  (if c.killed then [(Cause.contextKilled, 0)] else []) ++
  (match c.preempts with | [] => [] | j :: _ => [(Cause.preempt, BitVec.ofNat 64 j)]) ++
  (match c.overflow with | none => [] | some v => [(Cause.streamOverflow, BitVec.ofNat 64 v)]) ++
  (if i.ringCount = 0 then []
   else [(causeOf (i.ringAt i.trHead).code, BitVec.ofNat 64 (i.trHead % 64))])

/-- A pending cause may be taken in the core's mode (R123). -/
def asyncEnabled (c : Core) (x : Cause) : Bool :=
  if x = .machineCheck then c.mode != .machine || bit c.status 1
  else match c.mode with
    | .user => true
    | .supervisor => bit c.status 0
    | .machine => false

/-- The pending and enabled cause of the highest code (R123). -/
def nextAsync (s : State) (k : Nat) : Option (Cause × Word64) :=
  ((pendingAsync s k).filter (fun x => asyncEnabled (s.core k) x.1)).foldl
    (fun b x => match b with
      | none => some x
      | some y => if (causeCode y.1).toNat < (causeCode x.1).toNat then some x else some y) none

/-- A cause that is taken is no longer pending; a record's cause stays while the record is at HEAD (R426). -/
def clearAsync (c : Core) (x : Cause) (v : Word64) : Core :=
  match x with
  | .machineCheck => { c with check := false }
  | .contextKilled => if c.killed then { c with killed := false } else c
  | .preempt =>
    match c.preempts with
    | j :: r => if BitVec.ofNat 64 j = v then { c with preempts := r } else c
    | [] => c
  | .streamOverflow => if c.overflow.isSome then { c with overflow := none } else c
  | _ => c

/-- Core `k` takes a pending cause between units (R121 to R123). -/
def takeAsync (s : State) (k : Nat) (x : Cause × Word64) : State :=
  s.updCore k (fun c => trapEntry (clearAsync c x.1 x.2) x.1 c.pc x.2 true false)

/-- The event bit of core `k` set (R146); `p` is the time of a completed tag, else 0 (R217). -/
def setEvent (s : State) (k p : Nat) : State :=
  s.updCore k (fun c => { c with event := true, eventPts := max c.eventPts p })

/-- A tag of isle `k` ends: its time, its ctb bit, CERR where it ended in error, and the event bit (R146, R217, R239,
R244). -/
def endTag (s : State) (k tag p : Nat) (err : Bool) : State :=
  let s1 := s.updIsle k (fun i =>
    { i with
      ctb := i.ctb ||| BitVec.ofNat 64 (2 ^ tag), tagTime := i.tagTime.put tag p,
      cerr := if err then i.cerr ||| BitVec.ofNat 64 (2 ^ tag) else i.cerr })
  setEvent s1 k p

/-- A tag of isle `k` becomes pending (R237, R240). -/
def startTag (s : State) (k tag : Nat) : State :=
  s.updIsle k (fun i => { i with ctb := i.ctb &&& ~~~ BitVec.ofNat 64 (2 ^ tag) })

/-- A tag is pending while its ctb bit is 0 (R240). -/
def tagPending (s : State) (k tag : Nat) : Bool := !bit (s.isle k).ctb tag

/-- The event bit consumed: it clears, and the core's time takes that of the tags that set it (R146, R217). -/
def takeEvent (s : State) (k : Nat) : State :=
  (s.mergePts (.core k) (s.core k).eventPts).updCore k (fun c => { c with event := false, eventPts := 0 })

end Sys2Proof.Machine
end

