-- ==== Sys2Proof/Machine/Engine.lean ====
section
/-! DEFINITION. What every engine shares: context records (R308 to R310), translated engine accesses, tensor descriptors
and element addresses (R229 to R233), boxes and their sectors (R236, R238), and engine accesses to scratchpad. -/

namespace Sys2Proof.Machine

/-! ### Context records (R308, R309) -/

/-- Bits set in ERRSUM of context `c` by atomic OR (R310). -/
def orErrsum (s : State) (c bitsSet : Nat) : State :=
  if s.mgmt.ctxtab = 0 then s else poke s (ctxField s c 0x38) (ctxWord s c 0x38 ||| bitsSet)

/-- PTROOT of a context's record (R308). -/
def ctxRoot (s : State) (c : Nat) : Word64 := BitVec.ofNat 64 (ctxWord s c 8)

/-- DTAB of a context's record. -/
def ctxDtab (s : State) (c : Nat) : Nat := ctxWord s c 0x10

/-- QUOTA.SREG (R309). -/
def quotaSreg (s : State) (c : Nat) : Nat := ctxWord s c 0x20 / 2 ^ 27 % 2 ^ 9

/-- QUOTA.FRAMES (R309). -/
def quotaFrames (s : State) (c : Nat) : Nat := ctxWord s c 0x20 / 2 ^ 14 % 2 ^ 13

/-- QUOTA.TILES (R309). -/
def quotaTiles (s : State) (c : Nat) : Nat := ctxWord s c 0x20 % 2 ^ 14

/-- A request of an engine of context `c` (R189): U is required, through the root of the context's record. -/
def engReq (s : State) (g : Agent) (cl : Client) (c : Nat) : Req :=
  { agent := g, client := cl, ctx := c, tenant := tenantOf s c, root := ctxRoot s c, user := true, direct := false,
    records := false, home := false }

/-! ### Descriptors (R229 to R233) -/

/-- The element bytes of a block of 16 codes (R26). -/
def blockBytes (f : BitVec 4) : Nat := if f = 11 then 6 else if f = 12 then 10 else 16

/-- The bytes of an entry as a descriptor with its checks, given its 256 bytes (R229, R230, R233). -/
def parseDesc (id : Nat) (accept : BitVec 4 → Bool) (l : List Byte) : Except (Cause × Word64) Desc :=
  let f := fun (o n : Nat) => numOf ((l.drop o).take n)
  let ctrl := f 0x10 4
  let rank := ctrl / 16 % 16
  let mkind := ctrl / 2 ^ 10 % 4
  let slay := ctrl / 2 ^ 12 % 4
  let swz := ctrl / 2 ^ 8 % 4
  let fmt := BitVec.ofNat 4 ctrl
  let ext := (List.range rank).map (fun i => f (0x18 + 4 * i) 4)
  let str := (List.range rank).map (fun i => sextInt (f (0x50 + 8 * i) 8) 40)
  let base := f 0 8
  let sbase := f 8 8
  let rsv := decide (ctrl / 2 ^ 14 % 2 ^ 17 ≠ 0) || decide (f 0x14 4 ≠ 0) || decide (f 0xC0 64 ≠ 0) ||
    (decide (slay = 0) && decide (sbase ≠ 0)) ||
    (List.range 14).any (fun i => if rank ≤ i then decide (f (0x18 + 4 * i) 4 ≠ 0) || decide (f (0x50 + 8 * i) 8 ≠ 0)
      else decide (f (0x50 + 8 * i) 8 / 2 ^ 40 ≠ 0))
  let v := BitVec.ofNat 64 id
  let size := fmtBytes fmt
  let first := if mkind = 1 then base + 64 else base
  if ctrl / 2 ^ 31 % 2 = 0 ∨ rsv ∨ 2 ≤ mkind ∨ 2 ≤ slay then .error (.descInvalid, v)
  else if rank = 15 then .error (.dimLimit, v)
  else if rank = 0 then .error (.descInvalid, v)
  else if fmtReserved fmt ∨ ¬ accept fmt then .error (.formatUnsupported, v)
  else if fmtIsBlock fmt then
    if slay = 0 ∨ str.getD 0 0 ≠ 0 ∨ ext.getD 0 0 % 16 ≠ 0 then .error (.descInvalid, v)
    else if swz ≠ 0 ∧ mkind = 0 then .error (.descInvalid, v)
    else .ok ⟨id, base, sbase, fmt, rank, BitVec.ofNat 2 swz, mkind == 1, ext, str⟩
  else if slay ≠ 0 then .error (.descInvalid, v)
  else if first % size ≠ 0 ∨ str.any (fun x => decide (x % (size : Int) ≠ 0)) then .error (.descInvalid, v)
  else if swz ≠ 0 ∧ mkind = 0 then .error (.descInvalid, v)
  else .ok ⟨id, base, sbase, fmt, rank, BitVec.ofNat 2 swz, mkind == 1, ext, str⟩

/-- The descriptor of an identifier as an engine reads it at acceptance (R233). -/
def readDesc (s : State) (rq : Req) (id : Nat) (accept : BitVec 4 → Bool) : Except (Cause × Word64) (Desc × State) :=
  let a := ctxDtab s rq.ctx + 256 * id
  match readVa s rq a 256 (pieces 256) with
  | .error (c, _) => .error (c, BitVec.ofNat 64 a)
  | .ok (l, s1) =>
    match parseDesc id accept l with
    | .error e => .error e
    | .ok d => .ok (d, s1)

/-- A tensor with an extent 0 has no elements (R233). -/
def Desc.empty (d : Desc) : Bool := d.extents.contains 0

/-! ### Element addresses (R231, R232) -/

/-- Σ of i_k × STRIDE[k]. -/
def dot (is str : List Int) : Int := (List.zipWith (· * ·) is str).foldl (· + ·) 0

/-- The byte offset of element `is`, or of its block (R231). -/
def dataOff (d : Desc) (is : List Int) : Int :=
  if fmtIsBlock d.fmt then is.headD 0 / 16 * blockBytes d.fmt + dot is.tail d.strides.tail else dot is d.strides

/-- i1 + E1 × (i2 + …) (R231). -/
def nest : List Int → List Nat → Int
  | i :: is, e :: es => i + e * nest is es
  | _, _ => 0

/-- The byte offset of the scale word of a block (R231). -/
def scaleOff (d : Desc) (is : List Int) : Int :=
  2 * (is.headD 0 / 16 + (d.extents.headD 0 / 16 : Nat) * nest is.tail d.extents.tail)

/-- swz(d) (R232): bits [6:4] of the offset take the exclusive or of bits [9:7]. -/
def swizzle (z : BitVec 2) (d : Int) : Int :=
  let r := (d % 1024).toNat
  let m := r / 128 % 2 ^ z.toNat
  d - r + ((r ^^^ (m * 16) : Nat) : Int)

/-- The address of byte `j` of a data item at offset `off`, or of a scale word (R231, R232). -/
def byteAt (d : Desc) (scale : Bool) (off : Int) (j : Nat) : Int :=
  if d.spm then
    if scale then d.sbase + 64 + off + j else d.base + 64 + swizzle d.swz (off + j)
  else (if scale then sextInt d.sbase 64 else sextInt d.base 64) + off + j

/-- Index `is` lies within the extents. -/
def inRange (d : Desc) (is : List Int) : Bool :=
  (List.zipWith (fun (i : Int) (e : Nat) => decide (0 ≤ i) && decide (i < e)) is d.extents).all id

/-! ### Boxes (R235, R236, R238) -/

/-- The origins of a coordinate scalar for a rank (R235). -/
def origins (c : Word64) (rank : Nat) : List Int :=
  (List.range rank).map (fun k => if k < 4 then sextInt (c.toNat / 2 ^ (16 * k)) 16 else 0)

/-- Every index of a box, dimension 0 fastest. -/
def boxIndices : List Nat → List (List Int)
  | [] => [[]]
  | e :: es => (boxIndices es).flatMap (fun r => (List.range e).map (fun (i : Nat) => (i : Int) :: r))

/-- The elementwise sum of two index vectors. -/
def addIdx (a b : List Int) : List Int := List.zipWith (· + ·) a b

/-- One item that a copy moves: an element, a block's codes, or a scale word. `elem` is the box index of its first
element, `n` its bytes; offsets are those of R231; a source of `none` reads as zero. -/
structure Xfer where
  elem : Nat
  scale : Bool
  n : Nat
  src : Option Int
  dst : Int
  deriving DecidableEq, Repr

/-- The items of one box row: its data, then its scale words (R238). `row` is the row's index in dimensions 1 upward and
`first` the box index of its first element. -/
def rowItems (src dst : Desc) (cside : Bool) (o : List Int) (e0 first : Nat) (row : List Int) : List Xfer :=
  let blk := fmtIsBlock src.fmt
  let step := if blk then 16 else 1
  let n := if blk then blockBytes src.fmt else fmtBytes src.fmt
  let item := fun (scale : Bool) (b : Nat) =>
    let j := ((b * step : Nat) : Int) :: row
    let si := if cside then j else addIdx o j
    let di := if cside then addIdx o j else j
    let off := fun (d : Desc) (i : List Int) => if scale then scaleOff d i else dataOff d i
    if inRange dst di then
      [(⟨first + b * step, scale, if scale then 2 else n, if inRange src si then some (off src si) else none,
        off dst di⟩ : Xfer)]
    else []
  (List.range (e0 / step)).flatMap (item false) ++
    (if blk then (List.range (e0 / step)).flatMap (item true) else [])

/-- The items of a copy in box order (R236, R238). -/
def copyItems (src dst : Desc) (coord : Word64) (cside : Bool) : List Xfer :=
  let ext := if cside then src.extents else dst.extents
  let e0 := ext.headD 0
  let rows := boxIndices ext.tail
  (rows.mapIdx (fun r row => rowItems src dst cside (origins coord src.rank) e0 (r * e0) row)).flatten

/-- The sector of a destination address (R238). -/
def sectorKey (a : Int) : Int := a / 32

/-- The sectors that an item's bytes touch, in byte order. -/
def itemSectors (d : Desc) (x : Xfer) : List Int := (List.range x.n).map (fun j => sectorKey (byteAt d x.scale x.dst j))

/-- The sectors of an operation in order of their first byte (R238). -/
def sectorList (dst : Desc) (l : List Xfer) : List Int :=
  (l.foldl (fun acc x => (itemSectors dst x).foldl (fun acc k => if acc.contains k then acc else k :: acc) acc) []).reverse

/-- The sector number of an item's first byte. -/
def sectorOf (dst : Desc) (secs : List Int) (x : Xfer) : Nat :=
  secs.findIdx (· == sectorKey (byteAt dst x.scale x.dst 0))

/-- The sector number of an item's last byte in sector order. -/
def sectorEnd (dst : Desc) (secs : List Int) (x : Xfer) : Nat :=
  ((itemSectors dst x).map (fun k => secs.findIdx (· == k))).foldl max 0

/-! ### Engine accesses -/

/-- An engine's read of scratchpad bytes at the addresses of one item: SPM_BOUNDS, OWNER_BIT (R184), MEM_UE. -/
def spmEngineFault (i : Isle) (c : Nat) (a : Int) (wr : Bool) : Option (Cause × Word64) :=
  let v := word64 a
  if a < 0 ∨ ¬ i.spmOk c a.toNat 1 then some (.spmBounds, v)
  else match i.bufferAt a.toNat with
    | some e => if hdrEngine (i.header e.base) then (if !wr && i.spmUe.contains a.toNat then some (.memUe, v) else none)
      else some (.ownerBit, v)
    | none => some (.spmBounds, v)

/-- `n` bytes of an operand at offset `off` as an engine of isle `k` reads them (R184, R195, R231). -/
def itemRead (s : State) (k : Nat) (rq : Req) (d : Desc) (scale : Bool) (off : Int) (n : Nat) :
    Except (Cause × Word64) (List Byte × State) :=
  if d.spm then
    let as := (List.range n).map (byteAt d scale off)
    match as.findSome? (fun a => spmEngineFault (s.isle k) rq.ctx a false) with
    | some e => .error e
    | none => .ok (as.map (fun a => (s.isle k).spm.get 0 a.toNat), s)
  else
    let a := byteAt d scale off 0
    if a < -(2 ^ 56) ∨ 2 ^ 56 ≤ a then .error (.addrRange, word64 a)
    else readVa s rq (word64 a).toNat n (pieces n)

/-- Bytes of an operand at offset `off` written by an engine of isle `k`. -/
def itemWrite (s : State) (k : Nat) (rq : Req) (d : Desc) (scale : Bool) (off : Int) (l : List Byte) :
    Except (Cause × Word64) State :=
  if d.spm then
    let as := (List.range l.length).map (byteAt d scale off)
    match as.findSome? (fun a => spmEngineFault (s.isle k) rq.ctx a true) with
    | some e => .error e
    | none =>
      .ok (s.updIsle k (fun i => { i with spm := (as.zip l).foldl (fun m (a, b) => Memory.write m a.toNat b) i.spm }))
  else
    let a := byteAt d scale off 0
    if a < -(2 ^ 56) ∨ 2 ^ 56 ≤ a then .error (.addrRange, word64 a)
    else writeVa s rq (word64 a).toNat l (pieces l.length)

/-- As `itemWrite`, but the bytes before one that cannot be written stay. -/
def itemWriteUpTo (s : State) (k : Nat) (rq : Req) (d : Desc) (scale : Bool) (off : Int) (l : List Byte) :
    State × Option (Cause × Word64) :=
  if d.spm then
    let as := (List.range l.length).map (byteAt d scale off)
    let good := as.takeWhile (fun a => (spmEngineFault (s.isle k) rq.ctx a true).isNone)
    (s.updIsle k (fun i => { i with spm := (good.zip l).foldl (fun m (a, b) => Memory.write m a.toNat b) i.spm }),
      (as[good.length]?).bind (fun a => spmEngineFault (s.isle k) rq.ctx a true))
  else
    let a := byteAt d scale off 0
    if a < -(2 ^ 56) ∨ 2 ^ 56 ≤ a then (s, some (.addrRange, word64 a))
    else writeUpTo s rq (word64 a).toNat l (pieces l.length)

/-! ### Tiles of a tensor (R267, R271) -/

/-- The index of element `k` of row `r` of the tile at coordinate `c` (R267). -/
def tileIndex (d : Desc) (c : Word64) (r k : Nat) : List Int :=
  addIdx (origins c d.rank) (((k : Nat) : Int) :: ((r : Nat) : Int) :: [0, 0, 0, 0, 0, 0, 0, 0, 0, 0, 0, 0])

/-- Row `r` of a tile is in range as a row; a tensor of rank 1 has one row (R267). -/
def rowIn (d : Desc) (r : Nat) : Bool := d.rank != 1 || r == 0

/-- The items of one row: 64 elements, or 4 blocks, each an offset where it is in range. -/
def rowOffs (d : Desc) (c : Word64) (r : Nat) (scale : Bool) : List (Option Int) :=
  let blk := fmtIsBlock d.fmt
  (List.range (if blk then 4 else 64)).map (fun j =>
    let is := tileIndex d c r (if blk then 16 * j else j)
    if rowIn d r && inRange d is then some (if scale then scaleOff d is else dataOff d is) else none)

/-- An access of an operand at an offset is COH. -/
def cohAt (s : State) (rq : Req) (d : Desc) (scale : Bool) (off : Int) : Bool :=
  !d.spm && (match translate s rq (word64 (byteAt d scale off 0)) .load with
    | .ok (l, _) => !l.dev && l.kind == 0
    | .error _ => false)

/-- A prefetch makes a COH access (R210, R271). -/
def prefetchCoh (s : State) (k : Nat) (p : Prefetch) : Bool :=
  let any := fun (scale : Bool) => (List.range 64).any (fun r => (rowOffs p.desc p.coord r scale).any (fun o =>
    match o with
    | some off => cohAt s (engReq s (.engine k) .copy p.ctx) p.desc scale off
    | none => false))
  any false || (p.tag.isSome && any true)

/-! ### SPM operands (R237 step 5, R269) -/

/-- The least and the greatest byte offset of a range of indices per dimension, `lo` to `hi` inclusive. -/
def offSpan (d : Desc) (lo hi : List Int) : Int × Int :=
  let blk := fmtIsBlock d.fmt
  let cut := fun (f : Int → Int → Int) => (List.zipWith (fun (x : Int × Int) st => f (x.1 * st) (x.2 * st))
    ((lo.zip hi).drop (b2n blk)) (d.strides.drop (b2n blk))).foldl (· + ·) 0
  let b0 := if blk then lo.headD 0 / 16 * blockBytes d.fmt else 0
  let b1 := if blk then hi.headD 0 / 16 * blockBytes d.fmt else 0
  let n : Int := if blk then blockBytes d.fmt else fmtBytes d.fmt
  (cut min + b0, cut max + b1 + n - 1)

/-- The bytes that indices `lo` to `hi` touch lie in the buffer of length `len` at BASE, after its header; for a block
format the scale words lie in it too (R237). -/
def spanOk (d : Desc) (len : Nat) (lo hi : List Int) : Bool :=
  if (List.zipWith (fun a b => decide (a ≤ b)) lo hi).all id then
    let s := offSpan d lo hi
    decide (16 ≤ 64 + s.1) && decide (64 + s.2 < len) &&
      (!fmtIsBlock d.fmt ||
        (decide ((d.base : Int) + 16 ≤ d.sbase + 64 + scaleOff d lo) &&
          decide ((d.sbase : Int) + 64 + scaleOff d hi + 1 < d.base + len)))
  else true

/-- The index range of an operand in a box of extents `ext` from origins `o` (R236). -/
def touched (d : Desc) (o : List Int) (ext : List Nat) : List Int × List Int :=
  (List.zipWith (fun (a : Int) (_ : Nat) => max a 0) o d.extents,
   List.zipWith (fun (x : Int × Nat) (e : Nat) => min (x.1 + x.2 - 1) ((e : Int) - 1)) (o.zip ext) d.extents)

/-- The checks of an SPM operand: its buffer, the bytes, the owner with engine code `eng`, and a source's swizzle
(R237, R269); no rule states a tval, so it is 0 (R122). -/
def spmOperand (s : State) (k c : Nat) (d : Desc) (o : List Int) (ext : List Nat) (eng : Nat) (source : Bool) :
    Option (Cause × Word64) :=
  if d.spm then
    let i := s.isle k
    let v : Word64 := 0
    match i.buffer d.base with
    | none => some (.spmBounds, v)
    | some e =>
      let (lo, hi) := touched d o ext
      let h := i.header e.base
      if ¬ i.scratchOf c (bankOf e.base) ∨ ¬ spanOk d e.len lo hi then some (.spmBounds, v)
      else if ¬ hdrEngine h ∨ fieldOf h 25 24 ≠ eng then some (.ownerBit, v)
      else if source ∧ fieldOf h 3 2 ≠ d.swz.toNat then some (.swizzleMismatch, v)
      else none
  else none

/-- The buffers that an operation of a list of operands references (R185). -/
def operandBufs (l : List Desc) : List Nat := (l.filter (·.spm)).map (·.base)

/-- A cause of an engine's check raised precisely on a core (R237). -/
def liftCause {α : Type} (s : State) (x : Except (Cause × Word64) α) : Except Stop α :=
  match x with
  | .ok v => .ok v
  | .error (c, v) => raise s c v

end Sys2Proof.Machine
end

