-- ==== Sys2Proof/Machine/Scale.lean ====
section
/-! DEFINITION. The scale register file of an isle and the scale instructions (R256 to R266). -/

namespace Sys2Proof.Machine

/-! ### The register file (R256 to R260) -/

/-- The register that name `n` of context `c` maps to (R257). -/
def Isle.scaleName (i : Isle) (c n : Nat) : Option Nat := i.scaleMap.get none (256 * c + n)

/-- The map entry of name `n` of context `c` replaced. -/
def Isle.setName (i : Isle) (c n : Nat) (r : Option Nat) : Isle :=
  { i with scaleMap := i.scaleMap.put (256 * c + n) r }

/-- Word `w` of a register. -/
def ScaleReg.word (r : ScaleReg) (w : Nat) : BitVec 16 := r.words.get 0 w

/-- A binding tag: register index and generation (R258). -/
def tagCode (r g : Nat) : Nat := 16 * r + g

/-- A tag of register `r` added. -/
def addLive (i : Isle) (r : Nat) : Isle := i.setScale r { i.scale r with live := (i.scale r).live + 1 }

/-- The header of a buffer carries tag (r, g) (R259). -/
def headerTag (h r g : Nat) : Bool := fieldOf h 35 35 == 1 && fieldOf h 47 36 == tagCode r g

/-- The tiles of isle `k`. -/
def isleTiles (k : Nat) : List Nat := (List.range 8).flatMap (fun y => (List.range 16).map (fun x => isleTile k x y))

/-- Slot `n` of the fetch unit of a tile (R267). -/
def Tile.slot (t : Tile) (n : Nat) : Slot := t.slots.get Slot.reset n

/-- Slot `n` of the fetch unit of tile `t` changed by `f`. -/
def State.updSlot (s : State) (t n : Nat) (f : Slot → Slot) : State :=
  s.updTile t (fun v => { v with slots := v.slots.put n (f (v.slot n)) })

/-- The generation of register `r` raised with the sweep of R259. -/
def bumpGen (s : State) (k r : Nat) : State :=
  let i := s.isle k
  let g := ((i.scale r).gen + 1) % 16
  let hit := i.dir.filter (fun e => headerTag (i.header e.base) r g)
  let i1 := hit.foldl (fun i e => i.setHeader e.base (withField (i.header e.base) 35 35 0)) i
  let held := (isleTiles k).flatMap (fun t => (List.range 8).filterMap (fun n =>
    if ((s.tile t).slot n).tag = some (r, g) then some (t, n) else none))
  let i2 := i1.setScale r { i1.scale r with gen := g }
  let s1 := s.setIsle k (dropLive i2 r (hit.length + held.length))
  held.foldl (fun s p => s.updSlot p.1 p.2 (fun v => { v with tag := none })) s1

/-- The register of a name that is read; an empty entry raises SCALE_UNBOUND (R257). -/
def scaleSource (s : State) (k c n : Nat) : Except Stop Nat :=
  match (s.isle k).scaleName c n with
  | some r => .ok r
  | none => raise s .scaleUnbound (BitVec.ofNat 64 n)

/-- A register for a name that is written: its own, or the lowest FREE one within the quota (R257). -/
def scaleAlloc (s : State) (k c n : Nat) : Option (Nat × State) :=
  let i := s.isle k
  match i.scaleName c n with
  | some r => some (r, s)
  | none =>
    let used := (List.range 256).countP (fun r => (i.scale r).st != .free && (i.scale r).ctx == c)
    match (List.range 256).find? (fun r => (i.scale r).st == .free) with
    | none => none
    | some r =>
      if quotaSreg s c ≤ used then none
      else some (r, s.setIsle k ((i.setScale r ⟨.named, c, 0, 0, []⟩).setName c n (some r)))

/-- The destination register of a unit; QUOTA where none can be allocated (R257). -/
def scaleDest (s : State) (k c n : Nat) : Except Stop (Nat × State) :=
  match scaleAlloc s k c n with
  | some r => .ok r
  | none => raise s .quota (BitVec.ofNat 64 n)

/-- The header at `h` stamped with the current tag of register `r` (R263, R264). -/
def stampHeader (i : Isle) (h r : Nat) : Isle :=
  let v := i.header h
  let i1 := if fieldOf v 35 35 = 1 then dropLive i (fieldOf v 47 40) 1 else i
  let g := (i1.scale r).gen
  addLive (i1.setHeader h (withField (withField v 47 36 (tagCode r g)) 35 35 1)) r

/-- The consumer's check of a block operand's tag (R260): `none` passes. `b` is the operand, 0 for A and 1 for B. -/
def tagCheck (i : Isle) (c : Nat) (tag : Option (Nat × Nat)) (b : Nat) : Option (Cause × Word64) :=
  match tag with
  | none => some (.scaleUnbound, BitVec.ofNat 64 (2 ^ 13 + b * 2 ^ 12))
  | some (r, g) =>
    let v := BitVec.ofNat 64 (b * 2 ^ 12 + tagCode r g)
    if (i.scale r).st = .free ∨ (i.scale r).ctx ≠ c then some (.scaleUnbound, v)
    else if (i.scale r).gen ≠ g then some (.staleScale, v)
    else none

/-- A tag is current (R258). -/
def tagCurrent (i : Isle) (c : Nat) (tag : Option (Nat × Nat)) : Bool := tag.isSome && (tagCheck i c tag 0).isNone

/-! ### Words (R24, R265) -/

/-- A scale word from E and QS. -/
def scaleWord (e qs : Nat) : BitVec 16 := BitVec.ofNat 16 (256 * e + qs)

/-- QS of a scale word. -/
def scaleQs (w : BitVec 16) : Nat := w.toNat % 256

/-- A new exponent and QS with the clamp of R265; the flag says that it clamped. -/
def clampWord (e : Int) (qs : Nat) : BitVec 16 × Bool :=
  if e < 0 then (scaleWord 0 qs, true) else if 254 < e then (scaleWord 254 qs, true) else (scaleWord e.toNat qs, false)

/-- Word arithmetic on a word that is no NaN block (R265). -/
def mapWord (f : Int → Int) (w : BitVec 16) : BitVec 16 × Bool :=
  if scaleExp w = 255 then (w, false) else clampWord (f (scaleExp w)) (scaleQs w)

/-- SNORM (R265): the shift common to all four quads moves into E. -/
def normWord (w : BitVec 16) : BitVec 16 × Bool :=
  if scaleExp w = 255 then (w, false)
  else
    let ds := (List.range 4).map (fun j => scaleQs w / 4 ^ j % 4)
    let d := ds.foldl min (scaleExp w)
    clampWord ((scaleExp w : Int) - d) ((List.range 4).foldl (fun acc j => acc + (ds.getD j 0 - d) * 4 ^ j) 0)

/-- The words of a register as a table, from a function of the word number. -/
def wordsOf (f : Nat → BitVec 16) : Tbl (BitVec 16) :=
  (List.range 256).filterMap (fun w => if f w = 0 then none else some (w, f w))

/-! ### Units -/

/-- The scratchpad checks of a scale instruction (R195, R262): `n` bytes at `a`, written where `wr`, then the header at
`h` where there is one, in the order of R195. -/
def scaleSpm (s : State) (x : Runner) (a : Word64) (n al : Nat) (wr : Bool) (h : Option Nat) : Except Stop Unit := do
  let i := s.isle (runnerIsle x)
  let c := ctxOf s x
  check (decide (a.toNat % al = 0)) s .misalignData a
  check (n == 0 || i.spmOk c a.toNat n) s .spmBounds a
  match h with
  | some p => check ((i.buffer p).isSome && i.scratchOf c (bankOf p)) s .spmBounds (BitVec.ofNat 64 p)
  | none => pure ()
  match i.firstOwnerBad a.toNat n wr with
  | some b => raise s .ownerBit (BitVec.ofNat 64 b)
  | none => pure ()
  match h with
  | some p => check (!hdrEngine (i.header p)) s .ownerBit (BitVec.ofNat 64 p)
  | none => pure ()
  check (wr || !i.spmUe.any (fun u => decide (a.toNat ≤ u) && decide (u < a.toNat + n))) s .memUe a
  match h with
  | some p => check (!i.spmUe.any (fun u => decide (p ≤ u) && decide (u < p + 16))) s .memUe (BitVec.ofNat 64 p)
  | none => pure ()

/-- The words of register `r` of an isle written. -/
def putWords (s : State) (k r : Nat) (f : Nat → BitVec 16) : State :=
  s.updIsle k (fun i => i.setScale r { i.scale r with words := wordsOf f })

/-- SLD (R263). -/
def sldBody (d : BitVec 8) (ra : BitVec 5) (s : State) (x : Runner) : Done := do
  let a ← sGet s x ra
  let k := runnerIsle x
  let stamp := bit a 57
  let h := bits a 56 32
  let p := BitVec.ofNat 64 (bits a 24 0)
  check (decide (bits a 63 58 = 0) && decide (bits a 31 25 = 0) && (stamp || h == 0)) s .reservedField 0
  scaleSpm s x p 512 64 false (if stamp then some h else none)
  let (r, s1) ← scaleDest s k (ctxOf s x) d.toNat
  let l := (s.isle k).spmRead p.toNat 512
  let s2 := bumpGen (putWords s1 k r (fun w => BitVec.ofNat 16 (numOf ((l.drop (2 * w)).take 2)))) k r
  fall (if stamp then s2.updIsle k (fun i => stampHeader i h r) else s2)

/-- SST (R263). -/
def sstBody (d : BitVec 8) (ra : BitVec 5) (s : State) (x : Runner) : Done := do
  let a ← sGet s x ra
  let k := runnerIsle x
  check (decide (bits a 63 25 = 0)) s .reservedField 0
  let r ← scaleSource s k (ctxOf s x) d.toNat
  scaleSpm s x a 512 64 true none
  fall (s.updIsle k (fun i => i.spmWrite a.toNat
    ((List.range 256).flatMap (fun w => bytesOf ((i.scale r).word w).toNat 2))))

/-- SBIND (R264). -/
def sbindBody (d : BitVec 8) (ra : BitVec 5) (s : State) (x : Runner) : Done := do
  let a ← sGet s x ra
  let k := runnerIsle x
  check (decide (bits a 63 25 = 0)) s .reservedField 0
  let r ← scaleSource s k (ctxOf s x) d.toNat
  scaleSpm s x 0 0 1 false (some a.toNat)
  fall (s.updIsle k (fun i => stampHeader i a.toNat r))

/-- SUNB (R264): the entry is emptied, and its register becomes ORPHAN or FREE. -/
def sunbBody (d : BitVec 8) (s : State) (x : Runner) : Done :=
  let k := runnerIsle x
  let c := ctxOf s x
  match (s.isle k).scaleName c d.toNat with
  | none => fall s
  | some r =>
    let v := (s.isle k).scale r
    fall (s.updIsle k (fun i => (i.setScale r
      (if 0 < v.live then { v with st := .orphan } else { v with st := .free, ctx := 0 })).setName c d.toNat none))

/-- The flag of a clamp: vf.SAT in class L, none in class C (R265). -/
def clampFlag (s : State) (x : Runner) (sat : Bool) : State :=
  match x with
  | .core _ => s
  | .cell t => if sat then setVf s t flagSAT else s

/-- Every word of sd from the same word of sa (R265). -/
def mapBody (d a : BitVec 8) (f : Nat → BitVec 16 → BitVec 16 × Bool) (s : State) (x : Runner) : Done := do
  let k := runnerIsle x
  let src ← scaleSource s k (ctxOf s x) a.toNat
  let (r, s1) ← scaleDest s k (ctxOf s x) d.toNat
  let v := (s.isle k).scale src
  let sat := (List.range 256).any (fun w => (f w (v.word w)).2)
  fall (clampFlag (putWords s1 k r (fun w => (f w (v.word w)).1)) x sat)

/-- The operand k of SADD, SMAX and SMIN (R262): sext(P, 11) with EXT, and otherwise the scalar a, signed. -/
def scaleK (ra : BitVec 5) (s : State) (x : Runner) : Except Stop Int :=
  match payload s x with
  | some p => .ok (sextInt p.toNat 11)
  | none => (sGet s x ra).map (fun a => a.toInt)

/-- SADD, SMAX and SMIN (R265). -/
def scaleArith (d a : BitVec 8) (ra : BitVec 5) (f : Int → Int → Int) (s : State) (x : Runner) : Done := do
  let kk ← scaleK ra s x
  mapBody d a (fun _ w => mapWord (fun e => f e kk) w) s x

/-- SMULV (R265): one signed byte per tile row. -/
def smulvBody (d a : BitVec 8) (ra : BitVec 5) (s : State) (x : Runner) : Done := do
  let p ← sGet s x ra
  let k := runnerIsle x
  let _ ← scaleSource s k (ctxOf s x) a.toNat
  scaleSpm s x p 64 1 false none
  let l := (s.isle k).spmRead p.toNat 64
  mapBody d a (fun w v => mapWord (fun e => e + sextInt (l.getD (w / 4) 0).toNat 8) v) s x

/-- SGEN and SZERO (R266): every word is one value. -/
def fillBody (d : BitVec 8) (v : BitVec 16) (s : State) (x : Runner) : Done := do
  let (r, s1) ← scaleDest s (runnerIsle x) (ctxOf s x) d.toNat
  fall (putWords s1 (runnerIsle x) r (fun _ => v))

/-- A scale unit of both classes (R262): legal fields, a prefix of 0 where `imm` is not set, and its cycles. -/
def scaleUnit (rsv regs imm : Bool) (cost : Nat) (f : State → Runner → Done) (s : State) : State :=
  let ok := rsv && (imm || decide (extPayload (payload s s.active) = 0))
  unitCL 4 true ⟨.user, ok, true, fun k s => f s (.core k)⟩
    ⟨false, true, ok && regs, true, cost, fun t s => f s (.cell t)⟩ s

/-- RA of SADD, SMAX and SMIN: reserved with EXT, and otherwise a scalar source (R262). -/
def scaleReg (s : State) (ra : BitVec 5) : Bool := (payload s s.active).isNone || ra == 0

/-! ### Meanings -/

/-- SLD (R263). DESIGN CHOICE (log entry 65): R86 lets SA name a tensor identifier for SLD and SST where R262 marks
SA as reserved; a nonzero SA raises RESERVED_FIELD. -/
def execSld (d : BitVec 8) (r : BitVec 5) (v0 : BitVec 8) (s : State) : Host.Outcome State Fault Refusal :=
  .next (scaleUnit (v0 == 0) (srcL r) false 12 (sldBody d r) s)

/-- SST (R263); a nonzero SA as in SLD (log entry 65). -/
def execSst (d : BitVec 8) (r : BitVec 5) (v0 : BitVec 8) (s : State) : Host.Outcome State Fault Refusal :=
  .next (scaleUnit (v0 == 0) (srcL r) false 12 (sstBody d r) s)

/-- SBIND (R264). -/
def execSbind (d : BitVec 8) (r : BitVec 5) (v0 : BitVec 8) (s : State) : Host.Outcome State Fault Refusal :=
  .next (scaleUnit (v0 == 0) (srcL r) false 4 (sbindBody d r) s)

/-- SUNB (R264). -/
def execSunb (d : BitVec 8) (v0 : BitVec 13) (s : State) : Host.Outcome State Fault Refusal :=
  .next (scaleUnit (v0 == 0) true false 4 (sunbBody d) s)

/-- SADD (R265): e := E + k. -/
def execSadd (d : BitVec 8) (a : BitVec 8) (r : BitVec 5) (s : State) : Host.Outcome State Fault Refusal :=
  .next (scaleUnit (scaleReg s r) (srcL r) true 8 (scaleArith d a r (fun e k => e + k)) s)

/-- SMAX (R265): e := max(E, k). -/
def execSmax (d : BitVec 8) (a : BitVec 8) (r : BitVec 5) (s : State) : Host.Outcome State Fault Refusal :=
  .next (scaleUnit (scaleReg s r) (srcL r) true 8 (scaleArith d a r (fun e k => max e k)) s)

/-- SMIN (R265): e := min(E, k). -/
def execSmin (d : BitVec 8) (a : BitVec 8) (r : BitVec 5) (s : State) : Host.Outcome State Fault Refusal :=
  .next (scaleUnit (scaleReg s r) (srcL r) true 8 (scaleArith d a r (fun e k => min e k)) s)

/-- SMULV (R265). -/
def execSmulv (d : BitVec 8) (a : BitVec 8) (r : BitVec 5) (s : State) : Host.Outcome State Fault Refusal :=
  .next (scaleUnit true (srcL r) false 10 (smulvBody d a r) s)

/-- SNORM (R265). -/
def execSnorm (d : BitVec 8) (a : BitVec 8) (v0 : BitVec 5) (s : State) : Host.Outcome State Fault Refusal :=
  .next (scaleUnit (v0 == 0) true false 8 (mapBody d a (fun _ w => normWord w)) s)

/-- SCPY (R266). -/
def execScpy (d : BitVec 8) (a : BitVec 8) (v0 : BitVec 5) (s : State) : Host.Outcome State Fault Refusal :=
  .next (scaleUnit (v0 == 0) true false 8 (mapBody d a (fun _ w => (w, false))) s)

/-- SGEN (R266): every word is a[15:0]. -/
def execSgen (d : BitVec 8) (r : BitVec 5) (v0 : BitVec 8) (s : State) : Host.Outcome State Fault Refusal :=
  .next (scaleUnit (v0 == 0) (srcL r) false 8 (fun s x => do
    let a ← sGet s x r
    fillBody d (a.extractLsb' 0 16) s x) s)

/-- SZERO (R266): every word is 0x0000. -/
def execSzero (d : BitVec 8) (v0 : BitVec 13) (s : State) : Host.Outcome State Fault Refusal :=
  .next (scaleUnit (v0 == 0) true false 8 (fillBody d 0) s)

end Sys2Proof.Machine
end

