-- ==== Sys2Proof/Machine/Job.lean ====
section
/-! DEFINITION. Jobs and containment: the journal and the job record (R329, R348), pages as they are found and freed
(R379 to R384), cancellation (R244), and the fences of gangs, jobs, contexts and isles (R316, R346, R428). -/

namespace Sys2Proof.Machine

/-! ### COH accesses of the launch scheduler (R339) -/

/-- Bytes at a virtual address of context `c`, read by the scheduler. -/
def schedRead (s : State) (c va n : Nat) : Except (Cause × Word64) (List Byte × State) :=
  readVa s (engReq s .sched .data c) va n (pieces n)

/-- Bytes at a virtual address of context `c`, written by the scheduler; a write that cannot be performed has no
effect. -/
def schedWrite (s : State) (c va : Nat) (l : List Byte) : State :=
  match writeVa s (engReq s .sched .data c) va l (pieces l.length) with
  | .ok s1 => s1
  | .error _ => s

/-- A 64-bit word at a virtual address of context `c` as the scheduler reads it, 0 where it cannot. -/
def schedWord (s : State) (c va : Nat) : Nat :=
  match schedRead s c va 8 with
  | .ok (l, _) => numOf l
  | .error _ => 0

/-- An atomic ADD of the scheduler on a 64-bit word (R348). -/
def schedAdd (s : State) (c va n : Nat) : State := schedWrite s c va (bytesOf (schedWord s c va + n) 8)

/-! ### Journal (R329, R330) -/

/-- The device's own accesses to its tables in memory of context 0, the journal and the straggler records, at the time of
agent `g`: of an engine's reads only those of R340 and R385 are exempt from U (R189, R329, R368). -/
def tableReq (s : State) (g : Agent) : Req := engReq s g .data 0

/-- Bytes written in a table of context 0; a write that cannot be performed has no effect. -/
def tableWrite (s : State) (g : Agent) (va : Nat) (l : List Byte) : State :=
  match writeVa s (tableReq s g) va l (pieces l.length) with
  | .ok s1 => s1
  | .error _ => s

/-- A journal entry: the number is taken always, the entry is written while JBASE is not 0, SEQ last (R329, R330). -/
def journal (s : State) (c q event arg pos : Nat) : State :=
  let seq := s.mgmt.jseq.toNat
  let s1 := { s with mgmt := { s.mgmt with jseq := s.mgmt.jseq + 1 } }
  if s.mgmt.jbase = 0 then s1
  else
    let a := s.mgmt.jbase.toNat + 32 * (seq % 2 ^ (s.mgmt.jlog2.toNat % 32))
    let body := bytesOf (c % 256 + q % 256 * 2 ^ 8 + event % 256 * 2 ^ 16 + arg % 256 * 2 ^ 24) 8 ++ bytesOf pos 8 ++
      bytesOf s.micros 8
    tableWrite (tableWrite s1 .sched (a + 8) body) .sched a (bytesOf seq 8)

/-- STATE of a job (R348). -/
def jobCode : JobState → Nat
  | .queued => 0 | .admitted => 1 | .placing => 2 | .running => 3 | .pageWait => 4 | .preempted => 5
  | .draining => 6 | .complete => 7 | .faulted => 8 | .cancelled => 9

/-- STATE of a context (R309). -/
def ctxCode : CtxState → Nat
  | .free => 0 | .opened => 1 | .active => 2 | .slicedOut => 3 | .fenced => 4 | .closing => 5

/-- The job record (R348). -/
def jobRecord (j : Job) (seq : Nat) : List Byte :=
  bytesOf (j.cstep * 2 ^ 32 + j.num * 2 ^ 16 + j.cause.toNat * 2 ^ 8 + jobCode j.st) 8 ++ bytesOf (j.its % 2 ^ 32) 8 ++
    bytesOf seq 8 ++ List.replicate 40 0

/-- The job at the head of a COMMAND queue: the first that is QUEUED or counts as queued (R328, R346). -/
def headJob (s : State) (c q : Nat) : Option Job :=
  s.jobs.find? (fun j => j.ctx == c && j.queue == q && (j.st == .queued || j.st == .preempted))

/-- The job that is now the head of queue `q`, if any, starts its wait (R328). -/
def newHead (s : State) (c q : Nat) : State :=
  match headJob s c q with
  | some j => s.updJob c j.num (fun x => { x with since := s.micros })
  | none => s

/-- The times that a job keeps, as it goes to state `st`; `head` says that it was the head of its queue (R328, R346, R430). -/
def jobTimes (s : State) (j : Job) (st : JobState) (head : Bool) : State :=
  let live := fun (x : JobState) => x == .running || x == .pageWait
  let s1 := if live st ∧ ¬ live j.st then s.updJob j.ctx j.num (fun x => { x with act := s.micros }) else s
  let s2 := if st = .preempted then s1.updJob j.ctx j.num (fun x => { x with since := s.micros }) else s1
  if head ∧ st ≠ .queued ∧ st ≠ .preempted then newHead s2 j.ctx j.queue else s2

/-- A job changes its state: journal, record, and at a final state the completion counter (R348). -/
def setJobState (s : State) (c num : Nat) (st : JobState) (cause : BitVec 6) : State :=
  match s.findJob c num with
  | none => s
  | some j =>
    let j1 := { j with st := st, cause := cause }
    let seq := s.mgmt.jseq.toNat
    let head := ((headJob s c j.queue).map (·.num)) == some num
    let s0 := jobTimes (s.updJob c num (fun x => { x with st := st, cause := cause })) j st head
    let s1 := journal s0 c j.queue 3 (jobCode st) num
    let s2 := schedWrite s1 c j.jrec (jobRecord j1 seq)
    if jobFinal j1 ∧ j.doneCtr ≠ 0 then schedAdd s2 c j.doneCtr 1 else s2

/-- CTXCMD after a command has been carried out: OP, CTX and REFUSED (R312). -/
def setCtxcmd (s : State) (op c : Nat) (refused : Bool) : State :=
  { s with mgmt := { s.mgmt with ctxcmd := BitVec.ofNat 32 (b2n refused * 2 ^ 30 + op * 2 ^ 8 + c % 256) } }

/-- CTXCMD while a command is being carried out (R312). -/
def busyCtxcmd (s : State) (op c : Nat) : State :=
  { s with mgmt := { s.mgmt with ctxcmd := BitVec.ofNat 32 (2 ^ 31 + op * 2 ^ 8 + c % 256) } }

/-- QCMD after a command: OP, Q, CTX and REFUSED (R324). -/
def setQcmd (s : State) (op c q : Nat) (refused : Bool) : State :=
  { s with mgmt := { s.mgmt with qcmd := BitVec.ofNat 32 (b2n refused * 2 ^ 30 + q % 256 * 2 ^ 10 + op * 2 ^ 8 + c % 256) } }

/-- QCMD while a command is being carried out (R324). -/
def busyQcmd (s : State) (op c q : Nat) : State :=
  { s with mgmt := { s.mgmt with qcmd := BitVec.ofNat 32 (2 ^ 31 + q % 256 * 2 ^ 10 + op * 2 ^ 8 + c % 256) } }

/-- The commands that wait for a context to be loaded are refused where it enters a state that ignores them: an OPEN as soon as it
is no longer SLICED_OUT, a queue command as it becomes FENCED, CLOSING or FREE (R312, R313, R324). -/
def refuseHeld (s : State) (c : Nat) (st : CtxState) : State :=
  let x := s.mgmt.ctxcmd
  let y := s.mgmt.qcmd
  let s1 := if bit x 31 ∧ bits x 9 8 = 1 ∧ bits x 7 0 = c ∧ st ≠ .slicedOut then setCtxcmd s 1 c true else s
  if bit y 31 ∧ bits y 7 0 = c ∧ (st = .fenced ∨ st = .closing ∨ st = .free) then
    setQcmd s1 (bits y 9 8) c (bits y 17 10) true
  else s1

/-- A context's event is journalled, before any other access that it causes (R313, R330). -/
def noteCtxState (s : State) (c : Nat) (st : CtxState) : State :=
  journal (s.updCtx c (fun x => { x with st := st })) c 0 4 (ctxCode st) 0

/-- STATE of a context's record written (R309). -/
def putCtxState (s : State) (c : Nat) (st : CtxState) : State :=
  let s1 := refuseHeld s c st
  if s1.mgmt.ctxtab = 0 then s1
  else poke s1 (ctxField s1 c 0) (withField (ctxWord s1 c 0) 18 16 (ctxCode st))

/-- A context changes its state: journal, then STATE of its record (R309, R313, R330). -/
def setCtxState (s : State) (c : Nat) (st : CtxState) : State := putCtxState (noteCtxState s c st) c st

/-! ### Pages (R379, R380, R458) -/

/-- The physical columns that a page spans: its own and the skipped ones (R380). -/
def pageSpan (w skip : Nat) : Nat := w + (List.range 32).countP (fun i => skip / 2 ^ i % 2 = 1)

/-- The tiles of a page with their page column and row. -/
def pageTiles (p : Page) : List (Nat × Nat × Nat) :=
  (List.range p.h).flatMap (fun y => (List.range p.w).map (fun x =>
    (x, y, tileAt p.die (p.bx + physCol p.skip x) (p.byy + y))))

/-- The tiles of a page. -/
def pageTileList (p : Page) : List Nat := (pageTiles p).map (·.2.2)

/-- Every tile of the span of a placed page, skipped columns among them (R380). -/
def spanTiles (die bx byy w h skip : Nat) : List Nat :=
  (List.range h).flatMap (fun y => (List.range (pageSpan w skip)).map (fun x => tileAt die (bx + x) (byy + y)))

/-- A page that holds a region of the fabric (R383). -/
def pagePlaced (p : Page) : Bool :=
  p.st == .installing || p.st == .resident || p.st == .draining || p.st == .migrating

/-- Page `ix` of a job. -/
def State.page (s : State) (c j ix : Nat) : Option Page :=
  s.pages.find? (fun p => p.ctx == c && p.job == j && p.ix == ix)

/-- Page `ix` of a job changed by `f`. -/
def State.updPage (s : State) (c j ix : Nat) (f : Page → Page) : State :=
  { s with pages := s.pages.map (fun p => if p.ctx == c && p.job == j && p.ix == ix then f p else p) }

/-- The loaded kernel of a job (R340). -/
def State.kernelOf (s : State) (j : Job) : Option Kernel :=
  s.kernels.find? (fun k => k.ctx == j.ctx && k.handle == j.kernel)

/-- The pages of gang `g` of a job, by page index. -/
def gangPages (s : State) (j : Job) (g : Nat) : List Nat := ((s.kernelOf j).bind (fun k => k.gangs[g]?)).getD []

/-- The job's current gang (R344). -/
def curGang (j : Job) : Option Nat := (j.steps[j.cstep]?).map (·.gang)

/-- The state of a gang of a job; a gang that no step names has none (R356). -/
def Job.gang (j : Job) (g : Nat) : Option GangState := (j.gangs.find? (fun e => e.1 == g)).map (·.2)

/-- The page is of the job's current gang (R356). -/
def inCurGang (s : State) (p : Page) : Bool :=
  match s.findJob p.ctx p.job with
  | some j => match curGang j with
    | some g => (gangPages s j g).contains p.ix
    | none => false
  | none => false

/-- The page has left ABSENT and SAVED, or a load slot holds it (R458). -/
def pageBusy (p : Page) : Bool :=
  p.st == .fetching || p.st == .placing || pagePlaced p || p.load.isSome

/-- The page of a region that a name or a demand reaches (R458): the page that has a position comes before one that is on
its way to it. -/
def pageFor (s : State) (j : Job) (v : Nat) : Option Page :=
  let l := s.pages.filter (fun p => p.ctx == j.ctx && p.job == j.num && p.region == v)
  match l.find? (fun p => pagePlaced p || p.load.isSome) with
  | some p => some p
  | none => match l.find? pageBusy with
    | some p => some p
    | none => match l.find? (inCurGang s) with
      | some p => some p
      | none => l.head?

/-! ### Ingress (R390) -/

/-- A binding sends tokens to a region; one to a MEMORY operator sends none of its own. -/
def Binding.feeds (b : Binding) : Bool :=
  match b.kind with
  | .operator _ => false
  | _ => b.tok

/-- The page whose ingress port a template or binding of context `c` is: with TOK = 1, the page that its TDEST reaches. DEDUCED
(log entry 84). -/
def fedPage (s : State) (c : Nat) (tok : Bool) (dest : Nat) : Option Page :=
  if tok then (declaringJob s c (dest % 64)).bind (fun j => pageFor s j (dest % 64)) else none

/-- The page is frozen, or its state has been saved and has not come back (R390, R394, R400). -/
def pageHeld (s : State) (p : Page) : Bool :=
  p.save.isSome || (pagePlaced p && (pageTileList p).any (fun t => (s.tile t).frozen))

/-- An ingress port runs: the page that it feeds is not held (R390, R394). -/
def ingressOn (s : State) (c : Nat) (tok : Bool) (dest : Nat) : Bool :=
  (fedPage s c tok dest).all (fun p => !pageHeld s p)

/-- The dies whose stream bindings are ingress ports of a page (R390). -/
def fedBy (s : State) (p : Page) : List Nat :=
  (List.range 4).filter (fun d => (s.die d).port.binding.any (fun b =>
    (fedPage s b.ctx b.feeds b.tdest).any (fun q => q.ctx == p.ctx && q.job == p.job && q.ix == p.ix)))

/-! ### Cancellation (R244, R272) -/

/-- The pins of lines on isle `k` released (R269, R272). -/
def unpin (s : State) (k : Nat) (l : List Nat) : State :=
  s.updIsle k (fun i => { i with l2 := i.l2.map (fun (n, v) => (n, { v with pins := v.pins - l.countP (· == n) })) })

/-- Lines pinned on isle `k`. -/
def pin (s : State) (k : Nat) (l : List Nat) : State :=
  s.updIsle k (fun i => { i with l2 := i.l2.map (fun (n, v) => (n, { v with pins := v.pins + l.countP (· == n) })) })

/-- The release of a fetch slot (R272). -/
def releaseSlot (s : State) (t n : Nat) : State :=
  let v := (s.tile t).slot n
  let k := tileIsle t
  let s1 := unpin s k v.lines
  let s2 := match v.buf with
    | some b => s1.updIsle k (fun i => dropRef i b (fieldOf (i.header b) 3 2) (v.st != SlotState.faulted && v.st != SlotState.fetching))
    | none => s1
  let s3 := match v.tag with
    | some (r, _) => s2.updIsle k (fun i => dropLive i r 1)
    | none => s2
  s3.updSlot t n (fun _ => Slot.reset)

/-- Buffer references of a cancelled operation dropped (R185). -/
def dropBufs (s : State) (k : Nat) (l : List Nat) : State :=
  l.foldl (fun s b => s.updIsle k (fun i => dropRef i b 0 false)) s

/-- A copy operation cancelled: it goes, and its tag ends in error (R244). -/
def cancelOp (s : State) (k : Nat) (o : CopyOp) : State :=
  let s1 := dropBufs (s.updIsle k (fun i => { i with ops := i.ops.filter (fun x => x.id != o.id) })) k o.bufs
  match o.tag with
  | some t => endTag s1 k t (s1.isle k).engPts true
  | none => s1

/-- A stream binding ends: its buffer reference and its tag go (R253, R244). -/
def endBinding (s : State) (d : Nat) (err : Bool) : State :=
  match (s.die d).port.binding with
  | none => s
  | some b =>
    let s1 := s.updDie d (fun v => { v with port := { v.port with binding := none, bound := 0, queue := [] } })
    let s2 := match b.buf with
      | some a => s1.updIsle b.isle (fun i => dropRef i a ((b.desc.map (fun v => v.swz.toNat)).getD 0) (!err))
      | none => s1
    match b.tag with
    | some t => endTag s2 b.isle t (s2.die d).port.pts err
    | none => s2

/-- What isle `k`'s copy engine holds of a set of jobs is cancelled (R244). -/
def cancelOnIsle (s : State) (k : Nat) (mine : Nat → Nat → Bool) : State :=
  let i := s.isle k
  let s1 := (i.ops.filter (fun o => mine o.ctx o.job)).foldl (fun s o => cancelOp s k o) s
  (i.templates.filter (fun e => e.2.armed && mine e.2.ctx e.2.job)).foldl (fun s e =>
    (dropBufs s k e.2.bufs).updIsle k (fun i => { i with templates := i.templates.put e.1 Template.reset })) s1

/-- Operations, templates and bindings of a set of jobs cancelled on every isle and port (R244). -/
def cancelCopies (s : State) (mine : Nat → Nat → Bool) : State :=
  let s1 := (s.isles.map (·.1)).foldl (fun s k => cancelOnIsle s k mine) s
  (List.range 4).foldl (fun s d =>
    match (s.die d).port.binding with
    | some b => if mine b.ctx b.job then endBinding s d true else s
    | none => s) s1

/-! ### Freeing a page's region (R383) -/

/-- A task that a queue-engine record holds cannot end by itself: it is aborted with the record's CODE (R325, R459). -/
def abortHeldOf (s : State) (t : Nat) : State :=
  match (s.cell t).task.bind (·.held) with
  | some n => let x := (s.isle (tileIsle t)).ringAt n; abortTask s t (causeOf x.code) x.tval
  | none => s

/-- What a tile keeps while the task of an ended job runs on it (R160, R346): its code and the task; no token enters or
leaves, and no operator, engine or fetch unit acts. -/
def endingTile (v : Tile) : Tile :=
  { v with
    ops := (clearTile v).ops, slots := [], eng := Engine.reset, captured := [], frozen := true, ending := true,
    cell := { v.cell with ready := [], latch := v.cell.latch.filter (fun l => !l.out) } }

/-- A tile of a page is emptied: its slots released, its frames freed, a port its MEMORY operator holds unbound. A task that
runs there ends or aborts first, as at a freeze (R160, R346); its own frames stay with it until then. -/
def emptyTile (s : State) (t c : Nat) : State :=
  let s0 := abortHeldOf s t
  let s1 := (List.range 8).foldl (fun s n => if ((s.tile t).slot n).st = .free then s else releaseSlot s t n) s0
  let own := match (s1.cell t).task with
    | some k => k.reserved ++ k.drawn
    | none => []
  let s2 := ((tileFrames s1 t c).filter (fun f => !own.contains f)).foldl (fun s f =>
    s.updIsle (tileIsle t) (fun i => freeFrame i f)) s1
  let s3 := match (s2.die (tileDie t)).port.binding with
    | some b => if b.kind = BindKind.operator t then endBinding s2 (tileDie t) false else s2
    | none => s2
  s3.setTile t (if (s3.cell t).task.isSome then endingTile (s3.tile t) else clearTile (s3.tile t))

/-- The tiles of a page's span that lie in skipped columns (R380). -/
def skippedTiles (p : Page) : List Nat :=
  (spanTiles p.die p.bx p.byy p.w p.h p.skip).filter (fun t => !(pageTileList p).contains t)

/-- The switches of the skipped columns of a page take its base register, or lose it (R381). The page column 16 stands for no
column. -/
def baseSkipped (s : State) (p : Page) (on : Bool) : State :=
  (skippedTiles p).foldl (fun s t => s.updTile t (fun v =>
    { v with skipped := if on then some ⟨p.ctx, p.job, p.region, 16, tileY t - p.byy, p.bx, p.byy, p.skip⟩ else none })) s

/-- The region of a page is freed (R383). -/
def freeRegion (s : State) (p : Page) : State :=
  if pagePlaced p then
    let s1 := (pageTileList p).foldl (fun s t => emptyTile s t p.ctx) (baseSkipped s p false)
    s1.updJob p.ctx p.job (fun j => j.updEntry p.region (fun r => { r with res := false }))
  else s

/-- The load slot that holds a page goes (R402). -/
def freeLoads (s : State) (p : Page) : State :=
  match p.load with
  | none => s
  | some n => s.updIsle (n / 4) (fun i => { i with loads := i.loads.put (n % 4) none })

/-! ### The end of a job (R346, R356) -/

/-- The gangs of a job that is CANCELLED or FAULTED (R356). -/
def endGangs (l : Tbl GangState) : Tbl GangState :=
  l.map (fun (g, st) => (g, if st = .declared then .declared else .done))

/-- The last job of an ACTIVE context has ended: the context is OPEN again (R313). -/
def lastJob (s : State) (c : Nat) : State :=
  if (s.ctx c).st = .active ∧ (s.liveJobs c).isEmpty then setCtxState s c .opened else s

/-- The records of a set of jobs that has become final take no action any more (R427). -/
def killRecords (s : State) (mine : Nat → Nat → Bool) : State :=
  let one := fun (x : TrapRec) => if mine x.ctx x.job then { x with dead := true } else x
  (s.isles.map (·.1)).foldl (fun s k => s.updIsle k (fun i =>
    { i with ring := i.ring.map (fun e => (e.1, one e.2)), waitRecs := i.waitRecs.map one })) s

/-- A job ends in a final state: its copies are cancelled, its tasks end or abort as at a freeze (R160), its pages, frames,
lagoons and saved state are freed (R346, R383). -/
def finishJob (s : State) (c num : Nat) (st : JobState) (cause : BitVec 6) : State :=
  match s.findJob c num with
  | none => s
  | some _ =>
    let mine := fun a b => a == c && b == num
    let s1 := cancelCopies s mine
    let own := s1.pages.filter (fun p => mine p.ctx p.job)
    let s2 := own.foldl (fun s p => freeLoads (freeRegion s p) p) s1
    let s3 := { s2 with
      pages := s2.pages.filter (fun p => !mine p.ctx p.job),
      lagoons := s2.lagoons.filter (fun e => !mine e.1.1 e.1.2.1) }
    let s4 := s3.updJob c num (fun j => { j with gangs := endGangs j.gangs, snap := none })
    setJobState (killRecords s4 mine) c num st cause

/-- A job ends, and with the last one of an ACTIVE context the context is OPEN again (R313, R346). -/
def endJob (s : State) (c num : Nat) (st : JobState) (cause : BitVec 6) : State :=
  match s.findJob c num with
  | none => s
  | some _ => lastJob (finishJob s c num st cause) c

/-- A job is fenced with a cause (R346, R428). -/
def fenceJob (s : State) (c num : Nat) (cause : BitVec 6) : State := endJob s c num .faulted cause

/-! ### Gang fence and freeze in place (R390, R400, R428) -/

/-- The tiles of a page are frozen: no firing, no admission, no ingress; STAT.FROZEN reads 1 (R390, R400). -/
def freezeTiles (s : State) (p : Page) (on : Bool) : State :=
  (pageTileList p).foldl (fun s t => s.updTile t (fun v => { v with frozen := on })) s

/-- A page frozen as FRZ freezes it. -/
def frzPage (s : State) (p : Page) : State :=
  (freezeTiles s p true).updPage p.ctx p.job p.ix (fun x => { x with frz := true })

/-- The gang that a page acts in (R351, R399): the current one where it holds the page, else the first that does. -/
def gangOf (s : State) (j : Job) (ix : Nat) : Nat :=
  let has := fun g => (gangPages s j g).contains ix
  match curGang j with
  | some g => if has g then g else firstOf has
  | none => firstOf has
where
  /-- The first gang of the kernel that satisfies `has`. -/
  firstOf (has : Nat → Bool) : Nat :=
    ((List.range (((s.kernelOf j).map (fun k => k.gangs.length)).getD 0)).find? has).getD 0

/-- The pages that gang `g` of a job acts on (R351): its own, without those that the job's current gang holds where that is
another gang (log entry 70). -/
def actsOn (s : State) (j : Job) (g : Nat) : List Nat :=
  let own := gangPages s j g
  match curGang j with
  | some c => if c = g then own else own.filter (fun ix => !(gangPages s j c).contains ix)
  | none => own

/-- The gang of a page is frozen in place: every RESIDENT page of it (R428). -/
def fenceGangOf (s : State) (p : Page) : State :=
  match s.findJob p.ctx p.job with
  | none => s
  | some j =>
    (actsOn s j (gangOf s j p.ix)).foldl (fun s ix =>
      match s.page p.ctx p.job ix with
      | some q => if q.st = .resident then frzPage s q else s
      | none => s) s

/-! ### Queues of a context (R322, R324) -/

/-- The address of queue table entry `q` of context `c` (R322). -/
def qEntry (s : State) (c q : Nat) : Nat := ctxWord s c 0x30 + 64 * q

/-- CTL of queue `q` of context `c`. -/
def qCtl (s : State) (c q : Nat) : Nat := schedWord s c (qEntry s c q + 8)

/-- STATE of a queue's CTL (R322): 0 OFF, 1 ON, 2 OPEN, 3 HELD. -/
def qState (ctl : Nat) : Nat := fieldOf ctl 41 40

/-- KIND of CTL: 0 COMMAND, 1 TASK, 2 STREAM. -/
def qKind (ctl : Nat) : Nat := fieldOf ctl 14 13
/-- V of CTL. -/
def qValid (ctl : Nat) : Bool := ctl / 2 ^ 63 % 2 == 1
/-- N of CTL. -/
def qSize (ctl : Nat) : Nat := 2 ^ fieldOf ctl 33 29
/-- The owner isle of CTL. -/
def qOwner (ctl : Nat) : Nat := 16 * fieldOf ctl 25 24 + fieldOf ctl 23 20
/-- HWQ of CTL. -/
def qHwq (ctl : Nat) : Nat := fieldOf ctl 39 34
/-- PRIO of CTL. -/
def qPrio (ctl : Nat) : Nat := fieldOf ctl 6 0

/-- A hardware queue of an isle. -/
def Isle.hw (i : Isle) (q : Nat) : HwQueue := i.hwq.get HwQueue.reset q

/-- The hardware queue of a STREAM queue is bound, or unbound with what it stores dropped (R324, R334). -/
def bindStream (s : State) (c q ctl : Nat) (on : Bool) : State :=
  if qKind ctl = 2 ∧ 16 ≤ qHwq ctl then
    s.updIsle (qOwner ctl) (fun i =>
      if on then { i with hwq := i.hwq.put (qHwq ctl) ⟨some (c, q), qSize ctl, []⟩ }
      else if (i.hw (qHwq ctl)).bound = some (c, q) then { i with hwq := i.hwq.put (qHwq ctl) HwQueue.reset } else i)
  else s

/-- A queue changes its state, journalled as event 5; one that is OFF has no hardware queue (R324, R329, R334). -/
def setQState (s : State) (c q st : Nat) : State :=
  let s1 := journal s c q 5 st 0
  let ctl := qCtl s1 c q
  let s2 := schedWrite s1 c (qEntry s1 c q + 8) (bytesOf (withField ctl 41 40 st) 8)
  if st = 0 then bindStream s2 c q ctl false else s2

/-- The valid queues of a context whose state satisfies `f` enter state `st` (R324). -/
def moveQueues (s : State) (c : Nat) (f : Nat → Bool) (st : Nat) : State :=
  (List.range 256).foldl (fun s q =>
    let ctl := qCtl s c q
    if ctl / 2 ^ 63 % 2 = 1 ∧ f (qState ctl) then setQState s c q st else s) s

/-! ### Context and isle fences (R316, R428) -/

/-- Frames of a context on every isle return to FREE at once (R67, R317); a task that still runs holds none of them any
more. -/
def freeCtxFrames (s : State) (c : Nat) : State :=
  let s1 := (s.isles.map (·.1)).foldl (fun s k => s.updIsle k (fun i =>
    ((i.frames.filter (fun e => e.2.st != .free && e.2.ctx == c)).map (·.1)).foldl freeFrame i)) s
  (s1.tiles.map (·.1)).foldl (fun s t =>
    if (s.tile t).ending && tileCtx s t == c then
      s.updTile t (fun v => { v with cell := { v.cell with
        task := v.cell.task.map (fun k => { k with reserved := [], drawn := [] }) } })
    else s) s1

/-- What a context holds besides its jobs goes: its copies, wake entries, prefetches and lagoons (R316, R366). -/
def dropContext (s : State) (c : Nat) : State :=
  let s1 := cancelCopies s (fun a _ => a == c)
  let s2 := (s1.isles.map (·.1)).foldl (fun s k => s.updIsle k (fun i =>
    { i with wakes := i.wakes.filter (·.ctx != c), prefetches := i.prefetches.filter (·.ctx != c) })) s1
  freeCtxFrames { s2 with lagoons := s2.lagoons.filter (fun e => e.1.1 != c) } c

/-- Every non-final job of a context ends (R316, R317); the state of the context is the caller's (R313). -/
def endJobs (s : State) (c : Nat) (st : JobState) (cause : BitVec 6) : State :=
  (s.liveJobs c).foldl (fun s j => finishJob s c j.num st cause) s

/-- The running tasks of a context are aborted with a cause (R316, R317). -/
def abortTasks (s : State) (c : Nat) (cause : Cause) : State :=
  (s.tiles.map (·.1)).foldl (fun s t =>
    if (s.tile t).base.isSome ∧ tileCtx s t = c then abortTask s t cause 0 else s) s

/-- The jobs with a page, task, engine operation or binding on isle `k` (R428). -/
def jobsOn (s : State) (k : Nat) : List (Nat × Nat) :=
  let tiles := (isleTiles k).filterMap (fun t =>
    if (s.tile t).ending then none else (s.tile t).base.map (fun b => (b.ctx, b.job)))
  let ops := (s.isle k).ops.map (fun o => (o.ctx, o.job))
  let tmp := (s.isle k).templates.filterMap (fun e => if e.2.armed then some (e.2.ctx, e.2.job) else none)
  let bind := match (s.die (isleDie k)).port.binding with
    | some b => if b.isle = k then [(b.ctx, b.job)] else []
    | none => []
  tiles ++ ops ++ tmp ++ bind

/-- An isle is fenced with a cause until module reset (R428). -/
def fenceIsle (s : State) (k : Nat) (cause : BitVec 6) : State :=
  ((jobsOn s k).eraseDups).foldl (fun s j => fenceJob s j.1 j.2 cause) (s.updIsle k (fun i => { i with fenced := true }))

/-! ### Fault records of ports and engines (R14, R425, R431) -/

/-- A fault record of an operator, engine, fetch unit, binding or queue engine; REMOTE_FENCED also fences the job whose
access it was (R431). -/
def faultRecord (s : State) (k : Nat) (x : TrapRec) : State :=
  let s1 := writeRecord s k x
  if x.code = causeCode .remoteFenced then fenceJob s1 x.ctx x.job x.code else s1

/-- The ring slot that the next record of isle `k` takes, after those that wait for room (R426). -/
def nextRing (s : State) (k : Nat) : Nat := ((s.isle k).trTail + (s.isle k).waitRecs.length) % 64

end Sys2Proof.Machine
end

