-- ==== Sys2Proof/Machine/Scratch.lean ====
section
/-! DEFINITION. The scratchpad instructions: LDS, STS, AMOS, TSB, TCB, OWN, and FENCE (R200 to R204). -/

namespace Sys2Proof.Machine

/-! ### Shared operations -/

/-- A load of class C from scratchpad: sign-extended (R201). -/
def ldsCore (t a : BitVec 5) (size : Nat) (off : Int) (k : Nat) (s : State) : Done := do
  let ea := gGet s k a + word64 off
  spmCheck s (.core k) ea size size false true
  fall (gSet s k t (word64 (sextInt (numOf ((s.isle k).spmRead ea.toNat size)) (8 * size))))

/-- A store of class C to scratchpad (R201). -/
def stsCore (t a : BitVec 5) (size : Nat) (off : Int) (k : Nat) (s : State) : Done := do
  let ea := gGet s k a + word64 off
  spmCheck s (.core k) ea size size true false
  fall (s.updIsle k (fun i => i.spmWrite ea.toNat (bytesOf (gGet s k t).toNat size)))

/-- A load of `n` lanes of class L (R201). -/
def ldsCell (t a : BitVec 5) (n : Nat) (off : Int) (c : Nat) (s : State) : Done := do
  let b ← sGetL s c a
  let ea := b + word64 off
  spmCheck s (.cell c) ea (4 * n) 4 false true
  let l := lanesOfBytes ((s.isle (tileIsle c)).spmRead ea.toNat (4 * n))
  fall (lSet s c t (Lanes.ofFn (fun i => if i < n then l.get i else 0)))

/-- A store of `n` lanes of class L (R201). -/
def stsCell (t a : BitVec 5) (n : Nat) (off : Int) (c : Nat) (s : State) : Done := do
  let b ← sGetL s c a
  let v ← lGet s c t
  let ea := b + word64 off
  spmCheck s (.cell c) ea (4 * n) 4 true false
  fall (s.updIsle (tileIsle c) (fun i => i.spmWrite ea.toNat (bytesOfLanes v n)))

/-- The cycles of LDS and STS in a cell (R204). -/
def spmCost (n : Nat) : Nat := if n ≤ 4 then 4 else 5

/-- An indivisible scratchpad operation of either class: `size` bytes at ea, the old value and the new (R202). -/
def spmAtomic (s : State) (x : Runner) (d : BitVec 5) (ea : Word64) (size al : Nat) (f : Nat → Nat × Word64) : Done := do
  spmCheck s x ea size al true true
  let r := f (numOf ((s.isle (runnerIsle x)).spmRead ea.toNat size))
  let s1 := s.updIsle (runnerIsle x) (fun i => i.spmWrite ea.toNat (bytesOf r.1 size))
  fall (sSet s1 x d r.2)

/-- AMOS on either class (R202); sizes 0b00 and 0b01 raise ATOMIC_KIND (R88). -/
def amosBody (d a b : BitVec 5) (z : BitVec 2) (o : BitVec 5) (s : State) (x : Runner) : Done := do
  let ea ← sGet s x a
  let v ← sGet s x b
  check (decide (2 ≤ z.toNat)) s .atomicKind ea
  let w := amoWidth z
  spmAtomic s x d ea (w / 8) (w / 8) (fun old => (amoResult o.toNat w old v.toNat, word64 (sextInt old w)))

/-- TSB and TCB (R202): bit b[2:0] of byte a + (b[31:0] >> 3). -/
def bitAtomic (d a b : BitVec 5) (set : Bool) (s : State) (x : Runner) : Done := do
  let p ← sGet s x a
  let v ← sGet s x b
  let ea := p + BitVec.ofNat 64 (bits v 31 3)
  let j := bits v 2 0
  spmAtomic s x d ea 1 1 (fun old =>
    let bitOld := old / 2 ^ j % 2
    (if set then old ||| 2 ^ j else old - bitOld * 2 ^ j, BitVec.ofNat 64 bitOld))

/-- OWN.DECL (R203). -/
def ownDeclBody (d a b : BitVec 5) (s : State) (x : Runner) : Done := do
  let p ← sGet s x a
  let v ← sGet s x b
  let i := s.isle (runnerIsle x)
  let len := bits v 31 0
  check (decide (p.toNat % 64 = 0)) s .misalignData p
  check (decide (bits v 63 52 = 0)) s .reservedField 0
  check (decide (64 ≤ len) && decide (len % 64 = 0) && decide (len ≤ 2 ^ 25) && i.spmOk (ctxOf s x) p.toNat len &&
    !i.overlaps p.toNat len &&
    (List.range (bankOf (p.toNat + len - 1) - bankOf p.toNat + 1)).all (fun j => !(i.bank (bankOf p.toNat + j)).busy) &&
    decide (i.dir.length < 512)) s .spmBounds p
  let i1 := { i with dir := i.dir ++ [(⟨p.toNat, len, 0, false, false⟩ : BufEntry)] }
  let s1 := s.setIsle (runnerIsle x) (i1.setHeader p.toNat (newHeader len (bits v 50 32) (bit v 51)))
  fall (sSet s1 x d 0)

/-- The buffer that an OWN names: a must be 64-byte aligned and a header of the loaded context (R203). -/
def ownBuffer (s : State) (x : Runner) (p : Word64) : Except Stop BufEntry := do
  check (decide (p.toNat % 64 = 0)) s .misalignData p
  match (s.isle (runnerIsle x)).buffer p.toNat with
  | some e => if (s.isle (runnerIsle x)).scratchOf (ctxOf s x) (bankOf e.base) then return e else raise s .spmBounds p
  | none => raise s .spmBounds p

/-- OWN.GIVE (R203). -/
def ownGiveBody (d a b : BitVec 5) (s : State) (x : Runner) : Done := do
  let p ← sGet s x a
  let v ← sGet s x b
  check (decide (bits v 63 2 = 0)) s .reservedField 0
  let e ← ownBuffer s x p
  let h := (s.isle (runnerIsle x)).header e.base
  if hdrEngine h then fall (sSet s x d 1)
  else fall (sSet (s.updIsle (runnerIsle x) (fun i => i.setHeader e.base (withField (withField h 25 24 v.toNat) 0 0 1))) x d 0)

/-- OWN.TAKE (R203): the buffer returns to CORE, so what an engine wrote before counts no more (R185). -/
def ownTakeBody (d a : BitVec 5) (s : State) (x : Runner) : Done := do
  let p ← sGet s x a
  let e ← ownBuffer s x p
  let h := (s.isle (runnerIsle x)).header e.base
  if hdrEngine h then
    if e.refs = 0 then fall (sSet (s.updIsle (runnerIsle x) (fun i =>
        (i.setHeader e.base (withField h 0 0 0)).updBuffer e.base (fun e => { e with wrote := false }))) x d 0)
    else fall (sSet s x d 1)
  else fall (sSet s x d 0)

/-- OWN.DROP (R203). -/
def ownDropBody (d a : BitVec 5) (s : State) (x : Runner) : Done := do
  let p ← sGet s x a
  let e ← ownBuffer s x p
  if hdrEngine ((s.isle (runnerIsle x)).header e.base) ∨ e.refs ≠ 0 then fall (sSet s x d 1)
  else fall (sSet (s.updIsle (runnerIsle x) (fun i => dropBuffer i e.base)) x d 0)

/-- A unit of both classes on scalars: class L takes `cost` cycles and its fields are register numbers of R82. -/
def scalarCL (rsv regs : Bool) (d : BitVec 5) (cost : Nat) (f : State → Runner → Done) (s : State) : State :=
  unitCL 4 false ⟨.user, rsv, true, fun k s => f s (.core k)⟩
    ⟨false, true, rsv && regs && dstL d, true, cost, fun t s => f s (.cell t)⟩ s

/-- FENCE's effect on the caches of a core's isle (R200); ACQREL ends the window of R95. -/
def fenceCaches (s : State) (k : Nat) (kind : BitVec 2) (scope : Nat) : State :=
  let s1 := if bit kind 1 ∧ 2 ≤ scope then writeBackAll s k else s
  let s2 := if bit kind 0 ∧ 2 ≤ scope then dropCleanLoc s1 k else s1
  if kind = 3 then s2.updCore k (fun c => { c with unfenced := [] }) else s2

/-! ### Meanings -/

/-- LDS: a byte to a doubleword in class C, SZ + 1 lanes in class L (R201). -/
def execLds (t : BitVec 5) (a : BitVec 5) (z : BitVec 3) (o : BitVec 11) (s : State) : Host.Outcome State Fault Refusal :=
  let off := extImm (payload s s.active) o
  .next (unitCL 4 true ⟨.user, decide (z.toNat ≤ 3), true, ldsCore t a (2 ^ z.toNat) off⟩
    ⟨false, true, dstL t && srcL a, true, spmCost (z.toNat + 1), ldsCell t a (z.toNat + 1) off⟩ s)

/-- STS; in class L RT may not be hdr (R201). -/
def execSts (t : BitVec 5) (a : BitVec 5) (z : BitVec 3) (o : BitVec 11) (s : State) : Host.Outcome State Fault Refusal :=
  let off := extImm (payload s s.active) o
  .next (unitCL 4 true ⟨.user, decide (z.toNat ≤ 3), true, stsCore t a (2 ^ z.toNat) off⟩
    ⟨false, true, decide (t.toNat ≤ 9) && srcL a, true, spmCost (z.toNat + 1), stsCell t a (z.toNat + 1) off⟩ s)

/-- LDS.D with OFF = IMM4 × 8, or LDS of 8 lanes with OFF = IMM4 × 32 (R90). -/
def execLdsShort (t : BitVec 3) (a : BitVec 3) (o : BitVec 4) (s : State) : Host.Outcome State Fault Refusal :=
  .next (unitCL 2 false ⟨.user, true, true, ldsCore (short5 t) (short5 a) 8 (8 * o.toNat : Nat)⟩
    ⟨false, true, true, true, spmCost 8, ldsCell (shortT t) (shortT a) 8 (32 * o.toNat : Nat)⟩ s)

/-- STS.D with OFF = IMM4 × 8, or STS of 8 lanes with OFF = IMM4 × 32 (R90). -/
def execStsShort (t : BitVec 3) (a : BitVec 3) (o : BitVec 4) (s : State) : Host.Outcome State Fault Refusal :=
  .next (unitCL 2 false ⟨.user, true, true, stsCore (short5 t) (short5 a) 8 (8 * o.toNat : Nat)⟩
    ⟨false, true, true, true, spmCost 8, stsCell (shortT t) (shortT a) 8 (32 * o.toNat : Nat)⟩ s)

/-- AMOS (R202). -/
def execAmos (d : BitVec 5) (a : BitVec 5) (b : BitVec 5) (z : BitVec 2) (o : BitVec 5) (v0 : BitVec 3) (s : State) : Host.Outcome State Fault Refusal :=
  .next (scalarCL (v0 == 0) (srcL a && srcL b) d 6 (amosBody d a b z o) s)

/-- TSB writes the old bit and sets it (R202). -/
def execTsb (d : BitVec 5) (a : BitVec 5) (b : BitVec 5) (v0 : BitVec 5) (s : State) : Host.Outcome State Fault Refusal :=
  .next (scalarCL (v0 == 0) (srcL a && srcL b) d 6 (bitAtomic d a b true) s)

/-- TCB writes the old bit and clears it (R202). -/
def execTcb (d : BitVec 5) (a : BitVec 5) (b : BitVec 5) (v0 : BitVec 5) (s : State) : Host.Outcome State Fault Refusal :=
  .next (scalarCL (v0 == 0) (srcL a && srcL b) d 6 (bitAtomic d a b false) s)

/-- OWN.DECL declares a buffer (R203). -/
def execOwnDecl (d : BitVec 5) (a : BitVec 5) (b : BitVec 5) (v0 : BitVec 3) (s : State) : Host.Outcome State Fault Refusal :=
  .next (scalarCL (v0 == 0) (srcL a && srcL b) d 2 (ownDeclBody d a b) s)

/-- OWN.GIVE gives a buffer to an engine (R203). -/
def execOwnGive (d : BitVec 5) (a : BitVec 5) (b : BitVec 5) (v0 : BitVec 3) (s : State) : Host.Outcome State Fault Refusal :=
  .next (scalarCL (v0 == 0) (srcL a && srcL b) d 2 (ownGiveBody d a b) s)

/-- OWN.TAKE takes a buffer back (R203). -/
def execOwnTake (d : BitVec 5) (a : BitVec 5) (v0 : BitVec 8) (s : State) : Host.Outcome State Fault Refusal :=
  .next (scalarCL (v0 == 0) (srcL a) d 2 (ownTakeBody d a) s)

/-- OWN.DROP removes a buffer (R203). -/
def execOwnDrop (d : BitVec 5) (a : BitVec 5) (v0 : BitVec 8) (s : State) : Host.Outcome State Fault Refusal :=
  .next (scalarCL (v0 == 0) (srcL a) d 2 (ownDropBody d a) s)

/-- FENCE; scopes 4 to 7, and PKG and SYS in a cell, raise SCOPE_ILLEGAL (R88, R200). -/
def execFence (k2 : BitVec 2) (s3 : BitVec 3) (v0 : BitVec 15) (s : State) : Host.Outcome State Fault Refusal :=
  .next (unitCL 4 false
    ⟨.user, v0 == 0 && k2 != 0, true, fun k s =>
      if 3 < s3.toNat then raise s .scopeIllegal 0 else fall (fenceCaches s k k2 s3.toNat)⟩
    ⟨false, true, v0 == 0 && k2 != 0, true, 2, fun _ s =>
      if 1 < s3.toNat then raise s .scopeIllegal 0 else fall s⟩ s)

end Sys2Proof.Machine
end

