-- ==== Sys2Proof/Machine/Barrier.lean ====
section
/-! DEFINITION. Barriers: the word, its steps and completion, waits and wake entries, and the straggler record (R357 to
R378). -/

namespace Sys2Proof.Machine

/-! ### Where a barrier lies (R359) -/

/-- A barrier that an operand names: its space, the isle of the operand, the address without its low bits, the memory key
of a COH barrier, the acting agent, and the loaded context. -/
structure BarAt where
  spm : Bool
  isle : Nat
  addr : Nat
  key : Nat
  agent : Agent
  ctx : Nat
  deriving DecidableEq, Repr

/-- The address checks of R359 and R195 for an operand `a` of isle `k`; `cell` marks class L. A reading step needs R, any
other R and W. -/
def barLocate (s : State) (k c : Nat) (rq : Req) (cell : Bool) (a : Word64) (acc : Access) :
    Except (Cause × Word64) (BarAt × State) :=
  let addr := a.toNat / 16 * 16
  let v := BitVec.ofNat 64 addr
  if bits a 3 1 ≠ 0 ∨ (cell ∧ bit a 0) then .error (.reservedField, a)
  else if bit a 0 then
    if (kindOf s rq v).any (· != 0) then .error (.atomicKind, v)
    else match translate s rq v acc with
    | .error e => .error e
    | .ok (l, s1) =>
      match readFault s1 l.key 16 with
        | some e => .error (e, v)
        | none => .ok (⟨false, k, addr, l.key, rq.agent, c⟩, s1)
  else
    let i := s.isle k
    if !i.spmOk c addr 16 || i.overlaps addr 16 then .error (.spmBounds, v)
    else if i.spmUe.any (fun u => decide (addr ≤ u) && decide (u < addr + 16)) then .error (.memUe, v)
    else .ok (⟨true, k, addr, 0, rq.agent, c⟩, s)

/-- The barrier word as it stands. -/
def barPeek (s : State) (b : BarAt) : Nat :=
  numOf (if b.spm then (s.isle b.isle).spmRead b.addr 16 else Memory.readN s.mem b.key 16)

/-- A reading step: one access at the bank, or a COH load at the home, under the miss branch of R207 (R209, R360, log entry
83). -/
def barRead (s : State) (b : BarAt) : Nat × State :=
  if b.spm then (barPeek s b, s)
  else
    let (l, s1) := cohMiss s b.agent b.key 16
    (numOf l, s1)

/-- A writing step: one access at the bank, or an atomic on the line under R209. -/
def barWrite (s : State) (b : BarAt) (w : Nat) : State :=
  if b.spm then s.updIsle b.isle (fun i => i.spmWrite b.addr (bytesOf w 16))
  else cohStore s b.agent b.key (bytesOf w 16)

/-- Home time: cyc of the isle's die, or of the line's home die (R359). -/
def homeTime (s : State) (b : BarAt) : Nat := (s.die (if b.spm then isleDie b.isle else b.key / 2 ^ 40)).cyc.toNat

/-! ### The word (R357, R358) -/

/-- PHASE. -/
def bPhase (w : Nat) : Nat := fieldOf w 3 0
/-- PEND. -/
def bPend (w : Nat) : Nat := fieldOf w 23 4
/-- SECT. -/
def bSect (w : Nat) : Nat := fieldOf w 47 24
/-- EXPECT. -/
def bExpect (w : Nat) : Nat := fieldOf w 67 48
/-- EARLY. -/
def bEarly (w : Nat) : Nat := fieldOf w 87 68
/-- SRIX. -/
def bSrix (w : Nat) : Nat := fieldOf w 95 88
/-- ERR. -/
def bErr (w : Nat) : Bool := fieldOf w 112 112 == 1
/-- SR. -/
def bSr (w : Nat) : Bool := fieldOf w 113 113 == 1
/-- SCOPE. -/
def bScope (w : Nat) : Nat := fieldOf w 121 120

/-- A pair of MEM and SCOPE that R358 allows. -/
def scopeOk (mem scope : Nat) : Bool := if mem = 0 then scope == 0 else scope != 0

/-- The barrier is valid for an operand of its space (R358, R359). -/
def barValid (w : Nat) (spm : Bool) : Bool :=
  fieldOf w 127 123 == 0 && fieldOf w 119 114 == 0 && bExpect w != 0 && decide (bEarly w ≤ bExpect w) &&
    scopeOk (fieldOf w 122 122) (bScope w) && (fieldOf w 122 122 == 0) == spm

/-! ### The straggler record (R368 to R372) -/

/-- The address of record `i` in context 0. -/
def srAddr (s : State) (i : Nat) : Nat := bits s.mgmt.srtab 63 18 * 2 ^ 18 + 1024 * i

/-- Word `n` of a record. -/
def srWord (r : List Nat) (n : Nat) : Nat := r.getD n 0

/-- NMEM. -/
def srMembers (r : List Nat) : Nat := fieldOf (srWord r 0) 13 8

/-- A record's reserved bits are zero (R369). -/
def srClean (r : List Nat) : Bool :=
  let w := srWord r 0
  fieldOf w 39 35 == 0 && fieldOf w 31 24 == 0 && fieldOf w 15 14 == 0 && fieldOf w 7 1 == 0 &&
    fieldOf (srWord r 1) 63 50 == 0 && fieldOf (srWord r 2) 63 32 == 0 &&
    (List.range 5).all (fun i => srWord r (3 + i) == 0) &&
    (List.range 32).all (fun m =>
      if m < srMembers r then fieldOf (srWord r (8 + 2 * m)) 63 51 == 0 && fieldOf (srWord r (9 + 2 * m)) 63 9 == 0
      else srWord r (8 + 2 * m) == 0 && srWord r (9 + 2 * m) == 0) &&
    (r.drop 72).all (· == 0)

/-- A request for a straggler record: accesses at the home through context 0's translation (R369). -/
def recordAt (s : State) (g : Agent) : Req := { tableReq s g with home := true }

/-- Record `i` as a barrier of context `c` uses it, where it is usable: it can be read and written (R369). -/
def srLoad (s : State) (g : Agent) (i c : Nat) : Option (List Nat × State) :=
  if bit s.mgmt.srtab 0 then
    match (translate s (recordAt s g) (BitVec.ofNat 64 (srAddr s i)) .atomic).bind (fun r =>
      readVa r.2 (recordAt r.2 g) (srAddr s i) 1024 (pieces 1024)) with
    | .error _ => none
    | .ok (l, s1) =>
      let r := (List.range 128).map (fun n => numOf ((l.drop (8 * n)).take 8))
      let w := srWord r 0
      if w % 2 = 1 ∧ fieldOf w 23 16 = c ∧ 1 ≤ srMembers r ∧ srMembers r ≤ 32 ∧ fieldOf w 47 40 ≠ 0 ∧
        fieldOf w 34 32 ≠ 0 ∧ srClean r then some (r, s1) else none
  else none

/-- A word of a record written at the home. -/
def srPutWord (s : State) (g : Agent) (i n w : Nat) : State :=
  match writeVa s (recordAt s g) (srAddr s i + 8 * n) (bytesOf w 8) 1 with
  | .ok s1 => s1
  | .error _ => s

/-- Record `i`, which reads `old`, becomes `new`: the words that change are written. -/
def srStore (s : State) (g : Agent) (i : Nat) (old new : List Nat) : State :=
  (List.range 128).foldl (fun s n => if srWord new n = srWord old n then s else srPutWord s g i n (srWord new n)) s

/-- A word of a record replaced. -/
def srPut (r : List Nat) (n w : Nat) : List Nat := setAt r n w

/-- A TASK queue with STEAL = 1 (R324, R372). -/
def stealQueue (ctl : Nat) : Bool := ctl / 2 ^ 63 % 2 == 1 && fieldOf ctl 14 13 == 1 && fieldOf ctl 15 15 == 1

/-- close m: an OPEN queue returns to ON (R324, R372). -/
def closeMember (s : State) (c q : Nat) : State := if qState (qCtl s c q) = 2 then setQState s c q 1 else s

/-- open m: the queue is a TASK queue with STEAL = 1 in state ON (R372). -/
def mayOpen (s : State) (c q : Nat) : Bool :=
  let ctl := qCtl s c q
  stealQueue ctl && qState ctl == 1

/-- The steps of record `ix` are performed in order (R372) up to the first opening that has to wait for the owner die's
caches. -/
def settleOpens (ix : Nat) : (fuel : Nat) → State → State
  | 0, s => s
  | n + 1, s =>
    match s.opens.find? (fun o => o.ix == ix) with
    | none => s
    | some o =>
      let s1 := { s with opens := s.opens.erase o }
      if o.opens then (if mayOpen s o.ctx o.queue then s else settleOpens ix n s1)
      else settleOpens ix n (closeMember s1 o.ctx o.queue)

/-- The queue of a member, where QV is set. -/
def memberQueue (r : List Nat) (m : Nat) : Option Nat :=
  let w := srWord r (9 + 2 * m)
  if fieldOf w 8 8 = 1 then some (fieldOf w 7 0) else none

/-- The lag step of one member at a completion (R371): its word and whether it opens or closes. -/
def lagStep (w0 w : Nat) (tc first : Nat) : Nat × Bool × Bool :=
  let t := fieldOf w0 63 48
  let p := fieldOf w0 47 40
  let k := fieldOf w0 34 32
  let w1 := if fieldOf w 49 49 = 0 then withField w 23 0 (min ((tc + 2 ^ 48 - first) % 2 ^ 48) (2 ^ 24 - 1)) else w
  let sl := min (fieldOf w1 23 0 / 256) 65535
  let ewl := (fieldOf w1 39 24 * (2 ^ k - 1) + sl) / 2 ^ k
  let w2 := withField w1 39 24 ewl
  let lagging := fieldOf w2 48 48 == 1
  let n := if (if lagging then decide (2 * ewl < t) else decide (t < ewl)) then min (fieldOf w2 47 40 + 1) 255 else 0
  if p ≤ n then (withField (withField w2 47 40 0) 48 48 (b2n (!lagging)), !lagging, lagging)
  else (withField w2 47 40 n, false, false)

/-- The lag steps of members `m` upward (R371): the record and the members that open or close. -/
def lagSteps (tc first : Nat) : (n m : Nat) → (r : List Nat) → (acts : List (Nat × Bool)) → List Nat × List (Nat × Bool)
  | 0, _, r, acts => (r, acts)
  | n + 1, m, r, acts =>
    let (w, o, cl) := lagStep (srWord r 0) (srWord r (8 + 2 * m)) tc first
    lagSteps tc first n (m + 1) (srPut r (8 + 2 * m) w) (if o ∨ cl then acts ++ [(m, o)] else acts)

/-- The arrivals of the next phase take effect in the record (R371). -/
def srTurn (r : List Nat) (tc : Nat) : List Nat :=
  let n := srMembers r
  let early := (List.range n).any (fun m => fieldOf (srWord r (8 + 2 * m)) 50 50 == 1)
  let r1 := (List.range n).foldl (fun r m =>
    let w := srWord r (8 + 2 * m)
    let e := fieldOf w 50 50
    let w1 := withField (withField w 49 49 e) 50 50 0
    srPut r (8 + 2 * m) (if e = 1 then withField w1 23 0 0 else w1)) r
  let w1 := withField (srWord r1 1) 48 48 (b2n early)
  let r2 := srPut r1 1 (if early then withField w1 47 0 tc else w1)
  srPut r2 2 (((List.range n).map (fun m => fieldOf (srWord r2 (8 + 2 * m)) 48 48 * 2 ^ m)).foldl (· + ·) 0)

/-- The record update of one completion of phase `ph` at home time `tc`, with its open and close steps in increasing m; nothing
where the record is not usable (R371, R372). -/
def stragglerUpdate (s : State) (g : Agent) (ix c tc ph : Nat) : State :=
  match srLoad s g ix c with
  | none => s
  | some (r, s1) =>
    let w1 := srWord r 1
    let (r1, acts) := if fieldOf w1 49 49 = 1 then (srPut r 1 (withField w1 49 49 0), [])
      else lagSteps (tc % 2 ^ 48) (fieldOf w1 47 0) (srMembers r) 0 r []
    let s2 := srStore s1 g ix r (srTurn r1 (tc % 2 ^ 48))
    let steps := acts.filterMap (fun e => (memberQueue r e.1).map (fun q => (⟨ix, c, q, e.2, ph⟩ : Opening)))
    settleOpens ix (s.opens.length + steps.length) { s2 with opens := s2.opens ++ steps }

/-- STRAGGLER_OPEN: the PKG release of the owner die's caches is complete, and the queue enters OPEN (R324, R372). -/
def openMember (s : State) (c q : Nat) : State :=
  if mayOpen s c q then
    setQState ((dieIsles (fieldOf (qCtl s c q) 25 24)).foldl writeBackAll s) c q 2
  else s

/-- SKIP set in every record of a set of contexts (R369). -/
def skipRecords (s : State) (mine : Nat → Bool) : State :=
  if bit s.mgmt.srtab 0 then
    (List.range 256).foldl (fun s i =>
      match readVa s (tableReq s .sched) (srAddr s i) 16 2 with
      | .error _ => s
      | .ok (l, s1) =>
        let w := numOf (l.take 8)
        if w % 2 = 1 ∧ mine (fieldOf w 23 16) then
          tableWrite s1 .sched (srAddr s i + 8) (bytesOf (withField (numOf (l.drop 8)) 49 49 1) 8)
        else s) s
  else s

/-! ### Completion and waking (R362, R364, R366) -/

/-- complete(t) on the word: the word after, and how many phases completed. -/
def completeWord (t : Nat) : (fuel : Nat) → (w : Nat) → Nat × Nat
  | 0, w => (w, 0)
  | n + 1, w =>
    let w1 := withField (withField (withField (withField w 3 0 (bPhase w + 1)) 23 4 (bExpect w - bEarly w)) 87 68 0)
      111 96 (t / 1024)
    if bPend w1 = 0 ∧ bSect w1 = 0 then
      let (w2, k) := completeWord t n w1
      (w2, k + 1)
    else (w1, 1)

/-- The update of the record that a barrier names for the completion of phase `ph` is not over yet: no wait of that phase passes
before it (R371, R372). -/
def opening (s : State) (w ph : Nat) (low : Bool) : Bool :=
  bSr w && s.opens.any (fun o => o.ix == bSrix w && (if low then o.phase % 4 == ph % 4 else o.phase == ph))

/-- A wait for phase `ph` passes (R364). -/
def waitPasses (w ph : Nat) (low : Bool) : Bool :=
  bErr w || (if low then bPhase w % 4 != ph % 4 else bPhase w != ph)

/-- The result word of a wait (R376). -/
def waitResult (w : Nat) (passed armed full : Bool) : Nat :=
  bPhase w + 16 * b2n (bErr w) + 32 * b2n passed + 64 * b2n armed + 128 * b2n full

/-- The wake token of an entry (R366). -/
def wakeToken (e : Wake) (w : Nat) (passed : Bool) : Token :=
  ⟨mkHdr kDATA 1 1 (bPhase w) 0 e.dest e.ctx false false false,
    Lanes.ofList [BitVec.ofNat 32 (waitResult w passed false false), BitVec.ofNat 32 (e.addr % 2 ^ 25)]⟩

/-- The word of an entry's barrier. -/
def wakeWord (s : State) (k : Nat) (e : Wake) : Nat := numOf ((s.isle k).spmRead e.addr 16)

/-- The entries of isle `k` that satisfy `f` are freed and send their wake tokens. -/
def fireWakes (s : State) (k : Nat) (f : Wake → Bool) (passed : Bool) : State :=
  ((s.isle k).wakes.filter f).foldl (fun s1 e =>
      sendTokens s1 (.barrier k) (isleDie k) e.job [wakeToken e (wakeWord s k e) passed])
    (s.updIsle k (fun i => { i with wakes := i.wakes.filter (fun e => !f e) }))

/-- The wake table of isle `k` is tested (R366). -/
def testWakes (s : State) (k : Nat) : State :=
  fireWakes s k (fun e => waitPasses (wakeWord s k e) e.ph e.low && !opening s (wakeWord s k e) e.ph e.low) true

/-- A writing step ends: the word, the completions it caused with their record updates, and the wake table (R362, R366,
R371). -/
def barStep (s : State) (b : BarAt) (w : Nat) (may : Bool) : State × Nat × Nat :=
  let t := homeTime s b
  let r := if may && bPend w == 0 && bSect w == 0 then completeWord t 2 w else (w, 0)
  let s1 := barWrite s b r.1
  let s2 := (List.range r.2).foldl (fun s i =>
    if bSr w then stragglerUpdate s b.agent (bSrix w) b.ctx t ((bPhase w + i) % 16) else s) s1
  (if b.spm then testWakes s2 b.isle else s2, r.1, r.2)

/-! ### Arrivals (R361, R370) -/

/-- An arrival's operands. -/
structure Arrival where
  ph : Nat
  n : Nat
  drop : Bool
  mv : Bool
  m : Nat
  deriving DecidableEq, Repr

/-- The word after an arrival, or the cause it raises (R361). -/
def arriveWord (w : Nat) (a : Arrival) : Except Cause Nat :=
  let d := (a.ph + 16 - bPhase w) % 16
  if 2 ≤ d ∨ (d = 1 ∧ a.drop) then .error .barrierAhead
  else if a.drop ∧ bExpect w ≤ a.n then .error .barrierOverarrive
  else
    let w1 : Except Cause Nat :=
      if d = 0 then
        if bPend w < a.n then .error .barrierOverarrive else .ok (withField w 23 4 (bPend w - a.n))
      else if bExpect w < bEarly w + a.n then .error .barrierOverarrive
      else .ok (withField w 87 68 (bEarly w + a.n))
    w1.map (fun w1 => if a.drop then withField w1 67 48 (bExpect w - a.n) else w1)

/-- The record after the member part of an arrival, or the cause it raises (R370). -/
def memberPart (r : List Nat) (w : Nat) (a : Arrival) (t : Nat) : Except Cause (List Nat) :=
  let d := (a.ph + 16 - bPhase w) % 16
  let w1 := srWord r 1
  let first := fun (r : List Nat) =>
    if fieldOf w1 48 48 = 0 then srPut r 1 (withField (withField w1 47 0 t) 48 48 1) else r
  if a.mv then
    if srMembers r ≤ a.m then .error .descInvalid
    else
      let x := srWord r (8 + 2 * a.m)
      if d = 0 then
        if fieldOf x 49 49 = 1 then .error .barrierOverarrive
        else
          let r1 := first r
          let lag := min ((t % 2 ^ 48 + 2 ^ 48 - fieldOf (srWord r1 1) 47 0) % 2 ^ 48) (2 ^ 24 - 1)
          .ok (srPut r1 (8 + 2 * a.m) (withField (withField x 23 0 lag) 49 49 1))
      else if fieldOf x 50 50 = 1 then .error .barrierOverarrive
      else .ok (srPut r (8 + 2 * a.m) (withField x 50 50 1))
  else .ok (if d = 0 then first r else r)

/-- An arrival at a valid barrier (R361, R370, R373): the result word of R375 and the state. -/
def arrive (s : State) (b : BarAt) (a : Arrival) : Except Cause (Nat × State) := do
  let w := barPeek s b
  let touch := a.mv || a.ph == bPhase w
  let rc := if bSr w && touch then srLoad s b.agent (bSrix w) b.ctx else none
  (if bSr w ∧ a.mv ∧ rc.isNone then .error .descInvalid else .ok () : Except Cause Unit)
  let w1 ← arriveWord w a
  let s1 ← (match rc with
    | none => .ok s
    | some (r, s1) => (memberPart r w a (homeTime s b)).map (fun r1 => srStore s1 b.agent (bSrix w) r r1) : Except Cause State)
  let (s2, w2, k) := barStep s1 b w1 true
  return (bPhase w2 + 16 * b2n (bErr w2) + 32 * b2n (k != 0) + 64 * b2n (a.ph != bPhase w), s2)

/-! ### Steps of the copy engine (R243, R246, R363) -/

/-- One sector decrement (R246, R363). -/
def decrement (s : State) (b : BarAt) : Except Cause State :=
  let w := barPeek s b
  if ¬ barValid w b.spm then .error .descInvalid
  else if bSect w = 0 then .error .sectorUnderflow
  else .ok (barStep s b (withField w 47 24 (bSect w - 1)) true).1

/-- ERR set (R243): every waiter is released. -/
def setBarErr (s : State) (b : BarAt) : Except Cause State :=
  let w := barPeek s b
  if barValid w b.spm then .ok (barStep s b (withField w 112 112 1) false).1 else .error .descInvalid

/-! ### The instructions (R373 to R378) -/

/-- The request of a barrier operand of a runner. A cell makes none. -/
def barReq (s : State) (x : Runner) : Req :=
  match x with
  | .core k => coreReq s k .data
  | .cell t => coreReq s (tileIsle t) .data

/-- A runner is a cell. -/
def isCell : Runner → Bool
  | .core _ => false
  | .cell _ => true

/-- The barrier of an operand, located and valid (R358, R359, R373 checks 1 to 3). -/
def barOperand (s : State) (x : Runner) (a : Word64) (acc : Access) (valid : Bool) : Except Stop (BarAt × State) := do
  let (b, s1) ← (match barLocate s (runnerIsle x) (ctxOf s x) (barReq s x) (isCell x) a acc with
    | .ok r => .ok r
    | .error (c, v) => raise s c v : Except Stop (BarAt × State))
  check (!valid || barValid (barPeek s1 b) b.spm) s .descInvalid a
  return (b, s1)

/-- Reserved bits of an operand (R373 check 1). -/
def keepZero (s : State) (v : Word64) (ok : Bool) : Except Stop Unit := check ok s .reservedField v

/-- The reserved bits of a barrier address are checked before those of the words beside it (R373). -/
def barAddrBits (s : State) (x : Runner) (a : Word64) : Except Stop Unit :=
  keepZero s a (decide (bits a 3 1 = 0) && !(isCell x && bit a 0))

/-- The release part of an arrival in class C (R367). -/
def arriveFence (s : State) (x : Runner) (b : BarAt) : State :=
  match x with
  | .core k => fenceCaches s k 2 (bScope (barPeek s b))
  | .cell _ => s

/-- BINIT (R374). Openings that an earlier completion still has under way end closed, as if they had been performed before
it. -/
def binitBody (ra rb : BitVec 5) (s : State) (x : Runner) : Done := do
  let a ← sGet s x ra
  let v ← sGet s x rb
  barAddrBits s x a
  keepZero s v (decide (bits v 63 37 = 0) && !bit v 27 && decide (bits v 23 20 = 0) && decide (bits v 19 0 ≠ 0))
  let (b, s1) ← barOperand s x a .atomic false
  let mem := bits v 26 26
  let scope := bits v 25 24
  check (scopeOk mem scope && (mem == 0) == b.spm) s .descInvalid a
  let ix := bits v 35 28
  let rc := if bit v 36 then srLoad s1 b.agent ix b.ctx else none
  check (!bit v 36 || rc.isSome) s .descInvalid 0
  let e := bits v 19 0
  let w := e * 2 ^ 4 + e * 2 ^ 48 + ix * 2 ^ 88 + homeTime s1 b / 1024 % 2 ^ 16 * 2 ^ 96 + b2n (bit v 36) * 2 ^ 113 +
    scope * 2 ^ 120 + mem * 2 ^ 122
  let s2 := match rc with
    | none => s1
    | some (r, s2) =>
      let r1 := (List.range 32).foldl (fun r m => srPut r (8 + 2 * m) 0) (srPut (srPut r 1 0) 2 0)
      let s3 := srStore { s2 with opens := s2.opens.filter (fun o => o.ix != ix) } b.agent ix r r1
      (List.range (srMembers r)).foldl (fun s m => match memberQueue r m with
        | some q => closeMember s b.ctx q
        | none => s) s3
  fall (barStep s2 b w false).1

/-- BARR and BARRX; the count word is absent in BARR (R375). -/
def barrBody (rd ra rb : BitVec 5) (rc : Option (BitVec 5)) (s : State) (x : Runner) : Done := do
  let a ← sGet s x ra
  let v ← sGet s x rb
  let n ← (match rc with | some r => sGet s x r | none => .ok 1 : Except Stop Word64)
  barAddrBits s x a
  keepZero s v (decide (bits v 63 10 = 0))
  keepZero s n (decide (bits n 63 21 = 0) && decide (bits n 19 0 ≠ 0) && (!bit v 9 || decide (bits n 19 0 = 1)))
  let (b, s1) ← barOperand s x a .atomic true
  let s2 := arriveFence s1 x b
  match arrive s2 b ⟨bits v 3 0, bits n 19 0, bit n 20, bit v 9, bits v 8 4⟩ with
  | .error c => raise s c 0
  | .ok (r, s3) => fall (sSet s3 x rd (BitVec.ofNat 64 r))

/-- A wait of class C (R364, R365, R367): it passes with FENCE.ACQ, or holds. -/
def bwaitCore (rd : BitVec 5) (a v : Word64) (low : Bool) (k : Nat) (s : State) : Done := do
  barAddrBits s (.core k) a
  keepZero s v (decide (bits v 63 4 = 0))
  let (b, s1) ← barOperand s (.core k) a .load true
  let (w, s2) := barRead s1 b
  if waitPasses w (bits v 3 0) low && !opening s2 w (bits v 3 0) low then
    fall (gSet (fenceCaches s2 k 1 (bScope w)) k rd (BitVec.ofNat 64 (waitResult w true false false)))
  else .error (.wait s2 (.barrier rd a v low))

/-- A wait of class L never waits: it passes, or arms a wake entry (R366). -/
def bwaitCell (rd ra rb rc : BitVec 5) (low : Bool) (t : Nat) (s : State) : Done := do
  let a ← sGetL s t ra
  let v ← sGetL s t rb
  let c ← sGetL s t rc
  let k := tileIsle t
  barAddrBits s (.cell t) a
  keepZero s v (decide (bits v 63 4 = 0))
  keepZero s c (decide (bits c 63 20 = 0))
  let (b, s1) ← barOperand s (.cell t) a .load true
  let w := barPeek s1 b
  let job := tileJob s t
  check (!bit c 19 || destOk (s.findJob (tileCtx s t) job) (bits c 18 0)) s .routeInvalid 0
  if waitPasses w (bits v 3 0) low && !opening s1 w (bits v 3 0) low then
    fall (sSetL s1 t rd (BitVec.ofNat 64 (waitResult w true false false)))
  else if bit c 19 then
    if (s1.isle k).wakes.length < 16 then
      let e : Wake := ⟨b.addr, bits v 3 0, low, bits c 18 0, tileCtx s t, some job⟩
      fall (sSetL (s1.updIsle k (fun i => { i with wakes := i.wakes ++ [e] })) t rd
        (BitVec.ofNat 64 (waitResult w false true false)))
    else fall (sSetL s1 t rd (BitVec.ofNat 64 (waitResult w false false true)))
  else fall (sSetL s1 t rd (BitVec.ofNat 64 (waitResult w false false false)))

/-- BTEST (R377). -/
def btestBody (rd ra rb : BitVec 5) (s : State) (x : Runner) : Done := do
  let a ← sGet s x ra
  let v ← sGet s x rb
  barAddrBits s x a
  keepZero s v (decide (bits v 63 1 = 0))
  let (b, s1) ← barOperand s x a .load true
  let (w, s2) := barRead s1 b
  fall (sSet s2 x rd (BitVec.ofNat 64 (if bit v 0 then w / 2 ^ 64 else w)))

/-- BSEC (R378). -/
def bsecBody (ra rb : BitVec 5) (s : State) (x : Runner) : Done := do
  let a ← sGet s x ra
  let v ← sGet s x rb
  barAddrBits s x a
  keepZero s v (decide (bits v 63 24 = 0))
  let (b, s1) ← barOperand s x a .atomic true
  let w := barPeek s1 b
  check (decide (bSect w + v.toNat < 2 ^ 24)) s .barrierOverarrive 0
  fall (barStep s1 b (withField w 47 24 (bSect w + v.toNat)) false).1

/-- The frame of a barrier instruction of both classes: `srcs` says that its class L source fields are legal. -/
def barUnit (rsv srcs : Bool) (cost : Nat) (f : State → Runner → Done) (s : State) : State :=
  unitCL 4 false ⟨.user, rsv, true, fun k s => f s (.core k)⟩ ⟨false, true, rsv && srcs, true, cost, fun t s => f s (.cell t)⟩ s

/-! ### Meanings -/

/-- BINIT (R374). -/
def execBinit (a : BitVec 5) (b : BitVec 5) (v0 : BitVec 5) (v1 : BitVec 5) (s : State) : Host.Outcome State Fault Refusal :=
  .next (barUnit (v0 == 0 && v1 == 0) (srcL a && srcL b) 16 (binitBody a b) s)

/-- BARR (R361, R375). -/
def execBarr (d : BitVec 5) (a : BitVec 5) (b : BitVec 5) (v0 : BitVec 5) (s : State) : Host.Outcome State Fault Refusal :=
  .next (barUnit (v0 == 0) (dstL d && srcL a && srcL b) 16 (barrBody d a b none) s)

/-- BARRX (R361, R375). -/
def execBarrx (d : BitVec 5) (a : BitVec 5) (b : BitVec 5) (c : BitVec 5) (s : State) : Host.Outcome State Fault Refusal :=
  .next (barUnit true (dstL d && srcL a && srcL b && srcL c) 16 (barrBody d a b (some c)) s)

/-- BWAIT compares the whole phase (R364, R376). -/
def execBwait (d : BitVec 5) (a : BitVec 5) (b : BitVec 5) (c : BitVec 5) (s : State) : Host.Outcome State Fault Refusal :=
  .next (unitCL 4 false ⟨.user, c == 0, true, fun k s => bwaitCore d (gGet s k a) (gGet s k b) false k s⟩
    ⟨false, true, dstL d && srcL a && srcL b && srcL c, true, 16, bwaitCell d a b c false⟩ s)

/-- BWAITP compares the low two bits of the phase (R364, R376). -/
def execBwaitp (d : BitVec 5) (a : BitVec 5) (b : BitVec 5) (c : BitVec 5) (s : State) : Host.Outcome State Fault Refusal :=
  .next (unitCL 4 false ⟨.user, c == 0, true, fun k s => bwaitCore d (gGet s k a) (gGet s k b) true k s⟩
    ⟨false, true, dstL d && srcL a && srcL b && srcL c, true, 16, bwaitCell d a b c true⟩ s)

/-- BTEST (R377). -/
def execBtest (d : BitVec 5) (a : BitVec 5) (b : BitVec 5) (v0 : BitVec 5) (s : State) : Host.Outcome State Fault Refusal :=
  .next (barUnit (v0 == 0) (dstL d && srcL a && srcL b) 12 (btestBody d a b) s)

/-- BSEC (R378). -/
def execBsec (a : BitVec 5) (b : BitVec 5) (v0 : BitVec 5) (v1 : BitVec 5) (s : State) : Host.Outcome State Fault Refusal :=
  .next (barUnit (v0 == 0 && v1 == 0) (srcL a && srcL b) 12 (bsecBody a b) s)

/-- STRAGGLER_OPEN: opening `n` of those under way is done, if it is the first of its record; the record's next steps follow, and
what waits for it may pass (R371, R372). -/
def execStragglerOpen (n : Nat) (s : State) : Host.Outcome State Fault Refusal :=
  .next (match s.opens[n]? with
    | none => s
    | some o =>
      if s.opens.find? (fun x => x.ix == o.ix) = some o then
        let s1 := openMember { s with opens := s.opens.erase o } o.ctx o.queue
        let s2 := settleOpens o.ix s1.opens.length s1
        (s2.isles.map (·.1)).foldl testWakes s2
      else s)

end Sys2Proof.Machine
end

