-- ==== Sys2Proof/Machine/Oper.lean ====
section
/-! DEFINITION. What the twelve stream operators share (R286 to R291): slots and registers, input queues, the routes of
an output, faults, control tokens and MARK. -/

namespace Sys2Proof.Machine

/-! ### Slots (R286) -/

/-- Slot codes (R286). -/
def slotMATRIX : Nat := 0
/-- REDUCE. -/
def slotREDUCE : Nat := 1
/-- MAP. -/
def slotMAP : Nat := 2
/-- CONVERT. -/
def slotCONVERT : Nat := 3
/-- SELECT. -/
def slotSELECT : Nat := 4
/-- LUT. -/
def slotLUT : Nat := 5
/-- FILTER. -/
def slotFILTER : Nat := 6
/-- COUNT. -/
def slotCOUNT : Nat := 7
/-- MEMORY. -/
def slotMEMORY : Nat := 8
/-- MERGE. -/
def slotMERGE : Nat := 9
/-- SPLIT. -/
def slotSPLIT : Nat := 10
/-- DELAY. -/
def slotDELAY : Nat := 11

/-- The slot codes of a tile kind in the order of its parameter blocks (R286). -/
def kindSlots : TileKind → List Nat
  | .m => [0, 1, 2, 3]
  | .v => [2, 4, 5, 6, 7]
  | .s => [8, 9, 10, 11]

/-- The inputs of an operator kind (R286). -/
def slotInputs (c : Nat) : Nat := [1, 3, 2, 1, 1, 1, 2, 1, 2, 4, 1, 1].getD c 0

/-- The outputs of an operator kind (R286). -/
def slotOutputs (c : Nat) : Nat := [0, 2, 1, 1, 2, 1, 2, 1, 1, 1, 4, 1].getD c 0

/-- Register `n` of an operator. -/
def Op.reg (o : Op) (n : Nat) : Word32 := o.regs.get 0 n

/-- Register `n` of an operator replaced. -/
def Op.setReg (o : Op) (n : Nat) (v : Word32) : Op := { o with regs := o.regs.put n v }

/-- A counter register raised by `n`, saturating at 2^32 − 1. -/
def Op.count (o : Op) (r n : Nat) : Op := o.setReg r (BitVec.ofNat 32 (min ((o.reg r).toNat + n) (2 ^ 32 - 1)))

/-- A counter or position register raised by `n`; past 2^32 − 1 it holds a free value (log entry 14). -/
def Op.bump (o : Op) (r n : Nat) : Op :=
  let v := (o.reg r).toNat + n
  o.setReg r (if v < 2 ^ 32 then BitVec.ofNat 32 v else Config.counterPast v)

/-- The queue of input `i` (R288). -/
def Op.input (o : Op) (i : Nat) : List Token := o.inputs.get [] i

/-- The queue of input `i` replaced. -/
def Op.setInput (o : Op) (i : Nat) (l : List Token) : Op := { o with inputs := o.inputs.put i l }

/-- STAT as it reads (R287). -/
def opStat (v : Tile) (o : Op) : Word32 :=
  (o.reg 15 &&& 0xFFFF000C) ||| BitVec.ofNat 32 (2 * b2n v.frozen + b2n o.record.isSome)

/-- The operator may fire: it is in use on an installed, unfrozen tile of a die in service, with no fault record of its
own pending (R288, R390, R431). -/
def opLive (s : State) (t c : Nat) : Bool :=
  let v := s.tile t
  let o := s.op t c
  o.used && v.base.isSome && !v.frozen && o.record.isNone && s.present (tileDie t) && !(s.die (tileDie t)).fenced &&
    !s.inReset (tileIsle t)

/-- The token at the head of input `i`. -/
def opHead (s : State) (t c i : Nat) : Option Token := ((s.op t c).input i).head?

/-! ### Routes (R109, R288, R380) -/

/-- The valid route entries of an output, in table order. -/
def routesOf (v : Tile) (c out : Nat) : List Word32 :=
  ((List.range 32).map (fun n => v.routes.get 0 n)).filter (fun e =>
    bit e 31 && decide (bits e 28 25 = c) && decide (bits e 24 23 = out))

/-- The page column at physical offset `p`, where there is one. -/
def pageCol (skip w p : Nat) : Option Nat := (List.range w).find? (fun c => physCol skip c = p)

/-- The destination word of a route entry of tile `t`, checked under R63. -/
def routeDest (s : State) (t : Nat) (e : Word32) : Except (Cause × Word64) Nat :=
  match (s.tile t).base with
  | none => .error (.routeInvalid, 0)
  | some b =>
    let job := s.findJob b.ctx b.job
    let ent := (job.map (fun j => j.entry b.vreg)).getD Reloc.none
    let dest :=
      if bit e 30 then
        let d := (s.tile t).dests.get 0 (bits e 12 7)
        if bit d 31 then some (bits d 18 0) else none
      else
        let px := (physCol ent.skip b.px : Int) + sextInt (bits e 22 17) 6
        let y := (b.py : Int) + sextInt (bits e 16 13) 4
        if px < 0 ∨ y < 0 then none
        else match pageCol ent.skip (ent.wm1 + 1) px.toNat with
          | some x => some (b.vreg + 64 * x + 2 ^ 10 * y.toNat + 2 ^ 13 * bits e 12 7)
          | none => none
    match dest with
    | some d => if destOk job d then .ok d else .error (.routeInvalid, 0)
    | none => .error (.routeInvalid, 0)

/-- A token's header sent on: destination and context are those of the sender (R60). -/
def reHdr (h : Word64) (dest ctx : Nat) : Word64 := putBits (putBits h 26 8 dest) 7 0 ctx

/-- The steering entries of tile `t` that name operator `c` (R64). -/
def steerPorts (v : Tile) (c : Nat) : List Nat :=
  (List.range 64).filter (fun p => bits (v.steer.get 0 p) 15 14 = 2 && bits (v.steer.get 0 p) 13 10 == c)

/-- A token leaves on an output, along every route in table order; DATA and ERR are counted for R290, and an EOS frees
the buffers of the operator's edge (R186). -/
def emit (s : State) (t c out : Nat) (tok : Token) : Except (Cause × Word64) State := do
  let ds ← (routesOf (s.tile t) c out).mapM (routeDest s t)
  let ctx := tileCtx s t
  let s1 := sendTokens s (.op t c out) (tileDie t) (some (tileJob s t))
    (ds.map (fun d => { tok with hdr := reHdr tok.hdr d ctx }))
  let k := hKind tok.hdr
  let s2 := if k = kDATA ∨ k = kERR then
      s1.updOp t c (fun o => { o with sent := o.sent.put out (o.sent.get 0 out + 1) })
    else s1
  match (s.tile t).base with
  | some b =>
    return (if k = kEOS then markEos s2 ctx b.vreg b.px b.py (steerPorts (s.tile t) c) else s2)
  | none => return s2

/-- Tokens leave on one output in order. -/
def emitAll (s : State) (t c out : Nat) (l : List Token) : Except (Cause × Word64) State :=
  l.foldlM (fun s tok => emit s t c out tok) s

/-- A token leaves on several outputs. -/
def emitOn (s : State) (t c : Nat) (outs : List Nat) (tok : Token) : Except (Cause × Word64) State :=
  outs.foldlM (fun s out => emit s t c out tok) s

/-! ### Snapshots at an operator (R291) -/

/-- The low bits of STAT: SNAPID, SNAPABT, SNAPACT. -/
def putSnap (o : Op) (id : Nat) (act abt : Bool) : Op :=
  o.setReg 15 (BitVec.ofNat 32 (id % 2 ^ 16 * 2 ^ 16 + 8 * b2n abt + 4 * b2n act))

/-- SNAPACT. -/
def Op.snapAct (o : Op) : Bool := bit (o.reg 15) 2

/-- SNAPABT. -/
def Op.snapAbt (o : Op) : Bool := bit (o.reg 15) 3

/-- SNAPID. -/
def Op.snapId (o : Op) : Nat := bits (o.reg 15) 31 16

/-- The inputs of an operator that tokens are routed to (R291): those its mode uses; for MERGE and REDUCE, those among them
that a steering entry of the tile names (R64; log entry 69). -/
def routedInputs (s : State) (t c : Nat) : List Nat :=
  let o := s.op t c
  let r0 := o.reg 0
  let v := s.tile t
  let named := fun (i : Nat) => (steerPorts v c).any (fun p => bits (v.steer.get 0 p) 9 8 == i)
  if c = slotMERGE then (List.range 4).filter (fun i => bit r0 i && named i)
  else if c = slotMAP then (if bit r0 11 then [0, 1] else [0])
  else if c = slotFILTER then (if bit r0 3 then [0, 1] else [0])
  else if c = slotMEMORY then
    (if bits r0 3 0 = 3 ∨ (bits r0 3 0 = 4 ∧ bits r0 15 12 ≤ 8) then [0, 1] else [0])
  else if c = slotREDUCE then (List.range 3).filter named
  else [0]

/-- The snapshot in progress at an operator is aborted (R291): copying stops. `marks` still tells the later MARKs of the same
snapshot from a first one. -/
def abortSnap (o : Op) : Op := { (putSnap o o.snapId false true) with ckbuf := [] }

/-- A MARK with identifier `m` is not the first of its snapshot at a join (R291). -/
def Op.knows (o : Op) (m : Nat) : Bool := !o.marks.isEmpty && o.snapId == m

/-- A MARK with identifier `m` taken at input `i` (R291): a single-input operator records; a join begins, counts the
input, or aborts an older snapshot and begins anew. An aborted snapshot stays aborted while its other MARKs arrive. -/
def takeMark (s : State) (t c i m : Nat) : State :=
  let ins := routedInputs s t c
  if ins.length < 2 then s.updOp t c (fun o => putSnap o m false o.snapAbt)
  else s.updOp t c (fun o =>
    let fresh := !o.knows m
    let o1 := if o.snapAct && fresh then abortSnap o else o
    let seen := if fresh then [i] else insertOnce o1.marks i
    let done := ins.all seen.contains
    let o2 := putSnap o1 m ((fresh || o.snapAct) && !done) o1.snapAbt
    { o2 with marks := if done then [] else seen, ckbuf := if fresh then [] else o1.ckbuf })

/-- The first MARK of a snapshot at this operator is the one it forwards (R291). -/
def marksFirst (s : State) (t c m : Nat) : Bool :=
  (routedInputs s t c).length < 2 || !(s.op t c).knows m

/-- The head of input `i` is consumed; while a snapshot waits for this input's MARK it is copied as channel state, and
the 33rd copy aborts the snapshot here (R291). -/
def popIn (s : State) (t c i : Nat) : State :=
  s.updOp t c (fun o =>
    match o.input i with
    | [] => o
    | tok :: r =>
      let o1 := o.setInput i r
      if o.snapAct && !o.marks.contains i && hKind tok.hdr != kMARK then
        (if 32 ≤ o.ckbuf.length then abortSnap o1 else { o1 with ckbuf := o1.ckbuf ++ [tok] })
      else o1)

/-! ### Firing (R288) -/

/-- The inputs of `ins` that the firing consumes: both where two DATA tokens fire together, and otherwise one (R290). -/
def firedInputs (o : Op) (ins : List Nat) : List Nat :=
  let has := ins.filter (fun i => !(o.input i).isEmpty)
  match has.find? (fun i => (o.input i).head?.any (fun x => hKind x.hdr != kDATA)) with
  | some i => if 1 < has.length then [i] else has
  | none => has

/-- A fault record of an operator whose firing consumes inputs of `ins` (R288, R425): the tokens stay at their heads. -/
def opFault (s : State) (t c : Nat) (ins : List Nat) (cause : Cause) (v : Word64) : State :=
  let o := s.op t c
  let l := firedInputs o ins
  let tok := fun (n : Nat) => (l[n]?).bind (fun i => (o.input i).head?)
  let x := { tileRecord s t 2 cause v with
    slot := c, hdr := ((tok 0).map (·.hdr)).getD 0, in0 := ((tok 0).map (·.lanes)).getD Lanes.zero,
    in1 := ((tok 1).map (·.lanes)).getD Lanes.zero,
    pts := if c = slotMEMORY then o.pts else 0,
    pos := if c = slotMEMORY then (o.reg 1).toNat else 0, sector := if c = slotMEMORY then o.elem else 0 }
  let s1 := s.updOp t c (fun o => { o with record := some (nextRing s (tileIsle t)), rins := l })
  faultRecord s1 (tileIsle t) x

/-- A firing on the inputs `ins`: nothing where the operator cannot fire or an output that it writes lacks credit (R288), the
state it leaves, or a fault record. -/
def fireOp (s : State) (t c : Nat) (ins : List Nat) (f : State → Option (Except (Cause × Word64) State)) : State :=
  if opLive s t c then
    match f s with
    | none => s
    | some (.ok s1) => withCredit s s1
    | some (.error (cause, v)) => opFault s t c ins cause v
  else s

/-- A control token at input `i` of an operator whose outputs are `outs` (R290, R291): consumed and forwarded, an EOR with
its count replaced. -/
def ctlFire (s : State) (t c i : Nat) (outs : List Nat) (tok : Token) : Except (Cause × Word64) State :=
  let k := hKind tok.hdr
  let s1 := popIn s t c i
  if k = kEOR then
    outs.foldlM (fun s out => do
      let n := (s.op t c).sent.get 0 out
      let s2 ← emit s t c out { tok with lanes := Lanes.ofList [BitVec.ofNat 32 n] }
      return s2.updOp t c (fun o => { o with sent := o.sent.put out 0 })) s1
  else if k = kMARK then
    let m := bits tok.lanes.l0 15 0
    let s2 := takeMark s1 t c i m
    if marksFirst s t c m then emitOn s2 t c outs tok else .ok s2
  else emitOn s1 t c outs tok

/-- The type of a DATA token is the operator's, or FORMAT_UNSUPPORTED (R295 to R302). -/
def typeCheck (tok : Token) (ty : BitVec 4) : Except (Cause × Word64) Unit :=
  if hType tok.hdr = ty then .ok () else .error (.formatUnsupported, 0)

/-- The elements of a DATA token by its type, as patterns of the element's width (R20). -/
def elemsOf (tok : Token) : List Nat :=
  (List.range (hLen tok.hdr + 1)).map (fun i => (tok.lanes.get i).toNat % 2 ^ fmtWidth (hType tok.hdr))

/-- A lane of a token of a type as its receiver reads it: in the extended form; the lanes of a block token are whole words
(R20, R296). -/
def elemLane (ty : BitVec 4) (l : Word32) : Word32 := if fmtIsBlock ty then l else laneOf ty l.toNat

/-- The lanes of a token up to its LEN, as its receiver reads them (R20). -/
def tokenLanes (tok : Token) : List Word32 :=
  (List.range (hLen tok.hdr + 1)).map (fun i => elemLane (hType tok.hdr) (tok.lanes.get i))

/-- A DATA token of a type from element patterns, with FRAME, ITER and status (R20, R62). -/
def dataToken (ty : BitVec 4) (es : List Nat) (iter frame : Nat) (gap sat inx : Bool) : Token :=
  ⟨mkHdr kDATA ty (es.length - 1) iter frame 0 0 gap sat inx, Lanes.ofList (es.map (laneOf ty))⟩

/-- Elements in runs of at most eight. -/
def chunks8 {α : Type} (l : List α) : (fuel : Nat) → List (List α)
  | 0 => []
  | n + 1 => if l.isEmpty then [] else l.take 8 :: chunks8 (l.drop 8) n

/-- A conversion saturated (R62): an integer clamped, or a float number outside an integer format. -/
def convertSat (cs cd : BitVec 4) (x : Nat) (f : FlagSet) : Bool :=
  bit f 6 || (fmtIsFloat cs && fmtIsInt cd && bit f 4 && !(unpackF (floatFmt cs) x).isNan)

end Sys2Proof.Machine
end

