-- ==== Sys2Proof/Machine/Copy.lean ====
section
/-! DEFINITION. The copy engine of an isle: one-shot copies, templates on trigger queues, streams out, marks, and the waits
on copy tags (R234 to R249, R252, R254, R255). -/

namespace Sys2Proof.Machine

/-! ### Copy words (R234, R235) -/

/-- The reserved bits of a copy word are zero: `src`, `dst` and `cside` say which fields the instruction uses, `tok` that
TOK must be 1 (R234, R251, R252). -/
def wordOk (w : Word64) (src dst cside tok : Bool) : Bool :=
  decide (bits w 63 52 = 0) && decide (bits w 31 19 = 0) && decide (bits w 17 16 = 0) &&
    (bit w 51 || decide (bits w 50 32 = 0)) && (src || decide (bits w 15 8 = 0)) && (dst || decide (bits w 7 0 = 0)) &&
    (cside || !bit w 18) && (!tok || bit w 51)

/-- TDEST of a copy word. -/
def wordDest (w : Word64) : Nat := bits w 50 32

/-- TOK = 1 and TDEST fails R63 for the context (R237 step 4). -/
def routeBad (s : State) (c : Nat) (w : Word64) : Bool := bit w 51 && !destOk (declaringJob s c (wordDest w % 64)) (wordDest w)

/-- A coordinate that a block format refuses (R235). -/
def coordBad (f : BitVec 4) (c : Word64) : Bool := fmtIsBlock f && decide (bits c 3 0 ≠ 0)

/-- The coordinates that apply to an operand: those of the scalar on its side, else zero (R236). -/
def sideOrigins (c : Word64) (mine : Bool) (rank : Nat) : List Int := origins (if mine then c else 0) rank

/-- The extents of a copy's box (R236). -/
def boxExtents (src dst : Desc) (cside : Bool) : List Nat := if cside then src.extents else dst.extents

/-! ### The checks of R237 -/

/-- The agreement of SRC, DST and the coordinate (R235, R236). -/
def pairFault (src dst : Desc) (c : Word64) : Option (Cause × Word64) :=
  if coordBad src.fmt c then some (.descInvalid, c)
  else if src.rank ≠ dst.rank then some (.descInvalid, 0)
  else if src.fmt ≠ dst.fmt then some (.formatUnsupported, 0)
  else none

/-- The SPM operands of a copy, source first (R237 step 5). -/
def spmFaults (s : State) (k c : Nat) (src dst : Desc) (coord : Word64) (cside : Bool) : Option (Cause × Word64) :=
  let ext := boxExtents src dst cside
  match spmOperand s k c src (sideOrigins coord (!cside) src.rank) ext 0 true with
  | some e => some e
  | none => spmOperand s k c dst (sideOrigins coord cside dst.rank) ext 0 false

/-- An optional cause raised precisely on a core. -/
def raiseSome (s : State) (x : Option (Cause × Word64)) : Except Stop Unit :=
  match x with
  | some (c, v) => raise s c v
  | none => .ok ()

/-- The barrier of an operand at acceptance: the address and the validity of the word (R237 step 6). -/
def acceptBarrier (s : State) (k c : Nat) (rq : Req) (a : Word64) : Except Stop State := do
  let (b, s1) ← liftCause s (barLocate s k c rq false a .atomic)
  let (w, s2) := barRead s1 b
  check (barValid w b.spm) s .descInvalid a
  return s2

/-- Steps 2 to 6 of R237 for a copy with both operands. -/
def copyChecks (k : Nat) (w coord : Word64) (bar : Option Word64) (s : State) : Except Stop (Desc × Desc × State) := do
  check (wordOk w true true true false) s .reservedField w
  let c := (s.isle k).ctx
  let rq := engReq s (.core k) .copy c
  let (src, s1) ← liftCause s (readDesc s rq (bits w 15 8) (fun _ => true))
  let (dst, s2) ← liftCause s (readDesc s1 rq (bits w 7 0) (fun _ => true))
  raiseSome s (pairFault src dst coord)
  check (!routeBad s c w) s .routeInvalid 0
  raiseSome s (spmFaults s2 k c src dst coord (bit w 18))
  match bar with
  | none => return (src, dst, s2)
  | some a =>
    let s3 ← acceptBarrier s2 k c rq a
    return (src, dst, s3)

/-! ### Moving a box (R236, R238, R242) -/

/-- The items of an operation. -/
def CopyOp.items (o : CopyOp) : List Xfer := copyItems o.src o.dst o.coord o.cside

/-- An item cut where its bytes pass from one sector to another. -/
def splitItem (d : Desc) (x : Xfer) : List Xfer :=
  let ks := itemSectors d x
  let m := (ks.takeWhile (fun k => k == ks.headD 0)).length
  if m = x.n then [x]
  else [{ x with n := m }, { x with n := x.n - m, src := x.src.map (· + (m : Int)), dst := x.dst + m }]

/-- The writes of sector `n` of an operation, in box order. -/
def CopyOp.sectorParts (o : CopyOp) (n : Nat) : List Xfer :=
  match (sectorList o.dst o.items)[n]? with
  | none => []
  | some k => (o.items.flatMap (splitItem o.dst)).filter (fun x => sectorKey (byteAt o.dst x.scale x.dst 0) == k)

/-- The number of sectors of an operation (R238). -/
def CopyOp.sectors (o : CopyOp) : Nat := (sectorList o.dst o.items).length

/-- Why an operation does not go on: a fault of R242, an error of R243, or a barrier of R246. -/
inductive CopyStop where
  | fault (c : Cause) (v : Word64) (o : CopyOp) (s : State)
  | ue (c : Cause) (v : Word64) (o : CopyOp) (s : State)
  | bar (c : Cause) (o : CopyOp) (s : State)

/-- A cause that R243 takes. -/
def isUe (c : Cause) : Bool := c == .memUe || c == .poisonConsumed

/-- The request of isle `k`'s copy engine for an operation (R189). -/
def opReq (s : State) (k : Nat) (o : CopyOp) : Req := engReq s (.engine k) .copy o.ctx

/-- Where byte `a` of global memory lies, by the translation of the moment. -/
def placeOf (s : State) (rq : Req) (a : Int) : Option Nat :=
  match translate s rq (word64 a) .load with
  | .ok (l, _) => if l.dev then none else some l.key
  | .error _ =>
    match translate s rq (word64 a) .store with
    | .ok (l, _) => if l.dev then none else some l.key
    | .error _ => none

/-- Where the bytes of items of an operand lie: scale or data, offset and length of each. -/
def bytePlaces (s : State) (rq : Req) (d : Desc) (l : List (Bool × Int × Nat)) : List Nat :=
  let as := l.flatMap (fun x => (List.range x.2.2).map (byteAt d x.1 x.2.1))
  if d.spm then as.map Int.toNat
  else
    let homes := (as.map (· / 64)).eraseDups.map (fun n => (n, placeOf s rq (64 * n)))
    as.filterMap (fun a => ((homes.find? (·.1 == a / 64)).bind (·.2)).map (· + (a % 64).toNat))

/-- Source and destination bytes of a copy overlap, so that the destination's values are unspecified (R236). -/
def CopyOp.overlaps (s : State) (k : Nat) (o : CopyOp) : Bool :=
  o.src.spm == o.dst.spm &&
    (let dst := bytePlaces s (opReq s k o) o.dst (o.items.map (fun x => (x.scale, x.dst, x.n)))
     (bytePlaces s (opReq s k o) o.src (o.items.filterMap (fun x => x.src.map (fun off => (x.scale, off, x.n))))).any dst.contains)

/-- The bytes of one part as the engine reads them; those outside SRC are zero (R236). -/
def partBytes (s : State) (k : Nat) (o : CopyOp) (x : Xfer) : Except (Cause × Word64) (List Byte × State) :=
  match x.src with
  | none => .ok (List.replicate x.n 0, s)
  | some off => itemRead s k (opReq s k o) o.src x.scale off x.n

/-- Some byte that the operation's context could have read (R13): that of a free address where its engine may read it, else
the source's own. -/
def someByte (s : State) (rq : Req) (va : Word64) (own : Byte) : Byte :=
  match readIn s rq va.toNat 1 with
  | .ok ([b], _) => b
  | _ => own

/-- One part moved (R236): the bytes read, or unspecified ones in a copy whose source and destination overlap (`ov`; log
entry 36). -/
def movePart (ov : Bool) (s : State) (k : Nat) (o : CopyOp) (x : Xfer) : Except (Cause × Word64) State :=
  match partBytes s k o x with
  | .error e => .error e
  | .ok (l, s1) =>
    if ov then
      itemWrite { s1 with free := s1.free + 1 } k (opReq s k o) o.dst x.scale x.dst
        (l.mapIdx (fun i b => someByte s (opReq s k o) (Config.overlapFrom s1.free i) b))
    else itemWrite s1 k (opReq s k o) o.dst x.scale x.dst l

/-- Parts moved in order; a fault says how many were done before it. -/
def moveParts (ov : Bool) (k : Nat) (o : CopyOp) :
    List Xfer → State → Nat → Except (Cause × Word64 × Nat × State) State
  | [], s, _ => .ok s
  | x :: r, s, n =>
    match movePart ov s k o x with
    | .error (c, v) => .error (c, v, n, s)
    | .ok s1 => moveParts ov k o r s1 (n + 1)

/-- The operation writes all 32 bytes of the sector at key `x`. -/
def CopyOp.fills (o : CopyOp) (x : Int) : Bool :=
  let bs := o.items.flatMap (fun y => (List.range y.n).map (byteAt o.dst y.scale y.dst))
  (List.range 32).all (fun (j : Nat) => bs.contains (32 * x + j))

/-- A whole aligned line of global memory that the sector just written completes, in one write with the sector before it
(R195): the marks of the line go. A LOC line loses them when it is written home. -/
def clearWhole (s : State) (k : Nat) (o : CopyOp) : State :=
  if o.dst.spm ∨ (s.poison.isEmpty ∧ s.memUe.isEmpty) then s
  else
    let ks := sectorList o.dst o.items
    match ks[o.sector]?, ks[o.sector - 1]? with
    | some x, some y =>
      if o.sector ≠ 0 ∧ x ≠ y ∧ x / 2 = y / 2 ∧ o.fills x ∧ o.fills y then
        match translate s (opReq s k o) (word64 (64 * (x / 2))) .store with
        | .ok (l, _) => if l.dev || l.kind == 1 then s else clearMarks s l.key 64
        | .error _ => s
      else s
    | _, _ => s

/-- The destination buffer has been written (R185). -/
def markWrote (s : State) (k : Nat) (o : CopyOp) : State :=
  if o.dst.spm then s.updIsle k (fun i => i.updBuffer o.dst.base (fun e => { e with wrote := true })) else s

/-- The barrier of an operation as the engine finds it, and one decrement (R246). -/
def opDecrement (s : State) (k : Nat) (o : CopyOp) (a : Word64) : Except CopyStop State :=
  match barLocate s k o.ctx (opReq s k o) false a .atomic with
  | .error (c, v) => .error (.fault c v o s)
  | .ok (b, s1) =>
    match decrement s1 b with
    | .error c => .error (.bar c o s1)
    | .ok s2 => .ok s2

/-- The writes of the operation's next sector, then its decrement where `dec` (R238, R246). -/
def sectorStep (s : State) (k : Nat) (o : CopyOp) (dec : Bool) : Except CopyStop (CopyOp × State) :=
  let parts := (o.sectorParts o.sector).drop o.pos
  if coordBad o.src.fmt o.coord then .error (.fault .descInvalid o.coord o s)
  else match moveParts (o.overlaps s k) k o parts s 0 with
    | .error (c, v, n, s1) =>
      if isUe c then .error (.ue c v o s)
      else .error (.fault c v { o with pos := o.pos + n } (if n = 0 then s1 else markWrote s1 k o))
    | .ok s0 =>
      let s1 := clearWhole s0 k o
      let o1 := { o with pos := o.pos + parts.length }
      let next : CopyOp := { o with pos := 0, sector := o.sector + 1 }
      match (if dec then o.barrier else none) with
      | none => .ok (next, markWrote s1 k o)
      | some a =>
        match opDecrement (markWrote s1 k o) k o1 a with
        | .error e => .error e
        | .ok s2 => .ok (next, s2)

/-- Sectors up to number `last`; `fuel` bounds them. -/
def runSectors (k last : Nat) : (fuel : Nat) → CopyOp → State → Except CopyStop (CopyOp × State)
  | 0, o, s => .ok (o, s)
  | n + 1, o, s =>
    if last ≤ o.sector then .ok (o, s)
    else match sectorStep s k o true with
      | .error e => .error e
      | .ok (o1, s1) => runSectors k last n o1 s1

/-! ### Completion (R239) -/

/-- The swizzle that an operation used on a buffer (R185). -/
def swzOf (src dst : Desc) (b : Nat) : Nat := if dst.spm ∧ dst.base = b then dst.swz.toNat else src.swz.toNat

/-- The buffer step of R185 for a list of buffers. -/
def bufferStep (s : State) (k : Nat) (src dst : Desc) (l : List Nat) : State :=
  l.foldl (fun s b => s.updIsle k (fun i => dropRef i b (swzOf src dst b) true)) s

/-- An operation leaves its engine. -/
def removeOp (s : State) (k : Nat) (o : CopyOp) : State :=
  s.updIsle k (fun i => { i with ops := i.ops.filter (fun x => x.id != o.id) })

/-- The operation of the same number is replaced. -/
def putOp (s : State) (k : Nat) (o : CopyOp) : State :=
  s.updIsle k (fun i => { i with ops := i.ops.map (fun x => if x.id = o.id then o else x) })

/-- Template `q` of an isle. -/
def Isle.template (i : Isle) (q : Nat) : Template := i.templates.get Template.reset q

/-- Template `q` of isle `k` changed by `f`. -/
def State.updTemplate (s : State) (k q : Nat) (f : Template → Template) : State :=
  s.updIsle k (fun i => { i with templates := i.templates.put q (f (i.template q)) })

/-- The completion token after its ORD token (R217, R239). -/
def completionTokens (c dest time lane0 sectors : Nat) : List Token :=
  [ordToken 0 0 dest c time,
   ⟨mkHdr kDATA 1 1 0 0 dest c false false false, Lanes.ofList [BitVec.ofNat 32 lane0, BitVec.ofNat 32 sectors]⟩]

/-- Tokens leave isle `k`'s copy engine. -/
def engineSend (s : State) (k : Nat) (l : List Token) : State := sendTokens s (.engine k) (isleDie k) none l

/-- The end of an operation whose writes are performed (R239): buffers, time, tag or last decrement, and the token of a
copy. Where that decrement is refused, the references are dropped already (R246). -/
def finishOp (s : State) (k : Nat) (o : CopyOp) : Except CopyStop State :=
  let s1 := bufferStep (removeOp s k o) k o.src o.dst o.bufs
  let last : Except CopyStop State := match o.barrier with
    | some a => if o.sectors = 0 then .ok s1 else
        match opDecrement s1 k { o with bufs := [] } a with
        | .error (.fault c v _ _) => .error (.fault c v o s)
        | r => r
    | none => .ok s1
  match last with
  | .error e => .error e
  | .ok s2 =>
    let t := (s2.isle k).engPts
    let s3 := match o.tag with
      | some g => endTag s2 k g t false
      | none => s2
    let n := match o.firing with
      | some q => ((s3.isle k).template q).count + 1
      | none => o.tag.getD 0
    let s4 := match o.firing with
      | some q => s3.updTemplate k q (fun e => { e with count := e.count + 1, busy := false })
      | none => s3
    .ok (if o.tok ∧ o.kind = .copy then engineSend s4 k (completionTokens o.ctx o.tdest t n o.sectors) else s4)

/-- Every write that remains, then the completion; the last sector's decrement follows the buffer step (R239). -/
def completeCopy (s : State) (k : Nat) (o : CopyOp) : Except CopyStop State :=
  let n := o.sectors
  match runSectors k (n - 1) n o s with
  | .error e => .error e
  | .ok (o1, s1) =>
    if o1.sector < n then
      match sectorStep s1 k o1 false with
      | .error e => .error e
      | .ok (_, s2) =>
        match finishOp s2 k { o1 with pos := (o1.sectorParts o1.sector).length } with
        | r => r
    else finishOp s1 k o1

/-! ### Stops (R242, R243, R246) -/

/-- The box index of the next element of a copy (R242). -/
def CopyOp.nextElem (o : CopyOp) : Nat := (((o.sectorParts o.sector)[o.pos]?).map (·.elem)).getD 0

/-- A fault record of a copy engine (R242, R425). -/
def copyRecord (s : State) (k : Nat) (o : CopyOp) (pos : Nat) (c : Cause) (v : Word64) : TrapRec :=
  { TrapRec.zero with
    job := o.job, ctx := o.ctx, agent := 3, code := causeCode c, tval := v, pts := (s.isle k).engPts,
    pos := pos, sector := o.sector, opid := o.id }

/-- The operation stops with a record until it is acted on (R242). -/
def freezeOp (s : State) (k : Nat) (o : CopyOp) (pos : Nat) (c : Cause) (v : Word64) : State :=
  let s1 := putOp s k { o with record := some (nextRing s k) }
  faultRecord s1 k (copyRecord s1 k o pos c v)

/-- A firing ends without completing: its template takes the next token. -/
def endFiring (s : State) (k : Nat) (o : CopyOp) : State :=
  match o.firing with
  | some q => s.updTemplate k q (fun e => { e with busy := false })
  | none => s

/-- An operation is cancelled alone (R244). -/
def cancelCopy (s : State) (k : Nat) (o : CopyOp) : State := endFiring (cancelOp s k o) k o

/-- A record after which the owning job is fenced (R243, R246). -/
def fenceCopy (s : State) (k : Nat) (o : CopyOp) (c : Cause) : State :=
  fenceJob (cancelCopy s k o) o.ctx o.job (causeCode c)

/-- A barrier that the engine finds invalid, or a decrement below zero (R246). -/
def barrierStop (s : State) (k : Nat) (o : CopyOp) (c : Cause) : State :=
  let v := if c = .descInvalid then BitVec.ofNat 64 ((o.barrier.getD 0).toNat / 16 * 16) else 0
  fenceCopy (writeRecord s k (copyRecord s k o o.nextElem c v)) k o c

/-- An uncorrectable error or poison at the source (R243): the record, the barrier's error flag, and the fence. -/
def ueStop (s : State) (k : Nat) (o : CopyOp) (pos : Nat) (c : Cause) (v : Word64) : State :=
  let s1 := writeRecord s k (copyRecord s k o pos c v)
  match o.barrier with
  | none => fenceCopy s1 k o c
  | some a =>
    match barLocate s1 k o.ctx (opReq s1 k o) false a .atomic with
    | .error _ => fenceCopy s1 k o c
    | .ok (b, s2) =>
      match setBarErr s2 b with
      | .ok s3 => fenceCopy s3 k o c
      | .error e => barrierStop s2 k o e

/-! ### When an operation may go on (R210, R241, R254) -/

/-- Isle `k`'s engines run: its die is in service and it is not held in reset (R431, R436). -/
def isleRuns (s : State) (k : Nat) : Bool := s.present (isleDie k) && !(s.die (isleDie k)).fenced && !s.inReset k

/-- The tokens of a stream out: per token the ITER of its row and the offsets of its elements, none outside SRC. -/
def streamGroups (o : CopyOp) : List (Nat × List (Option Int)) :=
  (boxIndices o.src.extents.tail).flatMap (fun row =>
    let js := (List.range (o.src.extents.headD 0)).map (fun (i : Nat) =>
      let x := addIdx (origins o.coord o.src.rank) ((i : Int) :: row)
      if inRange o.src x then some (dataOff o.src x) else none)
    (chunks8 js (o.src.extents.headD 0)).map (fun g => ((row.headD 0).toNat, g)))

/-- An operation makes a COH access (R210, R241). -/
def opCoh (s : State) (k : Nat) (o : CopyOp) : Bool :=
  (o.barrier.map (fun a => bit a 0)).getD false ||
    (match o.kind with
      | .mark => false
      | .streamOut => (streamGroups o).any (fun g => g.2.any (fun e =>
        match e with | some off => cohAt s (opReq s k o) o.src false off | none => false))
      | .copy => o.items.any (fun x =>
        (match x.src with | some off => cohAt s (opReq s k o) o.src x.scale off | none => false) ||
          cohAt s (opReq s k o) o.dst x.scale x.dst))

/-- An operation counts its sectors in a scratchpad barrier (R246, R359). -/
def opSpmBar (o : CopyOp) : Bool := (o.barrier.map (fun a => !bit a 0)).getD false

/-- An operation reaches scratchpad: its operands or its barrier (R254). -/
def opSpm (o : CopyOp) : Bool := o.kind != .mark && (o.src.spm || (o.kind == .copy && (o.dst.spm || opSpmBar o)))

/-- An operation writes scratchpad: a buffer or its barrier (R254). -/
def opSpmWrites (o : CopyOp) : Bool := o.kind == .copy && (o.dst.spm || opSpmBar o)

/-- Operation `o`, the `n`-th of isle `k`, may access memory: it is not frozen, no earlier operation or prefetch has a COH
access to make before one of its own (R210), and no earlier mark is open before a scratchpad access (R254). -/
def opMay (s : State) (k n : Nat) (o : CopyOp) : Bool :=
  let before := (s.isle k).ops.take n
  isleRuns s k && o.record.isNone && (!opCoh s k o || (before.all (fun e => !opCoh s k e) &&
      (s.isle k).prefetches.all (fun p => decide (o.id ≤ p.id) || !prefetchCoh s k p))) &&
    (!opSpm o || before.all (fun e => e.kind != .mark))

/-- Operation `n` of isle `k`, of a kind, that may go on. -/
def opReady (s : State) (k n : Nat) (kind : CopyKind) : Option CopyOp :=
  match (s.isle k).ops[n]? with
  | none => none
  | some o => if o.kind = kind ∧ opMay s k n o then some o else none

/-! ### Streams out (R252) -/

/-- The elements of a token as the engine reads them; a fault says how many were read before it. -/
def readElems (k : Nat) (o : CopyOp) : List (Option Int) → State → Nat → List Nat →
    Except (Cause × Word64 × Nat) (List Nat × State)
  | [], s, _, acc => .ok (acc, s)
  | none :: r, s, n, acc => readElems k o r s (n + 1) (acc ++ [0])
  | some off :: r, s, n, acc =>
    match itemRead s k (opReq s k o) o.src false off (fmtBytes o.src.fmt) with
    | .error (c, v) => .error (c, v, n)
    | .ok (l, s1) => readElems k o r s1 (n + 1) (acc ++ [numOf l])

/-- The tokens of a stream out from number `pos` on; a fault leaves those before it sent. -/
def sendGroups (k : Nat) : List (Nat × List (Option Int)) → CopyOp → State → Except (CopyStop × Nat) State
  | [], _, s => .ok s
  | (it, g) :: r, o, s =>
    match readElems k o g s 0 [] with
    | .error (c, v, n) => .error (if isUe c then .ue c v o s else .fault c v o s, n)
    | .ok (es, s1) =>
      let t := dataToken o.src.fmt es (it % 1024) 0 false false false
      sendGroups k r { o with pos := o.pos + 1 } (engineSend s1 k [{ t with hdr := reHdr t.hdr o.tdest o.ctx }])

/-- What is left of a stream out, then its EOS, then its tag (R239, R252). -/
def completeStream (s : State) (k : Nat) (o : CopyOp) : Except (CopyStop × Nat) State :=
  match sendGroups k ((streamGroups o).drop o.pos) o s with
  | .error e => .error e
  | .ok s1 =>
    let s2 := engineSend s1 k [ctlToken kEOS 0 0 o.tdest o.ctx 0 0]
    match finishOp s2 k o with
    | .ok s3 => .ok s3
    | .error e => .error (e, 0)

/-- The box index of element `n` of token `pos` of a stream out. -/
def streamElem (o : CopyOp) (n : Nat) : Nat :=
  (((streamGroups o).take o.pos).map (fun g => g.2.length)).foldl (· + ·) 0 + n

/-! ### Acceptance (R237 steps 7 and 8) -/

/-- The operations that count against the limit of eight. -/
def acceptedOps (i : Isle) : Nat := i.ops.countP (fun o => o.firing.isNone)

/-- An operation joins the engine: it takes its references and its tag becomes pending. -/
def enqueueOp (s : State) (k : Nat) (o : CopyOp) : State :=
  let s1 := { s with opIds := s.opIds + 1 }
  let s2 := o.bufs.foldl (fun s b => s.updIsle k (fun i => takeRef i b false)) s1
  let s3 := match o.tag with
    | some t => startTag s2 k t
    | none => s2
  s3.updIsle k (fun i => { i with ops := i.ops ++ [{ o with id := s.opIds }] })

/-- An operation is accepted; a copy or a stream out of an empty box completes at once (R237), where what it sends has credit
(R75). -/
def acceptOp (s : State) (k : Nat) (o : CopyOp) : State :=
  let s1 := enqueueOp s k o
  let o1 := { o with id := s.opIds }
  match o.kind with
  | .mark => s1
  | .copy =>
    if o.items.isEmpty then
      match finishOp s1 k o1 with
      | .ok s2 => withCredit s1 s2
      | .error _ => s1
    else s1
  | .streamOut =>
    if o.src.empty then
      match completeStream s1 k o1 with
      | .ok s2 => withCredit s1 s2
      | .error _ => s1
    else s1

/-- An operation of isle `k` for its loaded context. -/
def newOp (s : State) (k : Nat) (kind : CopyKind) (src dst : Desc) (w coord : Word64) (tag : Option Nat)
    (bar : Option Word64) : CopyOp :=
  let c := (s.isle k).ctx
  { id := 0, kind := kind, ctx := c, job := isleJob s c k, src := src, dst := dst, coord := coord, cside := bit w 18,
    tag := tag, barrier := bar, tok := bit w 51, tdest := wordDest w, pos := 0, sector := 0,
    bufs := operandBufs (if kind = .copy then [src, dst] else [src]), record := none, firing := none }

/-- A one-shot copy (R246). -/
def cpyBody (w coord : Word64) (tag : Option Nat) (bar : Option Word64) (k : Nat) (s : State) : Done := do
  check (tag.all (fun t => !tagPending s k t)) s .tagBusy (BitVec.ofNat 64 (tag.getD 0))
  let (src, dst, s1) ← copyChecks k w coord bar s
  if 8 ≤ acceptedOps (s1.isle k) then .error (.wait s .reissue)
  else fall (acceptOp s1 k (newOp s1 k .copy src dst w coord tag bar))

/-- CPY (R245, R246). -/
def execCpy (a : BitVec 5) (b : BitVec 5) (t : BitVec 8) (v0 : BitVec 5) (s : State) : Host.Outcome State Fault Refusal :=
  .next (unitC 4 false ⟨.user, v0 == 0 && decide (t.toNat < 64), true, fun k s =>
    cpyBody (gGet s k a) (gGet s k b) (some t.toNat) none k s⟩ s)

/-- CPYB (R245, R246). -/
def execCpyb (d : BitVec 5) (a : BitVec 5) (b : BitVec 5) (v0 : BitVec 8) (s : State) : Host.Outcome State Fault Refusal :=
  .next (unitC 4 false ⟨.user, v0 == 0, true, fun k s =>
    cpyBody (gGet s k a) (gGet s k b) none (some (gGet s k d)) k s⟩ s)

/-! ### Templates (R247 to R249) -/

/-- CTARM (R247). -/
def ctarmBody (d : BitVec 5) (w base : Word64) (q k : Nat) (s : State) : Done := do
  check (!((s.isle k).template q).armed) s .tagBusy (BitVec.ofNat 64 (0x100 + q))
  let bar := if d = 0 then none else some (gGet s k d)
  let (src, dst, s1) ← copyChecks k w base bar s
  let c := (s1.isle k).ctx
  let bufs := operandBufs [src, dst]
  let t : Template := ⟨true, w, base, src, dst, bar, bufs, c, isleJob s1 c k, 0, false, false⟩
  let s2 := bufs.foldl (fun s b => s.updIsle k (fun i => takeRef i b false)) s1
  fall (s2.updTemplate k q (fun _ => t))

/-- CTARM (R245, R247). -/
def execCtarm (d : BitVec 5) (a : BitVec 5) (b : BitVec 5) (q : BitVec 8) (s : State) : Host.Outcome State Fault Refusal :=
  .next (unitC 4 false ⟨.user, decide (q.toNat < 16), true, fun k s =>
    ctarmBody d (gGet s k a) (gGet s k b) q.toNat k s⟩ s)

/-- A template is disarmed: its references go (R249). -/
def disarm (s : State) (k q : Nat) : State :=
  let t := (s.isle k).template q
  (bufferStep s k t.src t.dst t.bufs).updTemplate k q (fun _ => Template.reset)

/-- CTDIS: firings stop, and it waits for one in progress (R249). -/
def ctdisBody (d : BitVec 5) (q k : Nat) (s : State) : Done :=
  let t := (s.isle k).template q
  if t.armed then
    if t.busy then .error (.wait (s.updTemplate k q (fun t => { t with stopped := true })) .reissue)
    else fall (gSet (disarm s k q) k d (BitVec.ofNat 64 t.count))
  else fall (gSet s k d 0)

/-- CTDIS (R245, R249). -/
def execCtdis (d : BitVec 5) (q : BitVec 8) (v0 : BitVec 10) (s : State) : Host.Outcome State Fault Refusal :=
  .next (unitC 4 false ⟨.user, v0 == 0 && decide (q.toNat < 16), true, ctdisBody d q.toNat⟩ s)

/-- The coordinate that a DATA token fires with (R248). -/
def firedCoord (base : Word64) (tok : Token) : Word64 :=
  let c := fun (i : Nat) =>
    let b := base.toNat / 2 ^ (16 * i)
    (if i ≤ hLen tok.hdr then b + (tok.lanes.get i).toNat else b) % 2 ^ 16
  BitVec.ofNat 64 (c 0 + c 1 * 2 ^ 16 + c 2 * 2 ^ 32 + c 3 * 2 ^ 48)

/-- A firing of template `q` (R248): a coordinate that breaks R235 stops it with a record. -/
def fireTemplate (s : State) (k q : Nat) (tok : Token) : State :=
  let t := (s.isle k).template q
  let o : CopyOp :=
    { newOp s k .copy t.src t.dst t.word (firedCoord t.base tok) none t.barrier with
      ctx := t.ctx, job := t.job, bufs := [], firing := some q }
  let s1 := s.updTemplate k q (fun t => { t with busy := true })
  if coordBad o.src.fmt o.coord then freezeOp (enqueueOp s1 k o) k { o with id := s1.opIds } 0 .descInvalid o.coord
  else acceptOp s1 k o

/-- A control token that template `q` forwards where it has a destination. -/
def templateForward (s : State) (k : Nat) (t : Template) (tok : Token) : State :=
  if bit t.word 51 then engineSend s k [{ tok with hdr := reHdr tok.hdr (wordDest t.word) t.ctx }] else s

/-- What template `q` does with a token (R248). -/
def templateTake (s : State) (k q : Nat) (tok : Token) : State :=
  let t := (s.isle k).template q
  let kd := hKind tok.hdr
  if kd = kDATA then fireTemplate s k q tok
  else if kd = kORD then s.mergePts (.engine k) (ordTime tok)
  else if kd = kEOS then
    templateForward (disarm s k q) k t (ctlToken kEOS 0 0 0 0 0 0)
  else if kd = kERR ∧ ¬ bit t.word 51 then orErrsum s t.ctx 8
  else templateForward s k t tok

/-- TRIGGER_TOKEN: the head of trigger queue `q` is taken, unless a firing is in progress, firings are stopped, or the page that
the template feeds is held (R248, R249, R390). -/
def execTriggerToken (k q : Nat) (s : State) : Host.Outcome State Fault Refusal :=
  .next (withCredit s (
    let i := s.isle k
    let t := i.template q
    match (i.hwq.get HwQueue.reset q).toks with
    | [] => s
    | tok :: r =>
      if q < 16 ∧ t.armed ∧ ¬ t.busy ∧ ¬ t.stopped ∧ isleRuns s k ∧ ingressOn s t.ctx (bit t.word 51) (wordDest t.word) then
        templateTake (s.updIsle k (fun i => { i with hwq := i.hwq.put q { i.hwq.get HwQueue.reset q with toks := r } })) k q tok
      else s))

/-! ### Steps of the engine -/

/-- SECTOR_DECREMENT: the next sector but the last is written and counted (R238, R246). -/
def execSectorDecrement (k n : Nat) (s : State) : Host.Outcome State Fault Refusal :=
  .next (match opReady s k n .copy with
    | none => s
    | some o =>
      if o.sector + 1 < o.sectors then
        match sectorStep s k o true with
        | .ok (o1, s1) => putOp s1 k o1
        | .error (.bar c o1 s1) => barrierStop s1 k o1 c
        | .error _ => s
      else s)

/-- COPY_COMPLETE: the writes that remain are performed and the operation completes (R239). -/
def execCopyComplete (k n : Nat) (s : State) : Host.Outcome State Fault Refusal :=
  .next (withCredit s (match opReady s k n .copy with
    | none => s
    | some o =>
      match completeCopy s k o with
      | .ok s1 => s1
      | .error (.bar c o1 s1) => barrierStop s1 k o1 c
      | .error _ => s))

/-- The outcome of all that remains of an operation, with the box index at which it stops. -/
def attemptOp (s : State) (k : Nat) (o : CopyOp) : Except (CopyStop × Nat) State :=
  match o.kind with
  | .mark => .ok s
  | .copy =>
    match completeCopy s k o with
    | .ok s1 => .ok s1
    | .error (.fault c v o1 s1) => .error (.fault c v o1 s1, o1.nextElem)
    | .error (.ue c v o1 s1) => .error (.ue c v o1 s1, o1.nextElem)
    | .error (.bar c o1 s1) => .error (.bar c o1 s1, o1.nextElem)
  | .streamOut =>
    match completeStream s k o with
    | .ok s1 => .ok s1
    | .error (.fault c v o1 s1, n) => .error (.fault c v o1 s1, streamElem o1 n)
    | .error (.ue c v o1 s1, n) => .error (.ue c v o1 s1, streamElem o1 n)
    | .error (.bar c o1 s1, n) => .error (.bar c o1 s1, streamElem o1 n)

/-- TRANSFER_FAULT: a fault of R242 is met; every write before it stands, and the operation stops. -/
def execTransferFault (k n : Nat) (s : State) : Host.Outcome State Fault Refusal :=
  .next (withCredit s (match (s.isle k).ops[n]? with
    | none => s
    | some o =>
      if opMay s k n o then
        match attemptOp s k o with
        | .error (.fault c v o1 s1, p) => freezeOp s1 k o1 p c v
        | _ => s
      else s))

/-- SOURCE_UE: an error of R243 is met; the sectors before it stand, and the owning job is fenced. -/
def execSourceUe (k n : Nat) (s : State) : Host.Outcome State Fault Refusal :=
  .next (withCredit s (match (s.isle k).ops[n]? with
    | none => s
    | some o =>
      if opMay s k n o then
        match attemptOp s k o with
        | .error (.ue c v o1 s1, p) => ueStop s1 k o1 p c v
        | _ => s
      else s))

/-- BUFFER_EDGE_REMOVE: entry `n` of the directory goes after its consumer's EOS, once OWNER = 0 and no reference remains
(R186). -/
def execBufferEdgeRemove (k n : Nat) (s : State) : Host.Outcome State Fault Refusal :=
  .next (match (s.isle k).dir[n]? with
    | none => s
    | some e =>
      if e.eos ∧ e.refs = 0 ∧ ¬ hdrEngine ((s.isle k).header e.base) then s.updIsle k (fun i => dropBuffer i e.base)
      else s)

/-! ### Streams out and marks (R252, R254) -/

/-- STRMO (R252). -/
def strmoBody (w coord : Word64) (tag k : Nat) (s : State) : Done := do
  check (!tagPending s k tag) s .tagBusy (BitVec.ofNat 64 tag)
  check (wordOk w true false false true) s .reservedField w
  let c := (s.isle k).ctx
  let (src, s1) ← liftCause s (readDesc s (engReq s (.core k) .copy c) (bits w 15 8) (fun f => !fmtIsBlock f))
  check (!routeBad s c w) s .routeInvalid 0
  raiseSome s (spmOperand s1 k c src (sideOrigins coord true src.rank) src.extents 0 true)
  if 8 ≤ acceptedOps (s1.isle k) then .error (.wait s .reissue)
  else fall (acceptOp s1 k (newOp s1 k .streamOut src Desc.none w coord (some tag) none))

/-- STRMO (R245, R252). -/
def execStrmo (a : BitVec 5) (b : BitVec 5) (t : BitVec 8) (v0 : BitVec 5) (s : State) : Host.Outcome State Fault Refusal :=
  .next (unitC 4 false ⟨.user, v0 == 0 && decide (t.toNat < 64), true, fun k s =>
    strmoBody (gGet s k a) (gGet s k b) t.toNat k s⟩ s)

/-- STRMB (R254). -/
def strmbBody (tag k : Nat) (s : State) : Done := do
  check (!tagPending s k tag) s .tagBusy (BitVec.ofNat 64 tag)
  if 8 ≤ acceptedOps (s.isle k) then .error (.wait s .reissue)
  else fall (acceptOp s k (newOp s k .mark Desc.none Desc.none 0 0 (some tag) none))

/-- STRMB (R245, R254). -/
def execStrmb (t : BitVec 8) (v0 : BitVec 15) (s : State) : Host.Outcome State Fault Refusal :=
  .next (unitC 4 false ⟨.user, v0 == 0 && decide (t.toNat < 64), true, strmbBody t.toNat⟩ s)

/-- STRMO_COMPLETE: the tokens that remain are sent, then the EOS, then the tag completes (R252). -/
def execStrmoComplete (k n : Nat) (s : State) : Host.Outcome State Fault Refusal :=
  .next (withCredit s (match opReady s k n .streamOut with
    | none => s
    | some o => match completeStream s k o with
      | .ok s1 => s1
      | .error _ => s))

/-- A stream binding into scratchpad, accepted by isle `k` before mark `o`, has not ended. -/
def bindingBefore (s : State) (k : Nat) (o : CopyOp) : Bool :=
  match (s.die (isleDie k)).port.binding with
  | some b => b.isle == k && b.buf.isSome && decide (b.seq < o.id)
  | none => false

/-- STRMB_COMPLETE: every scratchpad write of an operation accepted before the mark is performed, those of a binding at its
end (R253, R254). -/
def execStrmbComplete (k n : Nat) (s : State) : Host.Outcome State Fault Refusal :=
  .next (match opReady s k n .mark with
    | none => s
    | some o =>
      if ((s.isle k).ops.take n).all (fun e => !opSpmWrites e) && !bindingBefore s k o then
        match finishOp s k o with
        | .ok s1 => s1
        | .error _ => s
      else s)

/-! ### Waiting on tags (R255) -/

/-- The index of the lowest set bit, 64 for none. -/
def lowestBit (m : Word64) : Nat := ((List.range 64).find? (fun i => bit m i)).getD 64

/-- The latest completion time of the tags of `m` that read 1 (R217). -/
def tagsTime (i : Isle) (m : Word64) : Nat :=
  ((List.range 64).filter (fun t => bit (m &&& i.ctb) t)).foldl (fun p t => max p (i.tagTime.get 0 t)) 0

/-- The core's time follows that of the tags it has seen (R217). -/
def seeTags (s : State) (k : Nat) (m : Word64) : State := s.mergePts (.core k) (tagsTime (s.isle k) m)

/-- CWANY once and again: it passes or holds (R255). -/
def cwanyBody (d : BitVec 5) (m : Word64) (k : Nat) (s : State) : Done :=
  let hit := m &&& (s.isle k).ctb
  if m = 0 ∨ hit ≠ 0 then fall (gSet (seeTags s k m) k d (BitVec.ofNat 64 (lowestBit hit)))
  else .error (.wait s (.anyTag d m))

/-- CWALL once and again (R255). -/
def cwallBody (m : Word64) (k : Nat) (s : State) : Done :=
  if m &&& (s.isle k).ctb = m then fall (seeTags s k m) else .error (.wait s (.allTags m))

/-- CWANY (R255). -/
def execCwany (d : BitVec 5) (a : BitVec 5) (v0 : BitVec 10) (s : State) : Host.Outcome State Fault Refusal :=
  .next (unitC 4 false ⟨.user, v0 == 0, true, fun k s => cwanyBody d (gGet s k a) k s⟩ s)

/-- CWALL (R255). -/
def execCwall (a : BitVec 5) (v0 : BitVec 5) (v1 : BitVec 10) (s : State) : Host.Outcome State Fault Refusal :=
  .next (unitC 4 false ⟨.user, v0 == 0 && v1 == 0, true, fun k s => cwallBody (gGet s k a) k s⟩ s)

/-- CFFR does not wait (R255). -/
def execCffr (d : BitVec 5) (a : BitVec 5) (v0 : BitVec 10) (s : State) : Host.Outcome State Fault Refusal :=
  .next (unitC 4 false ⟨.user, v0 == 0, true, fun k s =>
    let m := gGet s k a
    fall (gSet (seeTags s k m) k d (BitVec.ofNat 64 (lowestBit (m &&& (s.isle k).ctb))))⟩ s)

end Sys2Proof.Machine
end

