-- ==== Sys2Proof/Machine/Port.lean ====
section
/-! DEFINITION. The receiving side of a sensor stream port as its bindings use it: slots, lines as tokens, and the end of
a binding (R250, R251, R253, R417, R420). -/

namespace Sys2Proof.Machine

/-- The occupied slots of a port. -/
def StreamPort.occupied (p : StreamPort) : Nat :=
  p.queue.countP (fun r => match r with | .line _ _ => true | .gap _ _ => false)

/-- FREE of a port: 0 while it is unbound (R417). -/
def StreamPort.free (p : StreamPort) : Nat := if p.binding.isSome then p.bound - p.occupied else 0

/-- The port of die `d` changed by `f`. -/
def State.updPort (s : State) (d : Nat) (f : StreamPort → StreamPort) : State :=
  s.updDie d (fun v => { v with port := f v.port })

/-- The binding of a port changed by `f`. -/
def State.updBinding (s : State) (d : Nat) (f : Binding → Binding) : State :=
  s.updPort d (fun p => { p with binding := p.binding.map f })

/-- The oldest item of a port's slots goes. -/
def popPort (s : State) (d : Nat) : State := s.updPort d (fun p => { p with queue := p.queue.drop 1 })

/-- Bytes in runs of 32. -/
def chunks32 (l : List Byte) : (fuel : Nat) → List (List Byte)
  | 0 => []
  | n + 1 => if l.isEmpty then [] else l.take 32 :: chunks32 (l.drop 32) n

/-- The DATA tokens of a line, the first with GAP where one came before, then the EOR with their number (R251). -/
def lineTokens (seq : Nat) (bytes : List Byte) (gap : Bool) : List Token :=
  let ch := chunks32 bytes 512
  let data := ch.mapIdx (fun i c =>
    (⟨mkHdr kDATA 1 ((c.length + 3) / 4 - 1) seq 0 0 0 (gap && i == 0) false false, lanesOfBytes c⟩ : Token))
  data ++ [ctlToken kEOR seq 0 0 0 (BitVec.ofNat 32 ch.length) 0]

/-- The GAP token of a missing run (R418); the manual gives it no ITER (log entry 15). -/
def gapToken (first last : Nat) : Token :=
  ctlToken kGAP (Config.gapIter first) 0 0 0 (BitVec.ofNat 32 first) (BitVec.ofNat 32 last)

/-- The EOS token that ends a binding (R420). -/
def endToken : Token := ctlToken kEOS 0 0 0 0 0 0

/-- A MEMORY operator in PORT mode takes the port of its die (R253, R303): TAG_BUSY or LINK_DOWN where it cannot. -/
def bindOperator (s : State) (t : Nat) : Except (Cause × Word64) State :=
  let d := tileDie t
  let p := (s.die d).port
  match p.binding with
  | some b => if b.kind = BindKind.operator t then .ok s else .error (.tagBusy, 0x100)
  | none =>
    if p.st = .up then
      .ok (s.updPort d (fun p => { p with
        bound := p.nslot,
        binding := some { kind := .operator t, isle := tileIsle t, tag := none, ctx := tileCtx s t, job := tileJob s t,
                          desc := none, ring := 0, tok := true, tdest := 0, buf := none, ending := false,
                          record := none, gapNext := false, seq := s.opIds } }))
    else .error (.linkDown, 0)

end Sys2Proof.Machine
end

