-- ==== Sys2Proof/Machine/Banks.lean ====
section
/-! DEFINITION. SRAM bank control registers and mode switches (R66, R179 to R181). -/

namespace Sys2Proof.Machine

/-- The encoding of a bank mode (R179). -/
def bankCode : BankMode → Nat
  | .cache => 0 | .scratch => 1 | .fifo => 2 | .matching => 3

/-- The bank mode of an encoding. -/
def bankModeOf (n : Nat) : BankMode :=
  match n with
  | 0 => .cache | 1 => .scratch | 2 => .fifo | _ => .matching

/-- A mode with an owning context. -/
def ownedMode (m : BankMode) : Bool := m == .scratch || m == .fifo

/-- A bank control register as it reads (R179). -/
def bankWord (b : Bank) : Nat :=
  b2n b.busy * 2 ^ 31 + b2n b.refused * 2 ^ 30 + (if ownedMode b.mode then b.ctx % 256 else 0) * 2 ^ 16 +
    b.nctx % 256 * 2 ^ 8 + bankCode b.target * 2 ^ 2 + bankCode b.mode

/-- A write agrees with the bank's current MODE and CTX (R179). -/
def bankSame (b : Bank) (target : BankMode) (nctx : Nat) : Bool :=
  target == b.mode && (!ownedMode target || nctx == b.ctx)

/-- A buffer directory entry overlaps bank `n` (R180). -/
def bankDeclared (i : Isle) (n : Nat) : Bool := i.overlaps (2 ^ 17 * n) (2 ^ 17)

/-- A write to the control register of bank `n` (R179 to R181): it starts, refuses or cancels a switch, or is ignored. -/
def writeBank (i : Isle) (n : Nat) (w : Word32) : Isle :=
  let b := i.bank n
  let target := bankModeOf (bits w 3 2)
  let nctx := bits w 15 8
  let same := bankSame b target nctx
  if b.busy then (if same then i.setBank n { b with busy := false } else i)
  else if same then i
  else
    let bad := b.mode == .scratch && bankDeclared i n
    i.setBank n { b with target := target, nctx := nctx, busy := !bad, refused := bad }

/-- The FIFO banks of a context on an isle that take entries. -/
def Isle.fifoBanks (i : Isle) (c : Nat) : Nat := i.banks.countP (fun b => b.2.mode == .fifo && b.2.ctx == c && !b.2.busy)

/-- The 64-byte entries of a context's FIFO banks of isle `k` that tokens of its STREAM queues and the occupied receive
slots of a binding take (R334, R417). -/
def fifoUsed (s : State) (k c : Nat) : Nat :=
  (((s.isle k).hwq.filter (fun e => ((e.2.bound).map (·.1)) == some c)).map (fun e => e.2.toks.length)).foldl (· + ·) 0 +
    (match (s.die (isleDie k)).port.binding with
      | some b => if b.isle = k ∧ b.ctx = c then 256 * (s.die (isleDie k)).port.occupied else 0
      | none => 0)

/-- Hardware queue `q` of isle `k` takes no more tokens (R334): it holds its N entries or 16 tokens, or the FIFO banks that store
a STREAM queue's are full. -/
def hwFull (s : State) (k q : Nat) : Bool :=
  let h := (s.isle k).hw q
  decide (h.cap ≤ h.toks.length) ||
    (match h.bound with
      | some (c, _) => decide (2048 * (s.isle k).fifoBanks c ≤ fifoUsed s k c)
      | none => decide (16 ≤ q))

/-- The die of a lagoon: the DIE of its region (R382). -/
def lagoonDie (s : State) (k : Nat × Nat × Nat) : Nat :=
  match s.findJob k.1 k.2.1 with
  | some j => (j.entry k.2.2).die
  | none => 0

/-- The lagoon tokens of a context on a die. -/
def lagoonOn (s : State) (c d : Nat) : Nat :=
  ((s.lagoons.filter (fun e => e.1.1 == c && lagoonDie s e.1 == d)).map (fun e => e.2.length)).foldl (· + ·) 0

/-- No entry remains in FIFO bank `n` of isle `k` (R180): its context has no entry that can be there, or the other banks hold
them all; which entries a bank holds is open (log entry 19). -/
def fifoDrained (s : State) (k n : Nat) : Bool :=
  let c := ((s.isle k).bank n).ctx
  (fifoUsed s k c == 0 && lagoonOn s c (isleDie k) == 0) ||
    (decide (fifoUsed s k c ≤ 2048 * (s.isle k).fifoBanks c) && Config.bankDrained (256 * k + n) s.free)

/-- The lines that lie in bank `n` of an isle. -/
def Isle.bankLines (i : Isle) (n : Nat) : List Nat := (i.l2.filter (fun e => e.2.bank == n)).map (·.1)

/-- The commit condition of a switching bank (R180, R269): a CACHE bank waits for its pinned lines, a FIFO bank for its
entries, and a switch out of or into MATCH mode for the withheld frames. Every scratchpad access of the model is performed in
the step that makes it. -/
def bankReady (s : State) (k n : Nat) : Bool :=
  let i := s.isle k
  let b := i.bank n
  (match b.mode with
    | .cache => i.l2.all (fun e => e.2.bank != n || e.2.pins == 0)
    | .fifo => fifoDrained s k n
    | _ => true) &&
  ((b.mode != .matching && b.target != .matching) ||
    i.frames.all (fun f => decide (f.1 < i.framesBelow n) || f.2.st == .free))

/-- The frames that exist (R66). -/
def Isle.frameCount (i : Isle) : Nat := min 4096 (i.framesBelow 256)

/-- The frames from `a` on are numbered anew and join the free list (R66, R180). -/
def renumber (i : Isle) (a : Nat) : Isle :=
  { i with
    frames := i.frames.filter (fun f => decide (f.1 < a)),
    freeList := i.freeList.filter (fun f => decide (f < a)) ++ (List.range (i.frameCount - a)).map (a + ·) }

/-- A bank enters a mode with an owner (R180): a SCRATCH bank reads all zero. -/
def enterBank (i : Isle) (n : Nat) (m : BankMode) (c : Nat) : Isle :=
  let b := i.bank n
  let i1 := i.setBank n { b with mode := m, ctx := if ownedMode m then c else 0, busy := false }
  let inBank := fun (a : Nat) => a / 2 ^ 17 == n
  let i2 := if m = .scratch then
      { i1 with spm := i1.spm.filter (fun e => !inBank e.1), spmUe := i1.spmUe.filter (fun a => !inBank a) } else i1
  if b.mode = .matching ∨ m = .matching then renumber i2 (min 4096 (i.framesBelow n)) else i2

/-- The lines of a CACHE bank leave it: dirty ones are written home, and all are invalid (R180). -/
def emptyCache (s : State) (k n : Nat) : State :=
  ((s.isle k).bankLines n).foldl (fun s l => (writeBack s k l).updIsle k (fun i => i.dropLine l)) s

/-- A switch of bank `n` of isle `k` to a mode and owner commits (R180, R181). -/
def switchBank (s : State) (k n : Nat) (m : BankMode) (c : Nat) : State :=
  let s1 := if ((s.isle k).bank n).mode = .cache ∧ m ≠ .cache then emptyCache s k n else s
  s1.updIsle k (fun i => enterBank i n m c)

/-- The switch that bank `n` of isle `k` is in commits. -/
def commitBank (s : State) (k n : Nat) : State :=
  let b := (s.isle k).bank n
  switchBank s k n b.target b.nctx

/-- BANK_CTRL_WRITE (R179, R181). -/
def execBankCtrlWrite (k n : Nat) (w : BitVec 32) (s : State) : Host.Outcome State Fault Refusal :=
  .next (s.updIsle k (fun i => writeBank i (n % 256) w))

/-- BANK_SWITCH_COMMIT (R180, R181). -/
def execBankSwitchCommit (k n : Nat) (s : State) : Host.Outcome State Fault Refusal :=
  .next (if ((s.isle k).bank n).busy ∧ bankReady s k n then commitBank s k n else s)

end Sys2Proof.Machine
end

