-- ==== Sys2Proof/Machine/Crypto.lean ====
section
/-! DEFINITION. CRC-32C (R108, R411, R416), SHA-256, and the RSASSA-PSS verification of signed images and objects
(R111, R149). -/

namespace Sys2Proof.Machine

/-! ### CRC-32C -/

/-- One bit of the reflected CRC. -/
def crcBit (c : Word32) : Word32 := if bit c 0 then (c >>> 1) ^^^ 0x82F63B78 else c >>> 1

/-- One byte of the reflected CRC. -/
def crcByte (c : Word32) (b : Byte) : Word32 :=
  crcBit (crcBit (crcBit (crcBit (crcBit (crcBit (crcBit (crcBit (c ^^^ b.zeroExtend 32))))))))

/-- CRC-32C (Castagnoli) of a list of bytes (R108). -/
def crc32c (l : List Byte) : Word32 := ~~~ (l.foldl crcByte 0xFFFFFFFF)

/-! ### SHA-256 -/

/-- The round constants. -/
def shaK : List Nat :=
  [0x428a2f98, 0x71374491, 0xb5c0fbcf, 0xe9b5dba5, 0x3956c25b, 0x59f111f1, 0x923f82a4, 0xab1c5ed5,
   0xd807aa98, 0x12835b01, 0x243185be, 0x550c7dc3, 0x72be5d74, 0x80deb1fe, 0x9bdc06a7, 0xc19bf174] ++
  [0xe49b69c1, 0xefbe4786, 0x0fc19dc6, 0x240ca1cc, 0x2de92c6f, 0x4a7484aa, 0x5cb0a9dc, 0x76f988da,
   0x983e5152, 0xa831c66d, 0xb00327c8, 0xbf597fc7, 0xc6e00bf3, 0xd5a79147, 0x06ca6351, 0x14292967] ++
  [0x27b70a85, 0x2e1b2138, 0x4d2c6dfc, 0x53380d13, 0x650a7354, 0x766a0abb, 0x81c2c92e, 0x92722c85,
   0xa2bfe8a1, 0xa81a664b, 0xc24b8b70, 0xc76c51a3, 0xd192e819, 0xd6990624, 0xf40e3585, 0x106aa070] ++
  [0x19a4c116, 0x1e376c08, 0x2748774c, 0x34b0bcb5, 0x391c0cb3, 0x4ed8aa4a, 0x5b9cca4f, 0x682e6ff3,
   0x748f82ee, 0x78a5636f, 0x84c87814, 0x8cc70208, 0x90befffa, 0xa4506ceb, 0xbef9a3f7, 0xc67178f2]

/-- The initial hash. -/
def shaInit : List Word32 :=
  [0x6a09e667, 0xbb67ae85, 0x3c6ef372, 0xa54ff53a, 0x510e527f, 0x9b05688c, 0x1f83d9ab, 0x5be0cd19]

/-- A big-endian word from four bytes. -/
def beWord (l : List Byte) : Word32 := BitVec.ofNat 32 (numOf (l.take 4).reverse)

/-- The big-endian bytes of `v`, `n` of them. -/
def beBytes (v n : Nat) : List Byte := (bytesOf v n).reverse

/-- The number whose big-endian bytes are given. -/
def beNum (l : List Byte) : Nat := numOf l.reverse

/-- The message schedule, newest word first, extended by `n` words. -/
def shaSchedule (w : List Word32) : (n : Nat) → List Word32
  | 0 => w
  | n + 1 =>
    let a := w.getD 14 0
    let b := w.getD 1 0
    let s0 := a.rotateRight 7 ^^^ a.rotateRight 18 ^^^ (a >>> 3)
    let s1 := b.rotateRight 17 ^^^ b.rotateRight 19 ^^^ (b >>> 10)
    shaSchedule ((w.getD 15 0 + s0 + w.getD 6 0 + s1) :: w) n

/-- One round on the eight working words. -/
def shaRound (v : List Word32) (kw : Word32) : List Word32 :=
  let x := fun i => v.getD i 0
  let e := x 4
  let a := x 0
  let t1 := x 7 + (e.rotateRight 6 ^^^ e.rotateRight 11 ^^^ e.rotateRight 25) + ((e &&& x 5) ^^^ (~~~ e &&& x 6)) + kw
  let t2 := (a.rotateRight 2 ^^^ a.rotateRight 13 ^^^ a.rotateRight 22) +
    ((a &&& x 1) ^^^ (a &&& x 2) ^^^ (x 1 &&& x 2))
  [t1 + t2, a, x 1, x 2, x 3 + t1, e, x 5, x 6]

/-- One block of 64 bytes. -/
def shaBlock (h : List Word32) (b : List Byte) : List Word32 :=
  let w0 := (List.range 16).map (fun i => beWord (b.drop (4 * i)))
  let w := (shaSchedule w0.reverse 48).reverse
  let r := (List.zipWith (fun k x => BitVec.ofNat 32 k + x) shaK w).foldl shaRound h
  List.zipWith (· + ·) h r

/-- Blocks of a padded message. -/
def shaBlocks (h : List Word32) (l : List Byte) : (n : Nat) → List Word32
  | 0 => h
  | n + 1 => shaBlocks (shaBlock h (l.take 64)) (l.drop 64) n

/-- SHA-256 as 32 bytes. -/
def sha256 (l : List Byte) : List Byte :=
  let n := l.length
  let p := l ++ [0x80] ++ List.replicate ((119 - n % 64) % 64) 0 ++ beBytes (8 * n) 8
  (shaBlocks shaInit p (p.length / 64)).flatMap (fun w => beBytes w.toNat 4)

/-! ### RSASSA-PSS of PKCS #1 v2.2 (R111, R149) -/

/-- `b` squared `n` times mod `m`. -/
def squareMod (b m : Nat) : (n : Nat) → Nat
  | 0 => b
  | n + 1 => squareMod (b * b % m) m n

/-- MGF1 with SHA-256, `n` bytes. -/
def mgf1 (seed : List Byte) (n : Nat) : List Byte :=
  ((List.range (n / 32 + 1)).flatMap (fun i => sha256 (seed ++ beBytes i 4))).take n

/-- EMSA-PSS verification of a 3,072-bit encoded message against a message hash; the salt has 32 bytes. -/
def pssOk (em hash : List Byte) : Bool :=
  let dbLen := 351
  let masked := em.take dbLen
  let h := (em.drop dbLen).take 32
  let db0 := List.zipWith (· ^^^ ·) masked (mgf1 h dbLen)
  let db := match db0 with | [] => [] | b :: r => (b &&& 0x7F) :: r
  em.getLastD 0 == 0xBC && !bit (masked.headD 0) 7 &&
    (db.take 318).all (· == 0) && db.getD 318 0 == 1 &&
    sha256 (List.replicate 8 0 ++ hash ++ db.drop 319) == h

/-- The signature in the 392 bytes `sig` covers the message by a key that the security engine holds and that is not
revoked (R149). -/
def signatureOk (s : State) (msg sig : List Byte) : Bool :=
  let id := numOf (sig.take 8)
  match s.keys.find? (fun e => e.1 == id) with
  | none => false
  | some (_, modulus, revoked) =>
    let v := beNum ((sig.drop 8).take 384)
    !revoked && decide (v < modulus) &&
      pssOk (beBytes (v * squareMod v modulus 16 % modulus) 384) (sha256 msg)

end Sys2Proof.Machine
end

