-- ==== Sys2Proof/Machine/Memop.lean ====
section
/-! DEFINITION. The MEMORY operator (R302 to R304). -/

namespace Sys2Proof.Machine

/-! ### The descriptor (R302) -/

/-- MODE of a MEMORY operator. -/
def memMode (o : Op) : Nat := bits (o.reg 0) 3 0

/-- The requests of a MEMORY operator. -/
def memReq (s : State) (t : Nat) : Req := engReq s (.memop t) (.memop t) (tileCtx s t)

/-- A change of the MEMORY operator of tile `t`. -/
def State.updMem (s : State) (t : Nat) (f : Op → Op) : State := s.updOp t slotMEMORY f

/-- The descriptor of TN is read, or the port is bound in PORT mode; a failing check is held (R302, R303). -/
def loadDesc (s : State) (t : Nat) : State :=
  let o := s.op t slotMEMORY
  if memMode o = 5 then
    match bindOperator s t with
    | .ok s1 => s1.updMem t (fun o => { o with desc := none, held := none })
    | .error e => s.updMem t (fun o => { o with desc := none, held := some e })
  else
    match readDesc s (memReq s t) (bits (o.reg 0) 11 4) (fun f => !fmtIsBlock f) with
    | .ok (d, s1) => s1.updMem t (fun o => { o with desc := some d, held := none })
    | .error e => s.updMem t (fun o => { o with desc := none, held := some e })

/-- The elements of a tensor. -/
def Desc.total (d : Desc) : Nat := d.extents.foldl (· * ·) 1

/-- The index of the element at linear position `p`, dimension 0 fastest. -/
def unlinear : List Nat → Nat → List Int
  | [], _ => []
  | e :: es, p => ((p % e : Nat) : Int) :: unlinear es (p / e)

/-- An SPM tensor's buffer must be owned by an engine with ENG 0b01 (R302); OWNER_BIT gives the address `a` of the first
byte of the access (R184). -/
def memBuffer (s : State) (t : Nat) (d : Desc) (a : Nat) : Option (Cause × Word64) :=
  if d.spm then
    let i := s.isle (tileIsle t)
    let v := BitVec.ofNat 64 d.base
    match i.buffer d.base with
    | none => some (.spmBounds, v)
    | some e =>
      let h := i.header e.base
      if ¬ i.scratchOf (tileCtx s t) (bankOf e.base) then some (.spmBounds, v)
      else if ¬ hdrEngine h ∨ fieldOf h 25 24 ≠ 1 then some (.ownerBit, BitVec.ofNat 64 a)
      else none
  else none

/-- The address of element `p`. -/
def memAddr (d : Desc) (p : Nat) : Nat := ((d.base : Int) + dataOff d (unlinear d.extents p)).toNat

/-- Element `p` read (R195, R302). -/
def memRead (s : State) (t : Nat) (d : Desc) (p : Nat) : Except (Cause × Word64) (Nat × State) :=
  match memBuffer s t d (memAddr d p) with
  | some e => .error e
  | none =>
    match itemRead s (tileIsle t) (memReq s t) d false (dataOff d (unlinear d.extents p)) (fmtBytes d.fmt) with
    | .ok (l, s1) => .ok (numOf l, s1)
    | .error e => .error e

/-- Element `p` written. -/
def memWrite (s : State) (t : Nat) (d : Desc) (p v : Nat) : Except (Cause × Word64) State :=
  match memBuffer s t d (memAddr d p) with
  | some e => .error e
  | none => itemWrite s (tileIsle t) (memReq s t) d false (dataOff d (unlinear d.extents p)) (bytesOf v (fmtBytes d.fmt))

/-- A store at POS: written where it is in range, and otherwise RANGE of ERRSUM is set (R303, R310). -/
def memStore (s : State) (t : Nat) (d : Desc) (p v : Nat) : Except (Cause × Word64) State :=
  if p < d.total then memWrite s t d p v else .ok (orErrsum s (tileCtx s t) 4)

/-! ### Firing -/

/-- The inputs that a firing of the operator's mode consumes (R303). -/
def memIns (o : Op) : List Nat :=
  match memMode o with
  | 3 => [0, 1]
  | 4 => if bits (o.reg 0) 15 12 ≤ 8 then [0, 1] else [0]
  | 5 => []
  | _ => [0]

/-- A MEMORY firing in a mode: a held cause first; `f` gives the state it reaches and the fault that stopped it there, so
that nothing is replayed (R242, R302). It takes place only with credit for what it sends (R288). -/
def memFire (s : State) (t mode : Nat) (f : State → Desc → Option (State × Option (Cause × Word64))) : State :=
  let o := s.op t slotMEMORY
  if opLive s t slotMEMORY && memMode o == mode && ((o.input 0).head?.isSome || (o.input 1).head?.isSome) then
    match o.held with
    | some (c, v) => opFault s t slotMEMORY (memIns o) c v
    | none =>
      match o.desc with
      | none => s
      | some d =>
        match f s d with
        | none => s
        | some (s1, e) =>
          if !credited s s1 then s
          else match e with
            | none => s1
            | some (c, v) => opFault s1 t slotMEMORY (memIns o) c v
  else s

/-- The outcome of an emission. -/
def memEmit (s : State) (x : Except (Cause × Word64) State) : State × Option (Cause × Word64) :=
  match x with
  | .ok s1 => (s1, none)
  | .error e => (s, some e)

/-- The token's TYPE is the tensor's FORMAT (R302). -/
def memType (d : Desc) (tok : Token) : Option (Cause × Word64) :=
  if hType tok.hdr = d.fmt then none else some (.formatUnsupported, 0)

/-- The head of input `i` is consumed and the element index starts anew. -/
def memDone (s : State) (t : Nat) (ins : List Nat) : State :=
  (ins.foldl (fun s i => popIn s t slotMEMORY i) s).updMem t (fun o => { o with elem := 0, elems := [], sat := false })

/-- The fill value of an ERR token by format (R56). -/
def fillValue (f : BitVec 4) : Nat :=
  if fmtIsFloat f then canonNan (floatFmt f) else if fmtSigned f then 2 ^ (fmtWidth f - 1) else 0

/-- The elements from the element index on, up to `n`, stored by `f`, which gives element `j`'s position and value. -/
def memStores (t : Nat) (d : Desc) (n : Nat) (f : State → Nat → Nat × Nat) (adv : Bool) :
    (fuel : Nat) → State → State × Option (Cause × Word64)
  | 0, s => (s, none)
  | k + 1, s =>
    let j := (s.op t slotMEMORY).elem
    if n ≤ j then (s, none)
    else
      match memStore s t d (f s j).1 (f s j).2 with
      | .error e => (s, some e)
      | .ok s1 =>
        memStores t d n f adv k (s1.updMem t (fun o => { (if adv then o.bump 1 1 else o) with elem := j + 1 }))

/-- POS of the operator. -/
def memPos (s : State) (t : Nat) : Nat := ((s.op t slotMEMORY).reg 1).toNat

/-- An ERR token at a store mode: 8 × GSZ elements of fill, ERRS, SINK, and ERR_TOKEN_SINK where it is enabled (R304). Once
the fill is written the element index stands at its end until the token is gone. -/
def memSink (s : State) (t i : Nat) (d : Desc) : State × Option (Cause × Word64) :=
  let o := s.op t slotMEMORY
  let g := bits (o.reg 2) 11 0
  let n := if g = 0 then 4096 else 8 * g
  if n < o.elem then (memDone s t [i], none)
  else
    match memStores t d n (fun s _ => (memPos s t, fillValue d.fmt)) true n s with
    | (s1, some e) => (s1, some e)
    | (s1, none) =>
      let s2 := orErrsum (s1.updMem t (fun o => { o.bump 3 1 with elem := n + 1 })) (tileCtx s t) 1
      if bit (o.reg 0) 16 then (s2, some (.errTokenSink, 0)) else (memDone s2 t [i], none)

/-- A control token at input `i` (R76, R290, R304); `store` marks the store modes. A forwarded ORD carries the operator's pts,
which merged it (R216). -/
def memCtl (s : State) (t i : Nat) (store : Bool) (d : Desc) (tok : Token) : State × Option (Cause × Word64) :=
  let k := hKind tok.hdr
  if store && k == kERR then memSink s t i d
  else if store && k == kEOS then
    let s1 := popIn s t slotMEMORY i
    if bit ((s.op t slotMEMORY).reg 0) 17 then
      memEmit s (emitAll s1 t slotMEMORY 0 [ordToken (hIter tok.hdr) (hFrame tok.hdr) 0 0 (s.op t slotMEMORY).pts, tok])
    else (s1, none)
  else
    let s1 := if store && k == kGAP then orErrsum s (tileCtx s t) 2 else s
    let ord := ordToken 0 0 0 0 (s.op t slotMEMORY).pts
    memEmit s1 (ctlFire s1 t slotMEMORY i [0] (if k = kORD then { tok with lanes := ord.lanes } else tok))

/-- A one-input mode: DATA by `f`, any other token by R290 and R304. -/
def memOne (s : State) (t mode : Nat) (store : Bool)
    (f : State → Desc → Token → State × Option (Cause × Word64)) : State :=
  memFire s t mode (fun s d =>
    match opHead s t slotMEMORY 0 with
    | none => none
    | some tok =>
      if hKind tok.hdr ≠ kDATA then some (memCtl s t 0 store d tok)
      else match memType d tok with
        | some e => some (s, some e)
        | none => some (f s d tok))

/-- The tokens of a load: elements of the tensor's format with the tag of `tok`. -/
def loadToken (d : Desc) (tok : Token) (iter : Nat) (l : List Word32) (sat inx : Bool) : Token :=
  dataToken d.fmt (l.map (·.toNat)) iter (hFrame tok.hdr) false (hSat tok.hdr || sat) (hInx tok.hdr || inx)

/-- LOADSEQ from where the request stands (R303): `elem` counts the elements sent, `elems` holds those loaded for the next
token. -/
def loadSeqRun (t : Nat) (d : Desc) (tok : Token) (n : Nat) : (fuel : Nat) → State → State × Option (Cause × Word64)
  | 0, s => (s, none)
  | k + 1, s =>
    let o := s.op t slotMEMORY
    let pos := memPos s t
    let e0 := d.extents.headD 1
    if n ≤ o.elem ∨ d.total ≤ pos then
      let s1 := memDone s t [0]
      if d.total ≤ pos ∧ n ≠ 0 ∧ bit (o.reg 0) 17 ∧ ¬ o.ended then
        memEmit s (emit (s1.updMem t (fun o => { o with ended := true })) t slotMEMORY 0
          (ctlToken kEOS (hIter tok.hdr) (hFrame tok.hdr) 0 0 0 0))
      else (s1, none)
    else
      let m := min (min 8 (n - o.elem)) (e0 - pos % e0)
      if m ≤ o.elems.length then
        let iter := if d.rank < 2 then 0 else pos / e0 % d.extents.getD 1 1 % 1024
        match emit s t slotMEMORY 0 (loadToken d tok iter o.elems false false) with
        | .error e => (s, some e)
        | .ok s1 =>
          loadSeqRun t d tok n k (s1.updMem t (fun o => { o.bump 1 m with elem := o.elem + m, elems := [] }))
      else
        match memRead s t d (pos + o.elems.length) with
        | .error e => (s, some e)
        | .ok (v, s1) => loadSeqRun t d tok n k (s1.updMem t (fun o => { o with elems := o.elems ++ [BitVec.ofNat 32 v] }))

/-- LOADSEQ fires (R303): lane 0 is the whole 32-bit count. -/
def loadSeqStep (s : State) (t : Nat) : State :=
  memOne s t 0 false (fun s d tok =>
    let n := tok.lanes.l0.toNat
    loadSeqRun t d tok n (2 * min n (d.total - memPos s t) + 2) s)

/-- GATHER from the element index on (R303): the lanes are N32 indices. -/
def gatherRun (t : Nat) (d : Desc) (tok : Token) : (fuel : Nat) → State → State × Option (Cause × Word64)
  | 0, s => (s, none)
  | k + 1, s =>
    let o := s.op t slotMEMORY
    let j := o.elems.length
    if hLen tok.hdr < j then
      match emit (memDone s t [0]) t slotMEMORY 0 (loadToken d tok (hIter tok.hdr) o.elems o.sat false) with
      | .error e => (s, some e)
      | .ok s1 => (s1, none)
    else
      let i := (tok.lanes.get j).toNat
      if d.total ≤ i then
        gatherRun t d tok k (s.updMem t (fun o => { o with elems := o.elems ++ [0], sat := true, elem := j + 1 }))
      else
        match memRead s t d i with
        | .error e => (s, some e)
        | .ok (v, s1) =>
          gatherRun t d tok k (s1.updMem t (fun o => { o with elems := o.elems ++ [BitVec.ofNat 32 v], elem := j + 1 }))

/-- GATHER fires. -/
def gatherStep (s : State) (t : Nat) : State := memOne s t 1 false (fun s d tok => gatherRun t d tok 10 s)

/-- STORESEQ fires (R303). -/
def storeSeqStep (s : State) (t : Nat) : State :=
  memOne s t 2 true (fun s d tok =>
    let n := hLen tok.hdr + 1
    match memStores t d n (fun s j => (memPos s t, (tok.lanes.get j).toNat)) true n s with
    | (s1, some e) => (s1, some e)
    | (s1, none) => (memDone s1 t [0], none))

/-- A two-input mode: both heads DATA go by `f`, any other token by itself. -/
def memTwo (s : State) (t mode : Nat) (store : Bool)
    (f : State → Desc → Token → Token → State × Option (Cause × Word64)) : State :=
  memFire s t mode (fun s d =>
    match opHead s t slotMEMORY 0, opHead s t slotMEMORY 1 with
    | some x, y =>
      if hKind x.hdr ≠ kDATA then some (memCtl s t 0 store d x)
      else match y with
        | none => none
        | some y =>
          if hKind y.hdr ≠ kDATA then some (memCtl s t 1 store d y)
          else match (memType d x).orElse (fun _ => memType d y) with
            | some e => some (s, some e)
            | none => some (f s d x y)
    | none, some y => if hKind y.hdr ≠ kDATA then some (memCtl s t 1 store d y) else none
    | none, none => none)

/-- The index that a lane gives under R20. -/
def laneIndex (tok : Token) (j : Nat) : Nat := (laneOf (hType tok.hdr) (tok.lanes.get j).toNat).toNat

/-- SCATTER fires (R303). -/
def scatterStep (s : State) (t : Nat) : State :=
  memTwo s t 3 true (fun s d x y =>
    if hLen x.hdr ≠ hLen y.hdr then (s, some (.reservedField, 0))
    else
      let n := hLen x.hdr + 1
      match memStores t d n (fun _ j => (laneIndex x j, (y.lanes.get j).toNat)) false n s with
      | (s1, some e) => (s1, some e)
      | (s1, none) => (memDone s1 t [0, 1], none))

/-! ### ATOMIC (R303) -/

/-- One element of ATOMIC: the old value or old bit, and the state (R199, R202); an index beyond the tensor raises
SPM_BOUNDS (log entry 16). -/
def memAtomic (s : State) (t : Nat) (d : Desc) (aop i b : Nat) : Except (Cause × Word64) (Nat × State) :=
  let p := if aop ≤ 8 then i else i / 8
  if d.total ≤ p then .error (.spmBounds, BitVec.ofNat 64 d.base)
  else
    match memRead s t d p with
    | .error e => .error e
    | .ok (old, s1) =>
      let j := i % 8
      let oldBit := old / 2 ^ j % 2
      let new := if aop ≤ 8 then amoResult aop 32 old b else if aop = 10 then old - oldBit * 2 ^ j else old ||| 2 ^ j
      match memWrite s1 t d p new with
      | .error e => .error e
      | .ok s2 => .ok (if aop ≤ 8 then old else oldBit, s2)

/-- ATOMIC from the element index on, lane by lane (R303): `elems` holds what output 0 will carry. -/
def atomicRun (t : Nat) (d : Desc) (x y : Token) (aop : Nat) (ins : List Nat) :
    (fuel : Nat) → State → State × Option (Cause × Word64)
  | 0, s => (s, none)
  | k + 1, s =>
    let o := s.op t slotMEMORY
    let j := o.elem
    if hLen x.hdr < j then
      let s1 := memDone s t ins
      if o.elems.isEmpty then (s1, none)
      else
        match emit s1 t slotMEMORY 0 (loadToken d x (hIter x.hdr) o.elems (hSat y.hdr) (hInx y.hdr)) with
        | .error e => (s, some e)
        | .ok s2 => (s2, none)
    else
      match memAtomic s t d aop (laneIndex x j) (y.lanes.get j).toNat with
      | .error e => (s, some e)
      | .ok (v, s1) =>
        let out := if aop = 11 then (if v = 0 then [BitVec.ofNat 32 (laneIndex x j)] else []) else [BitVec.ofNat 32 v]
        atomicRun t d x y aop ins k (s1.updMem t (fun o => { o with elem := j + 1, elems := o.elems ++ out }))

/-- The tensor of an ATOMIC operator: SPM, I32 or N32 for AOP 0 to 8, N8 for the bit operations (R303). -/
def atomicTensor (d : Desc) (aop : Nat) : Option (Cause × Word64) :=
  if ¬ d.spm then some (.descInvalid, 0)
  else if (if aop ≤ 8 then d.fmt == 0 || d.fmt == 1 else d.fmt == 5) then none
  else some (.formatUnsupported, 0)

/-- ATOMIC fires (R303). -/
def atomicStep (s : State) (t : Nat) : State :=
  let r0 := (s.op t slotMEMORY).reg 0
  let aop := bits r0 15 12
  if aop ≤ 8 then
    memTwo s t 4 false (fun s d x y =>
      match atomicTensor d aop with
      | some e => (s, some e)
      | none => atomicRun t d x y aop [0, 1] 10 s)
  else
    memOne s t 4 false (fun s d x =>
      match atomicTensor d aop with
      | some e => (s, some e)
      | none => atomicRun t d x x aop [0] 10 s)

/-! ### PORT (R251, R303) -/

/-- PORT emits the next line, GAP or the final EOS of its binding on output 0 (R251, R303, R420). -/
def portStep (s : State) (t : Nat) : State :=
  let o := s.op t slotMEMORY
  if opLive s t slotMEMORY && memMode o == 5 then
    match o.held with
    | some (c, v) => opFault s t slotMEMORY (memIns o) c v
    | none =>
      let d := tileDie t
      let p := (s.die d).port
      match p.binding with
      | none => s
      | some b =>
        if b.kind ≠ BindKind.operator t then s
        else
          let send := fun (s1 : State) (l : List Token) =>
            match emitAll s1 t slotMEMORY 0 l with
            | .ok s2 => withCredit s s2
            | .error (c, v) => opFault s t slotMEMORY (memIns o) c v
          match p.queue with
          | .gap f l :: _ => send ((popPort s d).updBinding d (fun b => { b with gapNext := true })) [gapToken f l]
          | .line seq bytes :: _ =>
            send ((popPort s d).updBinding d (fun b => { b with gapNext := false })) (lineTokens seq bytes b.gapNext)
          | [] => if b.ending then send (endBinding s d false) [endToken] else s
  else s

/-! ### Meanings -/

/-- MEMORY fires in LOADSEQ mode (R303). -/
def execMemoryLoadseq (t : Nat) (s : State) : Host.Outcome State Fault Refusal := .next (loadSeqStep s t)

/-- MEMORY fires in GATHER mode (R303). -/
def execMemoryGather (t : Nat) (s : State) : Host.Outcome State Fault Refusal := .next (gatherStep s t)

/-- MEMORY fires in STORESEQ mode (R303). -/
def execMemoryStoreseq (t : Nat) (s : State) : Host.Outcome State Fault Refusal := .next (storeSeqStep s t)

/-- MEMORY fires in SCATTER mode (R303). -/
def execMemoryScatter (t : Nat) (s : State) : Host.Outcome State Fault Refusal := .next (scatterStep s t)

/-- MEMORY fires in ATOMIC mode (R303). -/
def execMemoryAtomic (t : Nat) (s : State) : Host.Outcome State Fault Refusal := .next (atomicStep s t)

/-- MEMORY fires in PORT mode (R303). -/
def execMemoryPort (t : Nat) (s : State) : Host.Outcome State Fault Refusal := .next (portStep s t)

end Sys2Proof.Machine
end

