-- ==== Sys2Proof/Machine/Matrix.lean ====
section
/-! DEFINITION. The tile fetch unit and the matrix engine (R44 to R55, R267 to R282): fetches, steps, promotion windows,
releases, and the instructions TFETCH, TREL, MMA, MMAI, MACC, MZERO, MEOR and MRD. -/

namespace Sys2Proof.Machine

/-! ### The fetch of an operand tile (R267 to R270) -/

/-- A format that R44 allows. -/
def matrixFmt (f : BitVec 4) : Bool :=
  f == 2 || f == 4 || (decide (6 ≤ f.toNat) && decide (f.toNat ≤ 13))

/-- The 16 codes of a block's packed bytes (R26). -/
def blockCodes (f : BitVec 4) (l : List Byte) : List Nat :=
  let b := if f = 11 then 3 else if f = 12 then 5 else 8
  (List.range 16).map (fun i => numOf l / 2 ^ (b * i) % 2 ^ b)

/-- One row of element codes as the fetch unit loads it. -/
def fetchRow (s : State) (k : Nat) (rq : Req) (d : Desc) (c : Word64) (r : Nat) :
    Except (Cause × Word64) (List Nat × State) :=
  let blk := fmtIsBlock d.fmt
  let n := if blk then blockBytes d.fmt else fmtBytes d.fmt
  (rowOffs d c r false).foldlM (fun (acc : List Nat × State) o =>
    match o with
    | none => .ok (acc.1 ++ (if blk then List.replicate 16 0 else [0]), acc.2)
    | some off =>
      match itemRead acc.2 k rq d false off n with
      | .error e => .error e
      | .ok (l, s1) => .ok (acc.1 ++ (if blk then blockCodes d.fmt l else [numOf l]), s1)) ([], s)

/-- The rows of a tile from row `r0`, with the state at the end or at the first fault. -/
def fetchRows (s : State) (k : Nat) (rq : Req) (d : Desc) (c : Word64) (done : List (List Nat)) :
    (n : Nat) → (List (List Nat) × State) × Option (Cause × Word64)
  | 0 => ((done, s), none)
  | n + 1 =>
    match fetchRow s k rq d c done.length with
    | .error e => ((done, s), some e)
    | .ok (row, s1) => fetchRows s1 k rq d c (done ++ [row]) n

/-- The 256 words of a tile's scale stream (R231, R269). -/
def fetchScales (s : State) (k : Nat) (rq : Req) (d : Desc) (c : Word64) :
    Except (Cause × Word64) (List (BitVec 16) × State) :=
  ((List.range 64).flatMap (fun r => rowOffs d c r true)).foldlM (fun (acc : List (BitVec 16) × State) o =>
    match o with
    | none => .ok (acc.1 ++ [0], acc.2)
    | some off =>
      match itemRead acc.2 k rq d true off 2 with
      | .error e => .error e
      | .ok (l, s1) => .ok (acc.1 ++ [BitVec.ofNat 16 (numOf l)], s1)) ([], s)

/-- The lines of memory that a GLOBAL tile's elements lie in (R269). -/
def tileLines (s : State) (rq : Req) (d : Desc) (c : Word64) : List Nat :=
  let n := if fmtIsBlock d.fmt then blockBytes d.fmt else fmtBytes d.fmt
  let addrs := ((List.range 64).flatMap (fun r => rowOffs d c r false)).flatMap (fun o =>
    match o with
    | none => []
    | some off => [byteAt d false off 0, byteAt d false off (n - 1)])
  (addrs.filterMap (fun a => match translate s rq (word64 a) .load with
    | .ok (l, _) => if l.dev then none else some (lineOf l.key)
    | .error _ => none)).eraseDups

/-- The checks of an SPM tensor of a fetch, in the order of R269. -/
def fetchOperand (s : State) (k c : Nat) (d : Desc) (coord : Word64) : Option (Cause × Word64) :=
  if d.spm then
    let i := s.isle k
    let v := BitVec.ofNat 64 d.base
    let ext := (List.range d.rank).map (fun j => if j < 2 then 64 else 1)
    let (lo, hi) := touched d (origins coord d.rank) ext
    match i.buffer d.base with
    | none => some (.ownerBit, v)
    | some e =>
      let h := i.header e.base
      if ¬ i.scratchOf c (bankOf e.base) ∨ ¬ hdrEngine h ∨ fieldOf h 25 24 ≠ 2 then some (.ownerBit, v)
      else if fieldOf h 3 2 ≠ d.swz.toNat then some (.swizzleMismatch, v)
      else if ¬ spanOk d e.len lo hi then some (.spmBounds, v)
      else none
  else none

/-- The scale rule of a tensor (R269): GLOBAL block with SCL = 1, anything else with SCL = 0; a block's c0 is a multiple
of 16 (R235). -/
def fetchShape (d : Desc) (coord : Word64) (scl : Bool) : Option (Cause × Word64) :=
  let global := fmtIsBlock d.fmt && !d.spm
  if global != scl then some (.scaleShape, 0)
  else if fmtIsBlock d.fmt ∧ bits coord 3 0 ≠ 0 then some (.descInvalid, coord)
  else none

/-- What a fetch of slot `n` of tile `t` comes to: the slot and state at completion, or the cause with the rows done. The
reload of a restored slot reads the tile's lines alone: its scales come from the save (R285). -/
def runFetch (s : State) (t n : Nat) : (Slot × Option (List (BitVec 16)) × State) × Option (Cause × Word64) :=
  let k := tileIsle t
  let c := tileCtx s t
  let v := (s.tile t).slot n
  let rq := engReq s (.fetch t) (.tileFetch t) c
  match readDesc s rq v.tid matrixFmt with
  | .error e => ((v, none, s), some e)
  | .ok (d, s1) =>
    match (fetchShape d v.coord v.scl.isSome).orElse (fun _ => fetchOperand s1 k c d v.coord) with
    | some e => ((v, none, s1), some e)
    | none =>
      let ((rows, s2), bad) := fetchRows s1 k rq d v.coord v.data (64 - v.data.length)
      match bad with
      | some e => (({ v with data := rows, fmt := d.fmt }, none, s2), some e)
      | none =>
        let ws : Except (Cause × Word64) (Option (List (BitVec 16)) × State) := if v.scl.isSome && v.reload.isNone then (match fetchScales s2 k rq d v.coord with
            | .error e => .error e
            | .ok (l, s3) => .ok (some l, s3))
          else .ok (none, s2)
        match ws with
        | .error e => (({ v with data := rows, fmt := d.fmt }, none, s2), some e)
        | .ok (l, s3) =>
          if d.spm then
            let s4 := s3.updIsle k (fun i => takeRef i d.base false)
            let h := (s4.isle k).header d.base
            let tag := if fmtIsBlock d.fmt ∧ fieldOf h 35 35 = 1 then some (fieldOf h 47 40, fieldOf h 39 36) else none
            let s5 := match tag with
              | some (r, _) => s4.updIsle k (fun i => addLive i r)
              | none => s4
            (({ v with data := rows, fmt := d.fmt, buf := some d.base, tag := tag }, l, s5), none)
          else
            let lines := tileLines s3 rq d v.coord
            (({ v with data := rows, fmt := d.fmt, lines := lines }, l, pin s3 k lines), none)

/-- The ready token of a fetch after its ORD token (R217, R270). -/
def readyTokens (ctx frame dest time handle : Nat) (tag : Option (Nat × Nat)) : List Token :=
  let l1 := match tag with
    | some (r, g) => 2 ^ 12 + tagCode r g
    | none => 0
  [ordToken 0 frame dest ctx time,
   ⟨mkHdr kDATA 1 1 0 frame dest ctx false false false, Lanes.ofList [BitVec.ofNat 32 handle, BitVec.ofNat 32 l1]⟩]

/-- A FETCHING or RELEASING slot whose fetch has not ended: the fetch unit works (R272). -/
def slotFetching (v : Slot) : Bool := v.st == .fetching || (v.st == .releasing && !v.released)

/-- A restored slot whose lines are still to be fetched again (R285). -/
def slotReloading (v : Slot) : Bool := v.reload.isSome && (v.st == .ready || v.st == .consumed)

/-- The fetch unit has work on a slot. -/
def slotPending (v : Slot) : Bool := (slotFetching v || slotReloading v) && v.record.isNone

/-- The accesses of slot `n` may be sent: every fetch accepted before it that no record holds has ended (R210). -/
def fetchTurn (v : Tile) (n : Nat) : Bool :=
  (List.range 8).all (fun m => !slotPending (v.slot m) || decide ((v.slot n).seq ≤ (v.slot m).seq))

/-- The fetch unit of tile `t` may act. -/
def fetchLive (s : State) (t : Nat) : Bool :=
  (s.tile t).base.isSome && s.present (tileDie t) && !(s.die (tileDie t)).fenced && !s.inReset (tileIsle t)

/-- The slot after its fetch has ended: READY with its ready token, back in its state where it was reloaded, or released
once no queued step names it (R269, R270, R272, R285). -/
def finishFetch (s : State) (t n : Nat) (v : Slot) (ws : Option (List (BitVec 16))) : State :=
  let k := tileIsle t
  let c := tileCtx s t
  let s1 := match v.tag, ws with
    | some (r, g), some l => if tagCurrent (s.isle k) c (some (r, g)) then putWords s k r (fun w => l.getD w 0) else s
    | _, _ => s
  match v.st, v.reload with
  | .releasing, _ =>
    let s2 := s1.updSlot t n (fun _ => { v with released := true, reload := none })
    if v.queued = 0 then releaseSlot s2 t n else s2
  | _, some st => s1.updSlot t n (fun _ => { v with st := st, reload := none })
  | _, none =>
    let s2 := s1.updSlot t n (fun _ => { v with st := .ready })
    if v.tok then
      sendTokens s2 (.fetch t) (tileDie t) (some (tileJob s t))
        (readyTokens c v.frame v.tdest (s2.pts (.fetch t)) (n + 1) v.tag)
    else s2

/-- A fetch completes where nothing stops it (R270). -/
def fetchCompleteStep (s : State) (t h : Nat) : State :=
  let v := (s.tile t).slot (h - 1)
  if fetchLive s t && decide (1 ≤ h) && decide (h ≤ 8) && slotPending v && fetchTurn (s.tile t) (h - 1) then
    match runFetch s t (h - 1) with
    | ((v1, ws, s1), none) => finishFetch s1 t (h - 1) v1 ws
    | (_, some _) => s
  else s

/-- A fault record of the fetch unit (R270, R425). -/
def fetchRecord (s : State) (t h row : Nat) (e : Cause × Word64) : State :=
  faultRecord s (tileIsle t)
    { tileRecord s t 4 e.1 e.2 with pts := s.pts (.fetch t), pos := row, opid := h }

/-- A fetch that meets a fault: the slot is FAULTED (R270, R285). A slot that TREL has named is released, its fetch having
ended, unless a queued step still names it: then the step cannot be performed and the record is raised (R272, R285). -/
def fetchFaultStep (s : State) (t h : Nat) : State :=
  let v := (s.tile t).slot (h - 1)
  if fetchLive s t && decide (1 ≤ h) && decide (h ≤ 8) && slotPending v && fetchTurn (s.tile t) (h - 1) then
    match runFetch s t (h - 1) with
    | (_, none) => s
    | ((v1, _, s1), some e) =>
      if v.st = .releasing ∧ v.queued = 0 then releaseSlot s1 t (h - 1)
      else
        let s2 := s1.updSlot t (h - 1) (fun _ =>
          { v1 with st := if v.st = .releasing then .releasing else .faulted, record := some (nextRing s1 (tileIsle t)) })
        fetchRecord s2 t h v1.data.length e
  else s

/-! ### TFETCH and TREL -/

/-- The control scalar of TFETCH keeps its reserved bits (R268). -/
def fetchCtl (b : Word64) : Bool :=
  decide (bits b 31 10 = 0) && (bit b 51 || decide (bits b 50 32 = 0)) && (bit b 9 || decide (bits b 7 0 = 0))

/-- Step 3 of R269: the name resolved or allocated, and a new generation. -/
def fetchTag (s : State) (k c n : Nat) (live : Bool) : Except Stop ((Nat × Nat) × State) := do
  let (r, s1) ← scaleDest s k c n
  let s2 := bumpGen s1 k r
  let s3 := if live then s2.updIsle k (fun i => addLive i r) else s2
  return ((r, ((s3.isle k).scale r).gen), s3)

/-- TFETCH in a cell (R269). -/
def tfetchCell (d a b : BitVec 5) (n : BitVec 8) (t : Nat) (s : State) : Done := do
  let co ← sGetL s t a
  let w ← sGetL s t b
  check (fetchCtl w) s .reservedField 0
  check (!bit w 51 || destOk (s.findJob (tileCtx s t) (tileJob s t)) (bits w 50 32)) s .routeInvalid 0
  match (List.range 8).find? (fun j => ((s.tile t).slot j).st == .free) with
  | none => fall (sSetL s t d 0)
  | some j =>
    let (tag, s1) ← if bit w 9 then (fetchTag s (tileIsle t) (tileCtx s t) (bits w 7 0) true).map (fun r => (some r.1, r.2))
      else .ok (none, s)
    let s2 := s1.updSlot t j (fun _ => { Slot.reset with
      st := .fetching, tid := n.toNat, coord := co, keep := bit w 8, scl := if bit w 9 then some (bits w 7 0) else none,
      tag := tag, tok := bit w 51, tdest := bits w 50 32, frame := bits w 63 52, seq := s1.opIds })
    fall (sSetL { s2 with opIds := s1.opIds + 1 } t d (BitVec.ofNat 64 (j + 1)))

/-- TFETCH on a core: a prefetch into the isle L2 (R271). -/
def tfetchCore (d a b : BitVec 5) (n : BitVec 8) (k : Nat) (s : State) : Done := do
  let co := gGet s k a
  let w := gGet s k b
  let c := (s.isle k).ctx
  check (fetchCtl w && !bit w 8) s .reservedField 0
  let (ds, s1) ← liftCause s (readDesc s (engReq s (.core k) .copy c) n.toNat matrixFmt)
  check (!ds.spm) s .descInvalid 0
  check (!bit w 9 || fmtIsBlock ds.fmt) s .scaleShape 0
  check (!fmtIsBlock ds.fmt || decide (bits co 3 0 = 0)) s .descInvalid co
  check (!bit w 51 || destOk (declaringJob s c (bits w 37 32)) (bits w 50 32)) s .routeInvalid 0
  if 8 ≤ (s.isle k).prefetches.length then .error (.wait s .reissue)
  else do
    let (tag, s2) ← if bit w 9 then (fetchTag s1 k c (bits w 7 0) false).map (fun r => (some r.1, r.2)) else .ok (none, s1)
    let p : Prefetch := ⟨s2.opIds, c, ds, co, tag, bit w 51, bits w 50 32, bits w 63 52, none⟩
    let s3 := { s2.updIsle k (fun i => { i with prefetches := i.prefetches ++ [p] }) with opIds := s2.opIds + 1 }
    let v := match tag with
      | some (r, g) => 0x1000 + tagCode r g
      | none => 0x1000
    fall (gSet s3 k d (BitVec.ofNat 64 v))

/-- The loads of a prefetch (R271), by the isle's copy engine. -/
def prefetchRun (s : State) (k : Nat) (p : Prefetch) :
    (Option (List (BitVec 16)) × State) × Option (Cause × Word64) :=
  let rq := engReq s (.engine k) .copy p.ctx
  let ((_, s1), bad) := fetchRows s k rq p.desc p.coord [] 64
  match bad with
  | some e => ((none, s1), some e)
  | none =>
    match p.tag with
    | none => ((none, s1), none)
    | some _ =>
      match fetchScales s1 k rq p.desc p.coord with
      | .error e => ((none, s1), some e)
      | .ok (l, s2) => ((some l, s2), none)

/-- The accesses of a prefetch may be sent: no earlier operation or prefetch of the isle's engine has a COH access to make
before one of its own (R210, R241). -/
def prefetchTurn (s : State) (k : Nat) (p : Prefetch) : Bool :=
  !prefetchCoh s k p || ((s.isle k).ops.all (fun o => decide (p.id ≤ o.id) || !opCoh s k o) &&
    (s.isle k).prefetches.all (fun q => decide (p.id ≤ q.id) || !prefetchCoh s k q))

/-- Prefetch `n` of isle `k` completes, or meets a fault that becomes a record of the copy engine (R271). -/
def prefetchStep (s : State) (k n : Nat) : State :=
  match (s.isle k).prefetches[n]? with
  | none => s
  | some p =>
    if p.record.isSome || !s.present (isleDie k) || (s.die (isleDie k)).fenced || !prefetchTurn s k p then s
    else match prefetchRun s k p with
      | ((_, s1), some e) =>
        let s2 := s1.updIsle k (fun i => { i with
          prefetches := setAt i.prefetches n { p with record := some (nextRing s1 k) } })
        faultRecord s2 k { TrapRec.zero with
          job := isleJob s p.ctx k, ctx := p.ctx, agent := 3, code := causeCode e.1, tval := e.2,
          pts := (s1.isle k).engPts, opid := p.id }
      | ((ws, s1), none) =>
        let s2 := match p.tag, ws with
          | some (r, g), some l => if tagCurrent (s1.isle k) p.ctx (some (r, g)) then
              putWords s1 k r (fun w => l.getD w 0) else s1
          | _, _ => s1
        let s3 := s2.updIsle k (fun i => { i with prefetches := dropAt i.prefetches n })
        if p.tok then
          sendTokens s3 (.engine k) (isleDie k) none (readyTokens p.ctx p.frame p.tdest (s3.isle k).engPts 0 p.tag)
        else s3

/-- The handle of a scalar: 1 to 8 with no other bit (R268, R279). -/
def handleOk (a : Word64) : Bool := decide (1 ≤ a.toNat) && decide (a.toNat ≤ 8)

/-- TREL (R268, R272). -/
def trelBody (a : BitVec 5) (t : Nat) (s : State) : Done := do
  let h ← sGetL s t a
  check (handleOk h) s .reservedField 0
  let n := h.toNat - 1
  let v := (s.tile t).slot n
  match v.st with
  | .fetching => fall (s.updSlot t n (fun v => { v with st := .releasing, released := false }))
  | .ready =>
    if v.queued = 0 then fall (releaseSlot s t n)
    else fall (s.updSlot t n (fun v => { v with st := .releasing, released := true }))
  | _ => fall s

/-! ### Elements on the matrix path (R44 to R48) -/

/-- q of a block format's codes (R25). -/
def blockQ (f : BitVec 4) : Nat := if f = 11 then 2 else if f = 12 then 4 else 7

/-- A block code as a signed magnitude (R25). -/
def blockInt (q code : Nat) : Int := if code / 2 ^ q % 2 = 1 then -((code % 2 ^ q : Nat) : Int) else (code % 2 ^ q : Nat)

/-- S_k of R45 in units of 2^−6. -/
def blockSum (q : Nat) (wa wb : BitVec 16) (ca cb : List Nat) : Int :=
  (List.range 16).foldl (fun acc i =>
    acc + blockInt q (ca.getD i 0) * blockInt q (cb.getD i 0) * (2 ^ (6 - quadShift wa i - quadShift wb i) : Nat)) 0

/-- A signed integer scaled by 2^e and rounded to nearest even, with whether it was inexact. -/
def roundInt (x : Int) (e : Int) : Int × Bool :=
  let r := roundShift 0 (decide (x < 0)) x.natAbs e
  (if x < 0 then -(r.1 : Int) else r.1, r.2)

/-- x clamped to n-bit signed (R59). -/
def clampS (n : Nat) (x : Int) : Int × Bool :=
  if x < -(2 ^ (n - 1) : Nat) then (-(2 ^ (n - 1) : Nat), true)
  else if (2 ^ (n - 1) : Nat) - 1 < x then ((2 ^ (n - 1) : Nat) - 1, true) else (x, false)

/-- A float of a matrix operand: subnormals read as zero (R44); `none` for NaN and infinity. -/
def matIn (f : BitVec 4) (x : Nat) : Option (Int × Int) :=
  let p := floatFmt f
  match unpackF p x with
  | .fin n m e => if x / 2 ^ p.f % 2 ^ p.e = 0 then some (0, 0) else some (if n then -(m : Int) else m, e)
  | _ => none

/-- An integer element of the matrix path: INT16 −32768 reads as −32767 (R47). -/
def matInt (f : BitVec 4) (x : Nat) : Int × Bool :=
  let v := intOf f x
  if f = 2 ∧ v = -32768 then (-32767, true) else (v, false)

/-- The exact dot product of 16 float pairs as m × 2^e (R48). -/
def floatDot (fa fb : BitVec 4) (ca cb : List Nat) : Int × Int :=
  (List.range 16).foldl (fun acc i =>
    match matIn fa (ca.getD i 0), matIn fb (cb.getD i 0) with
    | some (ma, ea), some (mb, eb) =>
      if ma * mb = 0 then acc
      else
        let e := ea + eb
        if acc.1 = 0 then (ma * mb, e)
        else
          let lo := min acc.2 e
          (acc.1 * (2 ^ (acc.2 - lo).toNat : Nat) + ma * mb * (2 ^ (e - lo).toNat : Nat), lo)
    | _, _ => acc) (0, 0)

/-- m × 2^e rounded to FP32 in RNE, with whether it was inexact. -/
def toF32 (m e : Int) : Nat × Bool :=
  let r := roundF (floatFmt 6) 0 (decide (m < 0)) m.natAbs e
  (r.1, bit r.2 0)

/-- acc + x in FP32, RNE, with whether it was inexact (R46, R48, R294). -/
def addF32 (a x : Nat) : Nat × Bool :=
  let r := fAdd (floatFmt 6) 0 a x
  (r.1, bit r.2 0)

/-- The value and marks of one accumulator element. -/
structure ElemOut where
  val : Word64
  inx : Bool
  sat : Bool
  ovf : Bool
  deriving DecidableEq, Repr

/-- Scale word and codes of row `r` of a block operand. -/
def blockRow (l : List (BitVec 16 × List Nat)) (r : Nat) : BitVec 16 × List Nat := l.getD r (0, [])

/-- One element of C after the window `w` of block pairs (R46). -/
def windowBlock (w : List Block) (m n : Nat) (acc : Word64) : ElemOut :=
  let q := blockQ ((w.head?.map (·.fa)).getD 11)
  let es := w.map (fun b => scaleExp (blockRow b.a m).1 + scaleExp (blockRow b.b n).1)
  let top := es.foldl max 0
  let r := w.foldl (fun (v : Int × Bool) b =>
    let a := blockRow b.a m
    let bb := blockRow b.b n
    let e := scaleExp a.1 + scaleExp bb.1
    let x := roundInt (blockSum q a.1 bb.1 a.2 bb.2) (9 - ((top : Int) - e))
    ((clampS 40 (v.1 + x.1)).1, v.2 || x.2)) (0, false)
  let f := toF32 r.1 ((top : Int) - 254 - 2 * (q - 1) - 15)
  let s := addF32 (acc.toNat % 2 ^ 32) f.1
  ⟨BitVec.ofNat 64 s.1, r.2 || f.2 || s.2, false, false⟩

/-- v of one element of C after one block pair of an integer window (R47, R51). -/
def blockInto (b : Block) (m n : Nat) (v : Word64) : ElemOut :=
  let ca := (blockRow b.a m).2
  let cb := (blockRow b.b n).2
  let sum := (List.range 16).foldl (fun (x : Int × Bool) i =>
    let a := matInt b.fa (ca.getD i 0)
    let c := matInt b.fb (cb.getD i 0)
    (x.1 + a.1 * c.1, x.2 || a.2 || c.2)) (0, false)
  let y := clampS 40 (v.toInt + sum.1)
  ⟨word64 y.1, false, sum.2 || y.2, y.2⟩

/-- One element of C at the promotion point of an integer window (R47). -/
def promoteInt (v acc : Word64) : ElemOut :=
  let s := clampS 64 (acc.toInt + v.toInt)
  ⟨word64 s.1, false, s.2, s.2⟩

/-- One element of C after float chunks, chunk by chunk (R48). -/
def windowFloat (w : List Block) (m n : Nat) (acc : Word64) : ElemOut :=
  let r := w.foldl (fun (v : Nat × Bool) b =>
    let d := floatDot b.fa b.fb (blockRow b.a m).2 (blockRow b.b n).2
    let f := toF32 d.1 d.2
    let s := addF32 v.1 f.1
    (s.1, v.2 || f.2 || s.2)) (acc.toNat % 2 ^ 32, false)
  ⟨BitVec.ofNat 64 r.1, r.2, false, false⟩

/-- A row of an operand holds a NaN, an infinity or a NaN block (R54, R277). -/
def rowInvalid (f : BitVec 4) (r : BitVec 16 × List Nat) : Bool :=
  if fmtIsBlock f then decide (scaleExp r.1 = 255)
  else fmtIsFloat f && r.2.any (fun x => (matIn f x).isNone)

/-- A block pair holds an element or scale word that makes its accumulator absorbing (R277). -/
def blockInvalid (b : Block) : Bool := b.a.any (rowInvalid b.fa) || b.b.any (rowInvalid b.fb)

/-! ### The accumulators (R273, R276, R277) -/

/-- Accumulator `a` of an engine. -/
def Engine.acc (e : Engine) (a : Nat) : Acc := if a = 0 then e.acc0 else e.acc1

/-- Accumulator `a` of tile `t` changed by `f`. -/
def State.updAcc (s : State) (t a : Nat) (f : Acc → Acc) : State :=
  s.updTile t (fun v => { v with eng := if a = 0 then { v.eng with acc0 := f v.eng.acc0 }
    else { v.eng with acc1 := f v.eng.acc1 } })

/-- Element `i` of an accumulator. -/
def Acc.val (a : Acc) (i : Nat) : Word64 := a.vals.get 0 i

/-- A function of the 4,096 elements, row by row, with whether it was inexact, saturated or set the ACC_OVF mark. -/
def overElems (f : Nat → Nat → Nat → ElemOut) : Tbl Word64 × Bool × Bool × Bool :=
  let outs := (List.range 4096).map (fun i => f i (i / 64) (i % 64))
  (((List.range 4096).zip outs).filterMap (fun (i, o) => if o.val = 0 then none else some (i, o.val)),
    outs.any (·.inx), outs.any (·.sat), outs.any (·.ovf))

/-- The accumulator after the block or float window `w` (R46, R48). -/
def accWindow (a : Acc) (w : List Block) : Acc :=
  let f := (w.head?.map (·.fa)).getD 6
  let r := overElems (fun i m n => if fmtIsBlock f then windowBlock w m n (a.val i) else windowFloat w m n (a.val i))
  { a with vals := r.1, inx := a.inx || r.2.1 }

/-- v after one block of an integer window, and whether an element saturated (R51). -/
def accBlock (a : Acc) (b : Block) : Acc × Bool :=
  let r := overElems (fun i m n => blockInto b m n (a.v.get 0 i))
  ({ a with v := r.1, sat := a.sat || r.2.2.1 }, r.2.2.2)

/-- The promotion point of an integer window, and whether an element saturated (R47). -/
def accPoint (a : Acc) : Acc × Bool :=
  let r := overElems (fun i _ _ => promoteInt (a.v.get 0 i) (a.val i))
  ({ a with vals := r.1, v := [], sat := a.sat || r.2.2.1 }, r.2.2.2)

/-- The window is closed: what it holds becomes a whole window (R276). -/
def closeWindow (a : Acc) : Acc :=
  if a.window.isEmpty then a else { a with closing := a.closing ++ [a.window], window := [] }

/-- Blocks join the open window; every window of L blocks is whole (R275, R276). -/
def addBlocks (a : Acc) (l : List Block) : Acc :=
  l.foldl (fun a b =>
    let w := a.window ++ [b]
    if a.l ≤ w.length then { a with window := [], closing := a.closing ++ [w] } else { a with window := w }) a

/-- ACC_OVERFLOW of accumulator marks is unmasked (R273, R31). -/
def ovfUnmasked (s : State) (t : Nat) (a : Acc) : Bool :=
  a.ovm == 1 || (a.ovm == 2 && bit (s.core (tileIsle t)).fcsr 18)

/-- A saturation marks the accumulator ACC_OVF and sets fcsr.ACC_OVF of the context, where it is loaded on the isle (R31,
R51, R53). -/
def markOvf (s : State) (t a : Nat) : State :=
  let k := tileIsle t
  let s1 := s.updAcc t a (fun x => { x with ovf := true })
  if (s.isle k).ctx = tileCtx s t then s1.updCore k (fun c => { c with fcsr := c.fcsr ||| 0x20 }) else s1

/-- A saturation of an engine command: the mark, and where ACC_OVERFLOW is unmasked its record of the REDUCE operator, which
no token caused (R51, R277). The model raises one record for all elements that one block or one promotion point saturates
(log entry 66). -/
def engineOvf (s : State) (t a : Nat) : State :=
  let s1 := markOvf s t a
  if ovfUnmasked s1 t ((s1.tile t).eng.acc a) then
    faultRecord (s1.updOp t slotREDUCE (fun o => { o with record := some (nextRing s1 (tileIsle t)), rins := [] })) (tileIsle t)
      { tileRecord s1 t 2 .accOverflow 0 with slot := slotREDUCE }
  else s1

/-- The next part of the first whole window of an accumulator: one block, or the promotion point, of an integer window
(R47, R51), and otherwise the window (R276). -/
def promotePart (s : State) (t a : Nat) : State :=
  let x := (s.tile t).eng.acc a
  let put := fun (r : Acc × Bool) =>
    let s1 := s.updAcc t a (fun _ => r.1)
    if r.2 then engineOvf s1 t a else s1
  match x.closing, x.mode with
  | [], _ => s
  | [] :: r, .int => put (accPoint { x with closing := r })
  | (b :: w) :: r, .int => put (accBlock { x with closing := w :: r } b)
  | w :: r, _ => put (accWindow { x with closing := r } w, false)

/-- The parts that the first whole window still has. -/
def windowParts (x : Acc) : Nat :=
  match x.closing, x.mode with
  | w :: _, .int => w.length + 1
  | _ :: _, _ => 1
  | [], _ => 0

/-- `n` parts of the whole windows are accumulated; an unmasked overflow stops them. -/
def promoteParts (s : State) (t a : Nat) : (n : Nat) → State
  | 0 => s
  | n + 1 => if (s.op t slotREDUCE).record.isSome then s else promoteParts (promotePart s t a) t a n

/-- The first whole window of an accumulator is accumulated (R276). -/
def promote (s : State) (t a : Nat) : State := promoteParts s t a (windowParts ((s.tile t).eng.acc a))

/-- Every whole window of an accumulator is accumulated; an unmasked overflow stops it. -/
def promoteAll (s : State) (t a : Nat) : (fuel : Nat) → State
  | 0 => s
  | n + 1 =>
    if ((s.tile t).eng.acc a).closing.isEmpty || (s.op t slotREDUCE).record.isSome then s
    else promoteAll (promote s t a) t a n

/-- The open window is closed and everything accumulated (R276). -/
def flushAcc (s : State) (t a : Nat) : State :=
  let s1 := s.updAcc t a closeWindow
  promoteAll s1 t a ((s1.tile t).eng.acc a).closing.length

/-- The accumulator cleared: L and OVM stay (R278). -/
def clearAcc (a : Acc) : Acc := { Acc.reset with l := a.l, ovm := a.ovm }

/-- An ERR contribution of a cause and origin makes the accumulator absorbing (R55, R277). -/
def absorbAcc (a : Acc) (e : BitVec 6 × Nat) : Acc :=
  if a.absorb.isSome then a else { a with absorb := some e, window := [], closing := [], v := [] }

/-- The origin field of an ERR token (R61). -/
def originOf (t : Nat) : Nat := 2 ^ 11 * tileDie t + 2 ^ 5 * tileX t + tileY t

/-! ### Release (R278, R293) -/

/-- One result element in the release format (R41, R278, R293). -/
def releaseElem (a : Acc) (f : BitVec 4) (i : Nat) : Nat × Bool × Bool :=
  match a.mode with
  | .int =>
    let v := (a.val i).toInt
    if fmtIsInt f then
      let r := satFmt f v
      (wrapPat r.1 (fmtWidth f), false, r.2)
    else
      let r := intToFloat f 0 v
      (r.1, bit r.2 0, false)
  | _ =>
    let x := (a.val i).toNat % 2 ^ 32
    let r := convert 6 f 0 x
    (r.1, bit r.2 0, convertSat 6 f x r.2)

/-- The tokens of a release: one ERR token, or 512 DATA tokens, then the EOR (R278). -/
def releaseTokens (a : Acc) (f : BitVec 4) (frame iter : Nat) : List Token × Nat :=
  match a.absorb with
  | some (c, o) => ([ctlToken kERR iter frame 0 0 (BitVec.ofNat 32 c.toNat) (BitVec.ofNat 32 o)], 1)
  | none =>
    ((List.range 512).map (fun p =>
      let es := (List.range 8).map (fun j => releaseElem a f (8 * p + j))
      dataToken f (es.map (·.1)) (p / 8) frame false (a.sat || es.any (·.2.2)) (a.inx || es.any (·.2.1))), 512)

/-- A release is due: EXPECT is set and reached (R278). -/
def releaseDue (x : Acc) : Bool := x.expect.any (fun n => decide (n ≤ x.count))

/-- The accumulator cleared after its release, with the partial counts of its inputs and the output's count (R278, R294). -/
def clearReleased (s : State) (t a : Nat) : State :=
  (s.updAcc t a clearAcc).updOp t slotREDUCE (fun o =>
    { o with parts := o.parts.filter (fun e => bits (o.reg 0) (8 + e.1) (8 + e.1) != a), sent := o.sent.put a 0 })

/-- A release where it is due (R278). A saturation in its last window, or an output route that fails R63, leaves a record of
REDUCE that no token caused, and the release goes on with its RESUME (R277, R288). -/
def releaseIf (s : State) (t a : Nat) : State :=
  if releaseDue ((s.tile t).eng.acc a) && (s.op t slotREDUCE).record.isNone then
    let s1 := flushAcc s t a
    let y := (s1.tile t).eng.acc a
    if !y.closing.isEmpty || (s1.op t slotREDUCE).record.isSome then s1
    else
      let f := ((s.op t slotREDUCE).reg 0).extractLsb' (4 * a) 4
      let (l, cnt) := releaseTokens y f (Config.releaseFrame s.free) (Config.releaseIter s.free)
      let all := l ++ [ctlToken kEOR (Config.releaseIter s.free) (Config.releaseFrame s.free) 0 0 (BitVec.ofNat 32 cnt) 0]
      match emitAll s1 t slotREDUCE a all with
      | .ok s2 => clearReleased s2 t a
      | .error (c, v) =>
        faultRecord (s1.updOp t slotREDUCE (fun o => { o with record := some (nextRing s1 (tileIsle t)), rins := [] }))
          (tileIsle t) { tileRecord s1 t 2 c v with slot := slotREDUCE }
  else s

/-- What REDUCE has to do once a record of its own is acted on: releases that are due, whose windows go on from the
saturated value (R277, R278). -/
def settleReduce (s : State) (t : Nat) : State := releaseIf (releaseIf s t 0) t 1

/-- EXPECT set by a MEOR or an EOR token, and the release it may bring at once (R281). -/
def setExpect (s : State) (t a n : Nat) : State :=
  releaseIf (s.updAcc t a (fun x => { x with expect := some n })) t a

/-! ### The engine's queue (R274 to R276, R281) -/

/-- The engine of tile `t` may perform a command (R277, R390). -/
def engineLive (s : State) (t : Nat) : Bool :=
  fetchLive s t && (s.op t slotREDUCE).record.isNone

/-- The rows of a slot as blocks: for block `j`, the scale word and 16 codes of each row. -/
def slotBlock (v : Slot) (words : Tbl (BitVec 16)) (j : Nat) : List (BitVec 16 × List Nat) :=
  v.data.mapIdx (fun r row => (words.get 0 (4 * r + j), (row.drop (16 * j)).take 16))

/-- A queued step of a slot is over: CONSUMED and RELEASING slots are released when none is left (R272). -/
def retireSlot (s : State) (t n : Nat) : State :=
  let s1 := s.updSlot t n (fun v => { v with queued := v.queued - 1 })
  let v := (s1.tile t).slot n
  if v.queued = 0 ∧ (v.st = .consumed ∨ v.st = .releasing) then releaseSlot s1 t n else s1

/-- The head of the queue taken off. -/
def popCmd (s : State) (t : Nat) : State := s.updTile t (fun v => { v with eng := { v.eng with queue := v.eng.queue.tail } })

/-- On a frozen tile the open windows close once the queue is empty (R276, R283). -/
def settleFrozen (s : State) (t : Nat) : State :=
  if (s.tile t).frozen && (s.tile t).eng.queue.isEmpty then flushAcc (flushAcc s t 0) t 1 else s

/-- A step is performed (R275, R277). -/
def performStep (s : State) (t acc a b : Nat) (int : Bool) (sa sb : Tbl (BitVec 16)) : State :=
  let va := (s.tile t).slot a
  let vb := (s.tile t).slot b
  let blocks : List Block := (List.range 4).map (fun j => ⟨va.fmt, vb.fmt, slotBlock va sa j, slotBlock vb sb j⟩)
  let x := (s.tile t).eng.acc acc
  let x1 := if x.mode = .empty then { x with mode := if int then .int else .float, fa := va.fmt, fb := vb.fmt, partial0 := false }
    else x
  let x2 := { x1 with count := x1.count + 1 }
  let x3 := if x2.absorb.isSome then x2
    else if blocks.any blockInvalid then absorbAcc x2 (causeCode .fpInvalid, originOf t)
    else addBlocks x2 blocks
  let s1 := s.updAcc t acc (fun _ => x3)
  let s2 := if fmtIsFloat va.fmt then flushAcc s1 t acc else s1
  let s3 := retireSlot (popCmd s2 t) t a
  let s4 := if a = b then s3 else retireSlot s3 t b
  settleFrozen (releaseIf s4 t acc) t

/-- The step at the head of the queue is performed once its operands are there (R275, R285). -/
def engineStepOf (s : State) (t : Nat) : State :=
  if engineLive s t then
    match (s.tile t).eng.queue with
    | .step acc a b int sa sb :: _ =>
      if ((s.tile t).slot a).data.length = 64 ∧ ((s.tile t).slot b).data.length = 64 then performStep s t acc a b int sa sb
      else s
    | _ => s
  else s

/-- MACC performed (R281). -/
def performMacc (s : State) (t : Nat) : State :=
  if engineLive s t then
    match (s.tile t).eng.queue with
    | .macc a l ovm :: _ =>
      let s1 := flushAcc s t a
      if ((s1.tile t).eng.acc a).closing.isEmpty then
        settleFrozen (popCmd (s1.updAcc t a (fun x => { x with l := l, ovm := ovm })) t) t
      else s1
    | _ => s
  else s

/-- MZERO performed (R281). -/
def performMzero (s : State) (t : Nat) : State :=
  if engineLive s t then
    match (s.tile t).eng.queue with
    | .mzero a :: _ => settleFrozen ((popCmd (s.updAcc t a clearAcc) t).updOp t slotREDUCE (fun o =>
        { o with parts := o.parts.filter (fun e => bits (o.reg 0) (8 + e.1) (8 + e.1) != a) })) t
    | _ => s
  else s

/-- MEOR performed (R281). -/
def performMeor (s : State) (t : Nat) : State :=
  if engineLive s t then
    match (s.tile t).eng.queue with
    | .meor a n :: _ => settleFrozen (setExpect (popCmd s t) t a n) t
    | _ => s
  else s

/-! ### Queuing a command (R274, R280) -/

/-- What an accumulator would be once the queued commands are performed (R280): MODE is EMPTY or the pair, COUNT, EXPECT. -/
structure IssueView where
  pair : Option (BitVec 4 × BitVec 4)
  count : Nat
  expect : Option Nat
  deriving DecidableEq, Repr

/-- A release in the issue view. -/
def IssueView.settle (v : IssueView) : IssueView :=
  match v.expect with
  | some n => if n ≤ v.count then ⟨none, 0, none⟩ else v
  | none => v

/-- The pair of an accumulator: none where MODE is EMPTY; partial tokens give a pair that no MMA has (R294). -/
def accPair (a : Acc) : Option (BitVec 4 × BitVec 4) :=
  if a.mode = .empty then none else if a.partial0 then some (15, 15) else some (a.fa, a.fb)

/-- The issue view of accumulator `a` of tile `t` (R280). -/
def issueView (s : State) (t a : Nat) : IssueView :=
  let x := (s.tile t).eng.acc a
  ((s.tile t).eng.queue).foldl (fun v c =>
    match c with
    | .step acc sa sb _ _ _ =>
      if acc = a then
        IssueView.settle { v with
          pair := some (v.pair.getD (((s.tile t).slot sa).fmt, ((s.tile t).slot sb).fmt)), count := v.count + 1 }
      else v
    | .macc _ _ _ => v
    | .mzero acc => if acc = a then ⟨none, 0, none⟩ else v
    | .meor acc n => if acc = a then IssueView.settle { v with expect := some n } else v) ⟨accPair x, x.count, x.expect⟩

/-- A format pair that MMA or MMAI accepts (R44, R280). -/
def pairOk (int : Bool) (fa fb : BitVec 4) : Bool :=
  if int then fa == fb && (fa == 2 || fa == 4)
  else matrixFmt fa && !fmtIsInt fa && (fa == fb || (fa == 9 && fb == 10) || (fa == 10 && fb == 9))

/-- The checks of R280 after step 2, in order: the slots, the pair, the tags. -/
def stepFault (s : State) (t acc a b : Nat) (int : Bool) : Option (Cause × Word64) :=
  let va := (s.tile t).slot a
  let vb := (s.tile t).slot b
  if va.st ≠ .ready then some (.descInvalid, BitVec.ofNat 64 (a + 1))
  else if vb.st ≠ .ready then some (.descInvalid, BitVec.ofNat 64 (b + 1))
  else
    let view := (issueView s t acc).pair
    if ¬ pairOk int va.fmt vb.fmt ∨ (view.isSome ∧ view ≠ some (va.fmt, vb.fmt)) then
      some (.formatUnsupported, Config.pairTval va.fmt vb.fmt)
    else if fmtIsBlock va.fmt then
      let i := s.isle (tileIsle t)
      (tagCheck i (tileCtx s t) va.tag 0).orElse (fun _ => tagCheck i (tileCtx s t) vb.tag 1)
    else none

/-- The words that a slot's tag names, as the step takes them (R261, R280). -/
def snapshotWords (s : State) (t : Nat) (v : Slot) : Tbl (BitVec 16) :=
  match v.tag with
  | some (r, _) => if fmtIsBlock v.fmt then ((s.isle (tileIsle t)).scale r).words else []
  | none => []

/-- A command joins the engine queue (R274). -/
def pushCmd (s : State) (t : Nat) (c : EngCmd) : State :=
  s.updTile t (fun v => { v with eng := { v.eng with queue := v.eng.queue ++ [c] } })

/-- A step is queued: the words are snapshot and the slots move (R272, R280). -/
def queueStep (s : State) (t acc a b : Nat) (int : Bool) : State :=
  let va := (s.tile t).slot a
  let vb := (s.tile t).slot b
  let use := fun (v : Slot) => { v with st := if v.keep then .ready else .consumed, queued := v.queued + 1 }
  let s1 := pushCmd s t (.step acc a b int (snapshotWords s t va) (snapshotWords s t vb))
  let s2 := s1.updSlot t a use
  if a = b then s2 else s2.updSlot t b use

/-- The entries of the engine queue that a running task may still use count as taken (R274). -/
def engineRoom (s : State) (t : Nat) : Nat :=
  let owed := match (s.cell t).task with
    | some k => 4 - k.engCmds
    | none => 0
  16 - ((s.tile t).eng.queue.length + owed)

/-- A command of the running task; the fifth raises ROUTINE_OVERRUN (R274). -/
def engCheck (s : State) (t : Nat) : Except Stop Unit :=
  check (decide ((s.task t).engCmds < 4)) s .routineOverrun 3

/-- The command is counted against the task and queued. -/
def engIssue (s : State) (t : Nat) (c : EngCmd) : Done :=
  fall (pushCmd (s.updTask t (fun k => { k with engCmds := k.engCmds + 1 })) t c)

/-- An accumulator number: bit 0 only (R279). -/
def accOk (a : Word64) : Bool := decide (a.toNat ≤ 1)

/-- MMA and MMAI (R280). -/
def mmaBody (a b c : BitVec 5) (int : Bool) (t : Nat) (s : State) : Done := do
  let x ← sGetL s t a
  let y ← sGetL s t b
  let z ← sGetL s t c
  engCheck s t
  check (handleOk x && handleOk y && accOk z) s .reservedField 0
  match stepFault s t z.toNat (x.toNat - 1) (y.toNat - 1) int with
  | some (cause, v) => raise s cause v
  | none =>
    fall (queueStep (s.updTask t (fun k => { k with engCmds := k.engCmds + 1 })) t z.toNat (x.toNat - 1) (y.toNat - 1) int)

/-- MACC (R281). -/
def maccBody (a b : BitVec 5) (t : Nat) (s : State) : Done := do
  let x ← sGetL s t a
  let y ← sGetL s t b
  engCheck s t
  check (accOk x && decide (bits y 63 10 = 0) && !bit y 7 && decide (1 ≤ bits y 6 0) && decide (bits y 6 0 ≤ 64) &&
    decide (bits y 9 8 ≠ 3)) s .reservedField 0
  engIssue s t (.macc x.toNat (bits y 6 0) (y.extractLsb' 8 2))

/-- MZERO (R281). -/
def mzeroBody (a : BitVec 5) (t : Nat) (s : State) : Done := do
  let x ← sGetL s t a
  engCheck s t
  check (accOk x) s .reservedField 0
  engIssue s t (.mzero x.toNat)

/-- MEOR (R281). -/
def meorBody (a b : BitVec 5) (t : Nat) (s : State) : Done := do
  let x ← sGetL s t a
  let y ← sGetL s t b
  engCheck s t
  check (accOk x && decide (bits y 63 32 = 0)) s .reservedField 0
  engIssue s t (.meor x.toNat (bits y 31 0))

/-- MRD (R282). -/
def mrdBody (d a b : BitVec 5) (t : Nat) (s : State) : Done := do
  let x ← sGetL s t a
  let y ← sGetL s t b
  check (accOk x && decide (bits y 63 12 = 0) && decide (bits y 2 0 = 0)) s .reservedField 0
  let acc := (s.tile t).eng.acc x.toNat
  let e := bits y 11 0
  let sats := (List.range 8).any (fun i => (satFmt 0 (acc.val (e + i)).toInt).2)
  let lane := fun (i : Nat) =>
    if acc.absorb.isSome then (0x7FC00000 : Word32)
    else match acc.mode with
      | .empty => 0
      | .float => (acc.val (e + i)).extractLsb' 0 32
      | .int => BitVec.ofInt 32 (satFmt 0 (acc.val (e + i)).toInt).1
  let f := flagIf acc.ovf flagACC ||| flagIf (acc.mode == .int && acc.absorb.isNone && sats) flagSAT
  if acc.ovf && bit (s.cell t).vf 18 then raise (setVf s t flagACC) .accOverflow 0
  else fall (lSet (setVf s t f) t d (Lanes.ofFn lane))

/-! ### Meanings -/

/-- A prefix of payload 0 or none (R268). -/
def noPayload (s : State) : Bool := decide (extPayload (payload s s.active) = 0)

/-- TFETCH: a slot of the cell's M-tile, or a prefetch on a core (R268 to R271). -/
def execTfetch (d : BitVec 5) (a : BitVec 5) (b : BitVec 5) (n : BitVec 8) (s : State) : Host.Outcome State Fault Refusal :=
  .next (unitCL 4 true ⟨.user, noPayload s, true, tfetchCore d a b n⟩
    ⟨true, true, noPayload s && dstL d && srcL a && srcL b, true, 2, tfetchCell d a b n⟩ s)

/-- TREL (R268, R272). -/
def execTrel (a : BitVec 5) (v0 : BitVec 5) (v1 : BitVec 13) (s : State) : Host.Outcome State Fault Refusal :=
  .next (unitL 4 true ⟨true, true, noPayload s && v0 == 0 && v1 == 0 && srcL a, true, 1, trelBody a⟩ s)

/-- MMA (R279, R280). -/
def execMma (a : BitVec 5) (b : BitVec 5) (c : BitVec 5) (v0 : BitVec 5) (s : State) : Host.Outcome State Fault Refusal :=
  .next (unitL 4 false ⟨true, true, v0 == 0 && srcL a && srcL b && srcL c, true, 2, mmaBody a b c false⟩ s)

/-- MMAI (R279, R280). -/
def execMmai (a : BitVec 5) (b : BitVec 5) (c : BitVec 5) (v0 : BitVec 5) (s : State) : Host.Outcome State Fault Refusal :=
  .next (unitL 4 false ⟨true, true, v0 == 0 && srcL a && srcL b && srcL c, true, 2, mmaBody a b c true⟩ s)

/-- MACC (R281). -/
def execMacc (a : BitVec 5) (b : BitVec 5) (v0 : BitVec 5) (v1 : BitVec 5) (s : State) : Host.Outcome State Fault Refusal :=
  .next (unitL 4 false ⟨true, true, v0 == 0 && v1 == 0 && srcL a && srcL b, true, 1, maccBody a b⟩ s)

/-- MZERO (R281). -/
def execMzero (a : BitVec 5) (v0 : BitVec 5) (v1 : BitVec 10) (s : State) : Host.Outcome State Fault Refusal :=
  .next (unitL 4 false ⟨true, true, v0 == 0 && v1 == 0 && srcL a, true, 1, mzeroBody a⟩ s)

/-- MEOR (R281). -/
def execMeor (a : BitVec 5) (b : BitVec 5) (v0 : BitVec 5) (v1 : BitVec 5) (s : State) : Host.Outcome State Fault Refusal :=
  .next (unitL 4 false ⟨true, true, v0 == 0 && v1 == 0 && srcL a && srcL b, true, 1, meorBody a b⟩ s)

/-- MRD (R282). -/
def execMrd (d : BitVec 5) (a : BitVec 5) (b : BitVec 5) (v0 : BitVec 5) (s : State) : Host.Outcome State Fault Refusal :=
  .next (unitL 4 false ⟨true, true, v0 == 0 && dstL d && srcL a && srcL b, true, 3, mrdBody d a b⟩ s)

/-- ENGINE_STEP (R275): the queued step at the head is performed and retires; a release that it brings needs credit
(R288). -/
def execEngineStep (t : Nat) (s : State) : Host.Outcome State Fault Refusal := .next (withCredit s (engineStepOf s t))

/-- PROMOTION_WINDOW (R276): a whole window is accumulated. -/
def execPromotionWindow (t : Nat) (a : Nat) (s : State) : Host.Outcome State Fault Refusal :=
  .next (if engineLive s t && decide (a < 2) then promote s t a else s)

/-- MACC_PERFORM (R281). -/
def execMaccPerform (t : Nat) (s : State) : Host.Outcome State Fault Refusal := .next (performMacc s t)

/-- MZERO_PERFORM (R281). -/
def execMzeroPerform (t : Nat) (s : State) : Host.Outcome State Fault Refusal := .next (performMzero s t)

/-- MEOR_PERFORM (R281). -/
def execMeorPerform (t : Nat) (s : State) : Host.Outcome State Fault Refusal := .next (withCredit s (performMeor s t))

/-- FETCH_COMPLETE (R270); its ready token needs credit (R75). -/
def execFetchComplete (t : Nat) (h : Nat) (s : State) : Host.Outcome State Fault Refusal :=
  .next (withCredit s (fetchCompleteStep s t h))

/-- FETCH_FAULT (R270). -/
def execFetchFault (t : Nat) (h : Nat) (s : State) : Host.Outcome State Fault Refusal := .next (fetchFaultStep s t h)

/-- PREFETCH_COMPLETE (R271). -/
def execPrefetchComplete (k : Nat) (n : Nat) (s : State) : Host.Outcome State Fault Refusal :=
  .next (withCredit s (prefetchStep s k n))

end Sys2Proof.Machine
end

