-- ==== Sys2Proof/Machine/Opers.lean ====
section
/-! DEFINITION. The stream operators but MEMORY: MATRIX and REDUCE (R292 to R294), MAP and CONVERT (R295, R296), SELECT,
LUT, FILTER and COUNT (R297 to R301), MERGE, SPLIT and DELAY (R305). -/

namespace Sys2Proof.Machine

/-! ### Shared operations -/

/-- A firing of an operator on the head of input 0: a DATA token by `data`, any other by `ctl`. -/
def fire1By (s : State) (t c : Nat) (data ctl : State → Token → Except (Cause × Word64) State) : State :=
  fireOp s t c [0] (fun s =>
    match opHead s t c 0 with
    | none => none
    | some tok => some (if hKind tok.hdr = kDATA then data s tok else ctl s tok))

/-- A firing of an operator on the head of input 0: a DATA token by `data`, any other under R290. -/
def fire1 (s : State) (t c : Nat) (outs : List Nat) (data : State → Token → Except (Cause × Word64) State) : State :=
  fire1By s t c data (fun s tok => ctlFire s t c 0 outs tok)

/-- A firing of an operator that joins inputs 0 and 1 where `two`: both heads DATA fire together with equal LEN, and any
other token goes by itself (R290, R295, R300). -/
def fire2 (s : State) (t c : Nat) (two : Bool) (outs : List Nat)
    (data : State → Token → Token → Except (Cause × Word64) State) : State :=
  fireOp s t c (if two then [0, 1] else [0]) (fun s =>
    match opHead s t c 0, (if two then opHead s t c 1 else none) with
    | some x, y =>
      if hKind x.hdr ≠ kDATA then some (ctlFire s t c 0 outs x)
      else if two then
        match y with
        | none => none
        | some y =>
          if hKind y.hdr ≠ kDATA then some (ctlFire s t c 1 outs y)
          else if hLen x.hdr ≠ hLen y.hdr then some (.error (.reservedField, 0))
          else some (data s x y)
      else some (data s x x)
    | none, some y => if hKind y.hdr ≠ kDATA then some (ctlFire s t c 1 outs y) else none
    | none, none => none)

/-- The element patterns of two tokens in pairs. -/
def pairElems (x y : Token) : List (Nat × Nat) := (elemsOf x).zip (elemsOf y)

/-! ### MATRIX (R292) -/

/-- The handles and the accumulator of a MATRIX token; none where a reserved bit is set. -/
def matrixArgs (r0 : Word32) (tok : Token) : Option (Nat × Nat × Nat) :=
  let n := hLen tok.hdr
  let l := fun (i : Nat) => ((tokenLanes tok).getD i 0).toNat
  let acc := if 2 ≤ n then l 2 else b2n (bit r0 1)
  if 16 ≤ l 0 ∨ 16 ≤ l 1 ∨ 2 ≤ acc ∨ (List.range 5).any (fun i => decide (l (3 + i) ≠ 0)) then none
  else some (l 0, l 1, acc)

/-- A DATA token at MATRIX queues a step with the checks of R280 (R292). -/
def matrixData (t : Nat) (s : State) (tok : Token) : Except (Cause × Word64) State :=
  let r0 := (s.op t slotMATRIX).reg 0
  match matrixArgs r0 tok with
  | none => .error (.reservedField, 0)
  | some (a, b, acc) =>
    if handleOk (BitVec.ofNat 64 a) && handleOk (BitVec.ofNat 64 b) then
      match stepFault s t acc (a - 1) (b - 1) (bit r0 0) with
      | some e => .error e
      | none =>
        .ok (queueStep ((popIn s t slotMATRIX 0).updOp t slotMATRIX (fun o => o.bump 1 1)) t acc (a - 1) (b - 1) (bit r0 0))
    else .error (.reservedField, 0)

/-- MATRIX fires: DATA and EOR wait for a free entry of the engine queue; EOS and GAP are consumed (R292). -/
def matrixStep (s : State) (t : Nat) : State :=
  fireOp s t slotMATRIX [0] (fun s =>
    match opHead s t slotMATRIX 0 with
    | none => none
    | some tok =>
      let k := hKind tok.hdr
      if k = kDATA then if engineRoom s t = 0 then none else some (matrixData t s tok)
      else if k = kEOR then
        if engineRoom s t = 0 then none
        else some (.ok (pushCmd (popIn s t slotMATRIX 0) t
          (.meor (b2n (bit ((s.op t slotMATRIX).reg 0) 1)) tok.lanes.l0.toNat)))
      else some (ctlFire s t slotMATRIX 0 [] tok))

/-! ### REDUCE (R293, R294) -/

/-- The accumulator of input `i`. -/
def accOf (o : Op) (i : Nat) : Nat := b2n (bit (o.reg 0) (8 + i))

/-- Token p of input 1 waits for token p of input 0 where both feed one accumulator (R294), input 0 being routed (log entry
69). -/
def partialTurn (s : State) (t i : Nat) : Bool :=
  let o := s.op t slotREDUCE
  let both := accOf o 0 == accOf o 1 && (routedInputs s t slotREDUCE).contains 0
  i != 1 || !both || decide (o.parts.get 0 1 < o.parts.get 0 0)

/-- An accumulator after the elements of a partial token at place `p`, and whether one saturated (R294). -/
def addPartial (x : Acc) (f : BitVec 4) (tok : Token) (p : Nat) : Acc × Bool :=
  let x2 := if x.mode = .empty then
      { x with mode := if f = 6 then .float else .int, fa := f, fb := f, partial0 := true }
    else x
  if x2.absorb.isSome then (x2, false)
  else
    let outs := (elemsOf tok).mapIdx (fun j e =>
      let i := 8 * p + j
      if f = 6 then
        let r := addF32 ((x2.val i).toNat % 2 ^ 32) e
        (i, BitVec.ofNat 64 r.1, r.2, false)
      else
        let r := clampS 64 ((x2.val i).toInt + intOf 0 e)
        (i, word64 r.1, false, r.2))
    ({ x2 with
      vals := outs.foldl (fun (m : Tbl Word64) (r : Nat × Word64 × Bool × Bool) => if r.2.1 = 0 then m.erase r.1 else m.put r.1 r.2.1) x2.vals,
      inx := x2.inx || hInx tok.hdr || outs.any (fun r => r.2.2.1),
      sat := x2.sat || hSat tok.hdr || outs.any (fun r => r.2.2.2) }, outs.any (fun r => r.2.2.2))

/-- A partial token at input `i` has been added: it is consumed and counted (R294). -/
def countPartial (s : State) (t i : Nat) : State :=
  let a := accOf (s.op t slotREDUCE) i
  let s1 := (popIn s t slotREDUCE i).updOp t slotREDUCE (fun o =>
    { o.bump 1 1 with parts := o.parts.put i (o.parts.get 0 i + 1) })
  releaseIf (s1.updAcc t a (fun x => { x with count := x.count + 1 })) t a

/-- A partial token at input `i` is added, giving the accumulator `x`. A saturation marks it; unmasked, ACC_OVERFLOW is
raised, the token stays at its head, and RESUME counts it without adding it again (R51, R277, R288; log entry 66). -/
def takePartial (s : State) (t i : Nat) (x : Acc × Bool) : State :=
  let a := accOf (s.op t slotREDUCE) i
  let s1 := s.updAcc t a (fun _ => x.1)
  if x.2 then
    let s2 := markOvf s1 t a
    if ovfUnmasked s2 t ((s2.tile t).eng.acc a) then
      opFault (s2.updOp t slotREDUCE (fun o => { o with added := true })) t slotREDUCE [i] .accOverflow 0
    else countPartial s2 t i
  else countPartial s1 t i

/-- A DATA or ERR token at input `i` of REDUCE (R55, R294). -/
def reduceData (t i : Nat) (s : State) (tok : Token) : Except (Cause × Word64) State :=
  let o := s.op t slotREDUCE
  let x := (s.tile t).eng.acc (accOf o i)
  let p := o.parts.get 0 i
  let f := hType tok.hdr
  if hKind tok.hdr = kERR then
    if 512 ≤ p then .error (.reservedField, 0)
    else .ok (takePartial s t i (absorbAcc x (tok.lanes.l0.extractLsb' 0 6, bits tok.lanes.l1 12 0), false))
  else if i = 2 ∨ hLen tok.hdr ≠ 7 then .error (.reservedField, 0)
  else if (f ≠ 6 ∧ f ≠ 0) ∨ (x.mode ≠ .empty ∧ (x.partial0 = false ∨ x.fa ≠ f)) then
    .error (.formatUnsupported, 0)
  else if 512 ≤ p then .error (.reservedField, 0)
  else .ok (takePartial s t i (addPartial x f tok p))

/-- REDUCE takes the head of input `i` unless it is an EOR. -/
def reduceStep (s : State) (t i : Nat) : State :=
  fireOp s t slotREDUCE [i] (fun s =>
    match opHead s t slotREDUCE i with
    | none => none
    | some tok =>
      let k := hKind tok.hdr
      if 3 ≤ i ∨ k = kEOR then none
      else if k = kDATA ∨ k = kERR then if partialTurn s t i then some (reduceData t i s tok) else none
      else some (ctlFire s t slotREDUCE i [0, 1] tok))

/-- REDUCE takes an EOR at the head of input `i`: as MEOR where EORIN allows, and otherwise it is consumed (R293). -/
def reduceEorStep (s : State) (t i : Nat) : State :=
  fireOp s t slotREDUCE [i] (fun s =>
    match opHead s t slotREDUCE i with
    | none => none
    | some tok =>
      if 3 ≤ i ∨ hKind tok.hdr ≠ kEOR then none
      else
        let o := s.op t slotREDUCE
        let s1 := popIn s t slotREDUCE i
        some (.ok (if bit (o.reg 0) (11 + i) then setExpect s1 t (accOf o i) tok.lanes.l0.toNat else s1)))

/-! ### MAP (R295) -/

/-- round_mode(a / 2^k, rm) with whether it was inexact (R59, R295). -/
def shiftRound (rm : RMode) (a : Int) (k : Nat) : Int × Bool :=
  let r := roundShift rm (decide (a < 0)) a.natAbs (-(k : Int))
  (if a < 0 then -(r.1 : Int) else r.1, r.2)

/-- One integer element of MAP. -/
def mapInt (op : Nat) (ty : BitVec 4) (q : Bool) (rm : RMode) (a b c : Nat) : Nat × Bool × Bool :=
  let w := fmtWidth ty
  let fin := fun (r : Nat × FlagSet) => (r.1, false, bit r.2 6)
  match op with
  | 0 => (a, false, false)
  | 1 => fin (elemAdd ty q rm a b)
  | 2 => fin (elemSub ty q rm a b)
  | 3 => fin (elemMul ty q rm a b)
  | 4 => fin (elemFma ty q rm a b c)
  | 5 => fin (elemMinMax ty false false a b)
  | 6 => fin (elemMinMax ty false true a b)
  | 7 => fin (intResult ty q (intOf ty a).natAbs)
  | 8 => fin (intResult ty q (-(intOf ty a)))
  | 9 => fin (elemMinMax ty false true a 0)
  | 10 => let r := shiftRound rm (intOf ty a) (b % 32); (wrapPat r.1 w, r.2, false)
  | 11 => (a * 2 ^ (b % w) % 2 ^ w, false, false)
  | 12 => (a &&& b, false, false)
  | 13 => (a ||| b, false, false)
  | _ => ((a ^^^ b) % 2 ^ w, false, false)

/-- One float element of MAP; no flag but inexactness is kept. -/
def mapFloat (op : Nat) (ty : BitVec 4) (rm : RMode) (a b c : Nat) : Nat × Bool × Bool :=
  let p := floatFmt ty
  let fin := fun (r : Nat × FlagSet) => (r.1, bit r.2 0, false)
  match op with
  | 0 => (a, false, false)
  | 1 => fin (fAdd p rm a b)
  | 2 => fin (fSub p rm a b)
  | 3 => fin (fMul p rm a b)
  | 4 => fin (fFma p rm a b c)
  | 5 => fin (fMinMax p false a b)
  | 6 => fin (fMinMax p true a b)
  | 7 => (laneAbs p a, false, false)
  | 8 => (laneNeg p a, false, false)
  | _ => fin (fMinMax p true a 0)

/-- A DATA token of MAP, with the element of input 1 or C0 as b (R295). -/
def mapData (t : Nat) (s : State) (x y : Token) : Except (Cause × Word64) State := do
  let o := s.op t slotMAP
  let r0 := o.reg 0
  let ty := r0.extractLsb' 4 4
  let two := bit r0 11
  typeCheck x ty
  typeCheck (if two then y else x) ty
  let w := fmtWidth ty
  let c0 := (o.reg 1).toNat % 2 ^ w
  let c1 := (o.reg 2).toNat % 2 ^ w
  let rm := r0.extractLsb' 8 2
  let one := fun (ab : Nat × Nat) =>
    let b := if two then ab.2 else c0
    if fmtIsInt ty then mapInt (bits r0 3 0) ty (bit r0 10) rm ab.1 b c1 else mapFloat (bits r0 3 0) ty rm ab.1 b c1
  let rs := (pairElems x y).map one
  let s1 := popIn s t slotMAP 0
  let s2 := if two then popIn s1 t slotMAP 1 else s1
  emit s2 t slotMAP 0 (dataToken ty (rs.map (·.1)) (hIter x.hdr) (hFrame x.hdr) false
    (hSat x.hdr || hSat y.hdr || rs.any (·.2.2)) (hInx x.hdr || hInx y.hdr || rs.any (·.2.1)))

/-- MAP fires. -/
def mapStep (s : State) (t : Nat) : State :=
  fire2 s t slotMAP (bit ((s.op t slotMAP).reg 0) 11) [0] (mapData t)

/-! ### CONVERT (R73, R296) -/

/-- Two headers agree in every field except LEN and the status bits (R73). -/
def agreeHdr (a b : Word64) : Bool :=
  let m := fun (h : Word64) => putBits (putBits h 51 49 0) 62 60 0
  m a == m b

/-- The header with the status bits of another ORed in (R62, R73). -/
def orStatus (a b : Word64) : Word64 := a ||| putBits (putBits b 59 0 0) 63 63 0

/-- A DATA header with a type, a number of elements and status bits. -/
def retype (h : Word64) (ty : BitVec 4) (n : Nat) (gap sat inx : Bool) : Word64 :=
  putStatus (putBits (putBits (putBits h 55 52 ty.toNat) 51 49 (n - 1)) 62 62 (b2n gap)) sat inx

/-- The held packet of a merge leaves (R73). -/
def flushHold (s : State) (t : Nat) : Except (Cause × Word64) State :=
  match (s.op t slotCONVERT).buf with
  | tok :: _ => emit (s.updOp t slotCONVERT (fun o => { o with buf := [] })) t slotCONVERT 0 tok
  | [] => .ok s

/-- A converted token joins the held packet, which leaves at 8 elements (R73). -/
def mergeHold (s : State) (t : Nat) (tok : Token) : Except (Cause × Word64) State :=
  let join := fun (s : State) (h : Token) =>
    let a := (List.range (hLen h.hdr + 1)).map h.lanes.get
    let b := (List.range (hLen tok.hdr + 1)).map tok.lanes.get
    let all := a ++ b
    let mk := fun (hdr : Word64) (l : List Word32) => (⟨putBits hdr 51 49 (l.length - 1), Lanes.ofList l⟩ : Token)
    let hdr := orStatus h.hdr tok.hdr
    let hold := fun (s : State) (l : List Token) => s.updOp t slotCONVERT (fun o => { o with buf := l })
    if all.length < 8 then Except.ok (hold s [mk hdr all])
    else
      let rest := all.drop 8
      emit (hold s (if rest.isEmpty then [] else [mk tok.hdr rest])) t slotCONVERT 0 (mk hdr (all.take 8))
  match (s.op t slotCONVERT).buf with
  | h :: _ =>
    if agreeHdr h.hdr tok.hdr then join s h
    else
      match flushHold s t with
      | .ok s1 => if hLen tok.hdr = 7 then emit s1 t slotCONVERT 0 tok else .ok (s1.updOp t slotCONVERT (fun o => { o with buf := [tok] }))
      | .error e => .error e
  | [] => if hLen tok.hdr = 7 then emit s t slotCONVERT 0 tok else .ok (s.updOp t slotCONVERT (fun o => { o with buf := [tok] }))

/-- The block token of 16 FP32 elements (R42, R296). -/
def blockToken (ty : BitVec 4) (h : Word64) (es : List Nat) (sat inx : Bool) : Token :=
  let r := toBlock (fmtQ ty) es
  let w := fmtWidth ty
  let packed := r.codes.foldr (fun c acc => c + 2 ^ w * acc) 0
  let n := (blockBytes ty + 3) / 4
  let lanes := (List.range n).map (fun i => BitVec.ofNat 32 (packed / 2 ^ (32 * i))) ++ [BitVec.ofNat 32 r.word.toNat]
  ⟨retype h ty (n + 1) false (sat || bit r.flags 6) (inx || bit r.flags 0), Lanes.ofList lanes⟩

/-- FRAME and ITER of a block that several tokens filled: theirs where they agree, and otherwise a free value (R296, log
entry 13). -/
def blockHdr (a b : Word64) : Word64 :=
  if bits a 48 27 = bits b 48 27 then orStatus a b
  else putBits (orStatus a b) 48 27 (Config.mixedTag (bits a 48 27) (bits b 48 27))

/-- The control tokens that waited for the outputs of an open block or column leave (R290). -/
def emitPend (s : State) (t c : Nat) (outs : List Nat) : Except (Cause × Word64) State :=
  (s.op t c).pend.foldlM (fun s tok => emitOn s t c outs tok) (s.updOp t c (fun o => { o with pend := [] }))

/-- A control token leaves in its stream position (R290): at once, or after the outputs of the earlier tokens whose elements
`held` says are not out yet. -/
def holdCtl (s : State) (t c : Nat) (outs : List Nat) (held : Bool) (tok : Token) : Except (Cause × Word64) State :=
  if held then .ok ((popIn s t c 0).updOp t c (fun o => { o with pend := o.pend ++ [tok] }))
  else ctlFire s t c 0 outs tok

/-- The first 16 gathered elements leave as a block, and after them the control tokens that came among them (R290, R296). -/
def gatherOut (s : State) (t : Nat) (ty : BitVec 4) (h : Word64) : Except (Cause × Word64) State := do
  let es := (s.op t slotCONVERT).elems
  let s1 ← emit (s.updOp t slotCONVERT (fun o => { o with elems := es.drop 16 })) t slotCONVERT 0
    (blockToken ty h ((es.take 16).map (·.toNat)) (hSat h) (hInx h))
  emitPend s1 t slotCONVERT [0]

/-- An FP32 token's elements gathered into blocks (R296). -/
def gatherIn (s : State) (t : Nat) (ty : BitVec 4) (tok : Token) : Except (Cause × Word64) State := do
  let o := s.op t slotCONVERT
  let h := match o.block with
    | some b => blockHdr b.1 tok.hdr
    | none => tok.hdr
  let s1 := s.updOp t slotCONVERT (fun o => { o with elems := o.elems ++ tokenLanes tok, block := some (h, ty) })
  if (s1.op t slotCONVERT).elems.length < 16 then return s1
  let s2 ← gatherOut s1 t ty h
  return s2.updOp t slotCONVERT (fun o => { o with block := if o.elems.isEmpty then none else some (tok.hdr, ty) })

/-- An incomplete block is padded with +0 elements and leaves (R296). -/
def padBlock (s : State) (t : Nat) : Except (Cause × Word64) State :=
  match (s.op t slotCONVERT).block with
  | none => .ok s
  | some (h, ty) =>
    gatherOut (s.updOp t slotCONVERT (fun o =>
      { o with elems := o.elems ++ List.replicate (16 - o.elems.length) 0, block := none })) t ty h

/-- What CONVERT holds under an earlier setting of register 0 leaves before the next token: a merge partial where MRG is 0
(R73), and an open block of another format, padded (R296; log entry 68). -/
def settleConvert (s : State) (t : Nat) : Except (Cause × Word64) State := do
  let r0 := (s.op t slotCONVERT).reg 0
  let s1 ← if bit r0 10 then .ok s else flushHold s t
  match (s1.op t slotCONVERT).block with
  | some b => if b.2 = r0.extractLsb' 4 4 then return s1 else padBlock s1 t
  | none => return s1

/-- The 16 FP32 patterns of a block token (R43, R296). -/
def blockElems (ty : BitVec 4) (tok : Token) : List Nat :=
  let n := (blockBytes ty + 3) / 4
  let packed := (List.range n).foldr (fun i acc => (tok.lanes.get i).toNat + 2 ^ 32 * acc) 0
  let w := fmtWidth ty
  let word := (tok.lanes.get n).extractLsb' 0 16
  (List.range 16).map (fun i => blockToF32 (fmtQ ty) word i (packed / 2 ^ (w * i) % 2 ^ w))

/-- A DATA token of CONVERT (R296). -/
def convertData (t : Nat) (s : State) (tok : Token) : Except (Cause × Word64) State := do
  let r0 := (s.op t slotCONVERT).reg 0
  let src := r0.extractLsb' 0 4
  let dst := r0.extractLsb' 4 4
  typeCheck tok src
  let s0 ← settleConvert s t
  let s1 := popIn s0 t slotCONVERT 0
  if fmtIsBlock dst then gatherIn s1 t dst tok
  else if fmtIsBlock src then
    let es := blockElems src tok
    let mk := fun (l : List Nat) => dataToken dst l (hIter tok.hdr) (hFrame tok.hdr) false (hSat tok.hdr) (hInx tok.hdr)
    emitAll s1 t slotCONVERT 0 [mk (es.take 8), mk (es.drop 8)]
  else
    let rs := (elemsOf tok).map (fun x => (x, convert src dst (r0.extractLsb' 8 2) x))
    let sat := hSat tok.hdr || rs.any (fun r => convertSat src dst r.1 r.2.2)
    let inx := hInx tok.hdr || rs.any (fun r => bit r.2.2 0)
    let mrg := bit r0 10
    let h := retype tok.hdr dst rs.length (mrg && hGap tok.hdr) sat inx
    let out : Token := ⟨h, Lanes.ofList (rs.map (fun r => laneOf dst r.2.1))⟩
    if mrg then mergeHold s1 t out else emit s1 t slotCONVERT 0 out

/-- A control token of CONVERT: a merge partial leaves before it, EOS, EOR and MARK pad an incomplete block, and any other
waits for the block that earlier elements are in (R73, R290, R296). -/
def convertCtl (t : Nat) (s : State) (tok : Token) : Except (Cause × Word64) State := do
  let k := hKind tok.hdr
  let s1 ← flushHold s t
  let s2 ← settleConvert s1 t
  if k = kEOS ∨ k = kEOR ∨ k = kMARK then
    let s3 ← padBlock s2 t
    ctlFire s3 t slotCONVERT 0 [0] tok
  else holdCtl s2 t slotCONVERT [0] (s2.op t slotCONVERT).block.isSome tok

/-- CONVERT fires. -/
def convertStep (s : State) (t : Nat) : State := fire1By s t slotCONVERT (convertData t) (convertCtl t)

/-- The hold limit of a merge expires (R73). -/
def holdExpiry (s : State) (t : Nat) : State :=
  fireOp s t slotCONVERT [] (fun s => if (s.op t slotCONVERT).buf.isEmpty then none else some (flushHold s t))

/-! ### SELECT (R297, R298) -/

/-- Candidate x ranks before candidate y by value alone (R298): NaNs last. -/
def ranksBefore (ty : BitVec 4) (smallest : Bool) (x y : Nat) : Bool :=
  if fmtIsInt ty then
    if smallest then decide (intOf ty x < intOf ty y) else decide (intOf ty y < intOf ty x)
  else
    let p := floatFmt ty
    let a := unpackF p x
    let b := unpackF p y
    if a.isNan then false
    else if b.isNan then true
    else if smallest then fLess a b else fLess b a

/-- Index `j` of value `v` put into a ranking of earlier indices: after all that it does not rank before (R298). -/
def rankInsert (ty : BitVec 4) (smallest : Bool) (v j : Nat) : List (Nat × Nat) → List (Nat × Nat)
  | [] => [(v, j)]
  | (w, i) :: r => if ranksBefore ty smallest v w then (v, j) :: (w, i) :: r else (w, i) :: rankInsert ty smallest v j r

/-- The ranking of a column: values with their indices. -/
def ranking (ty : BitVec 4) (smallest : Bool) (vals : List Nat) : List (Nat × Nat) :=
  (vals.zipIdx).foldl (fun l x => rankInsert ty smallest x.1 x.2 l) []

/-- The outputs of SELECT. -/
def selectOuts (o : Op) : List Nat := if bit (o.reg 0) 15 then [0, 1] else [0]

/-- The outputs of a column: its ERR tokens on both outputs, or its K best (R298). -/
def columnOut (s : State) (t : Nat) (col : Column) : Except (Cause × Word64) State := do
  if !col.errs.isEmpty then col.errs.foldlM (fun s e => emitOn s t slotSELECT [0, 1] e) s
  else
    let r0 := (s.op t slotSELECT).reg 0
    let ty := r0.extractLsb' 11 4
    let vals := col.vals.map (fun (v : Word32) => v.toNat % 2 ^ fmtWidth ty)
    let best := (ranking ty (bit r0 10) vals).take (bits r0 9 6 + 1)
    let mk := fun (f : BitVec 4) (l : List Nat) => dataToken f l (hIter col.hdr) (hFrame col.hdr) false col.sat col.inx
    let parts := chunks8 best 2
    let s1 := s.updOp t slotSELECT (fun o =>
      { o.bump 1 1 with cnt := best.foldl (fun (m : Tbl Nat) (x : Nat × Nat) =>
          m.put x.2 (min (m.get 0 x.2 + 1) (2 ^ 32 - 1))) o.cnt })
    let s2 ← emitAll s1 t slotSELECT 0 (parts.map (fun p => mk 0 (p.map (·.2))))
    if bit r0 15 then emitAll s2 t slotSELECT 1 (parts.map (fun p => mk ty (p.map (·.1)))) else return s2

/-- The open column closes: its outputs leave, and after them the ORD tokens that came while it was open (R290, R298). -/
def closeColumn (s : State) (t : Nat) : Except (Cause × Word64) State :=
  match (s.op t slotSELECT).col with
  | none => .ok s
  | some col => do
    let s1 ← columnOut (s.updOp t slotSELECT (fun o => { o with col := none })) t col
    emitPend s1 t slotSELECT (selectOuts (s1.op t slotSELECT))

/-- An open column of another ITER closes, and one opens for the token where none is open (R297). -/
def openColumn (s : State) (t : Nat) (tok : Token) : Except (Cause × Word64) State :=
  let o := s.op t slotSELECT
  let other := match o.col with | some c => hIter c.hdr != hIter tok.hdr | none => false
  match (if other then closeColumn s t else .ok s) with
  | .error e => .error e
  | .ok s1 =>
    match (s1.op t slotSELECT).col with
    | some _ => .ok s1
    | none => .ok (s1.updOp t slotSELECT (fun o => { o with col := some ⟨tok.hdr, [], [], false, false⟩ }))

/-- A DATA token of SELECT (R297). -/
def selectData (t : Nat) (s : State) (tok : Token) : Except (Cause × Word64) State := do
  let r0 := (s.op t slotSELECT).reg 0
  typeCheck tok (r0.extractLsb' 11 4)
  let s1 ← openColumn s t tok
  let s2 := popIn s1 t slotSELECT 0
  match (s2.op t slotSELECT).col with
  | none => return s2
  | some col =>
    let n := bits r0 5 0 + 1
    let all := col.vals ++ (List.range (hLen tok.hdr + 1)).map tok.lanes.get
    let col' : Column :=
      { col with vals := all.take n, sat := col.sat || hSat tok.hdr || decide (n < all.length),
                 inx := col.inx || hInx tok.hdr }
    let s3 := s2.updOp t slotSELECT (fun o => { o with col := some col' })
    if n ≤ all.length then closeColumn s3 t else return s3

/-- A token of SELECT that is not DATA (R297): ERR joins its column, ORD waits for the outputs of an open column, and any
other closes the column. -/
def selectCtl (t : Nat) (s : State) (tok : Token) : Except (Cause × Word64) State := do
  let k := hKind tok.hdr
  let outs := selectOuts (s.op t slotSELECT)
  if k = kERR then
    let s1 ← openColumn s t tok
    return (popIn s1 t slotSELECT 0).updOp t slotSELECT (fun o =>
      { o with col := o.col.map (fun c => { c with errs := c.errs ++ [tok] }) })
  else if k = kORD then holdCtl s t slotSELECT outs (s.op t slotSELECT).col.isSome tok
  else
    let s1 ← closeColumn s t
    ctlFire s1 t slotSELECT 0 outs tok

/-- SELECT fires (R297). -/
def selectStep (s : State) (t : Nat) : State := fire1By s t slotSELECT (selectData t) (selectCtl t)

/-! ### LUT (R299) -/

/-- A DATA token of LUT (R299). -/
def lutData (t : Nat) (s : State) (tok : Token) : Except (Cause × Word64) State := do
  let o := s.op t slotLUT
  let r0 := o.reg 0
  let ty := r0.extractLsb' 0 4
  typeCheck tok ty
  let rs := (elemsOf tok).map (fun x =>
    let i := intOf ty x - (o.reg 1).toInt
    if bit r0 8 then
      if i < 0 then (o.lut.get 0 0, true) else if 255 < i then (o.lut.get 0 255, true) else (o.lut.get 0 i.toNat, false)
    else (o.lut.get 0 (i % 256).toNat, false))
  emit (popIn s t slotLUT 0) t slotLUT 0 (dataToken (r0.extractLsb' 4 4) (rs.map (fun r => r.1.toNat)) (hIter tok.hdr)
    (hFrame tok.hdr) false (hSat tok.hdr || rs.any (·.2)) (hInx tok.hdr))

/-- LUT fires. -/
def lutStep (s : State) (t : Nat) : State := fire1 s t slotLUT [0] (lutData t)

/-- An access of LUT register 3: entry INDEX is read, or written where a word is given, and INDEX advances mod 256
(R299). -/
def lutAccess (o : Op) (w : Option Word32) : Word32 × Op :=
  let i := bits (o.reg 2) 7 0
  let o1 := o.setReg 2 (BitVec.ofNat 32 ((i + 1) % 256))
  (o.lut.get 0 i, match w with
    | some v => { o1 with lut := o1.lut.put i v }
    | none => o1)

/-! ### FILTER (R300) -/

/-- The test of FILTER, with no flag (R300). -/
def filterKeep (ty : BitVec 4) (rel : Nat) (a c : Nat) : Bool := (elemCmp ty false rel a c).1

/-- A DATA token of FILTER (R300). -/
def filterData (t : Nat) (s : State) (x y : Token) : Except (Cause × Word64) State := do
  let o := s.op t slotFILTER
  let r0 := o.reg 0
  let ty := r0.extractLsb' 4 4
  let two := bit r0 3
  typeCheck x ty
  let c := (o.reg 1).toNat % 2 ^ fmtWidth ty
  let tested := (pairElems x y).map (fun ab =>
    (ab.1, if two then decide (ab.2 ≠ 0) else filterKeep ty (bits r0 2 0) ab.1 c))
  let kept := (tested.filter (·.2)).map (·.1)
  let gone := (tested.filter (fun e => !e.2)).map (·.1)
  let s1 := popIn s t slotFILTER 0
  let s2 := if two then popIn s1 t slotFILTER 1 else s1
  let s3 := s2.updOp t slotFILTER (fun o => o.bump 2 gone.length)
  let sat := hSat x.hdr || (two && hSat y.hdr)
  let inx := hInx x.hdr || (two && hInx y.hdr)
  let mk := fun (l : List Nat) => dataToken ty l (hIter x.hdr) (hFrame x.hdr) false sat inx
  let s4 ← if kept.isEmpty then pure s3 else emit s3 t slotFILTER 0 (mk kept)
  if bit r0 8 && !gone.isEmpty then emit s4 t slotFILTER 1 (mk gone) else return s4

/-- FILTER fires. -/
def filterStep (s : State) (t : Nat) : State :=
  let r0 := (s.op t slotFILTER).reg 0
  fire2 s t slotFILTER (bit r0 3) (if bit r0 8 then [0, 1] else [0]) (filterData t)

/-! ### COUNT (R301) -/

/-- The EOR that COUNT emits: the header of the token that prompted it, with KIND EOR and the count of R290. -/
def countEor (s : State) (t : Nat) (tok : Token) : Except (Cause × Word64) State := do
  let n := (s.op t slotCOUNT).sent.get 0 0
  let h := putBits (putBits (putBits tok.hdr 59 56 kEOR) 55 52 1) 51 49 0
  let s1 ← emit s t slotCOUNT 0 ⟨h, Lanes.ofList [BitVec.ofNat 32 n]⟩
  return s1.updOp t slotCOUNT (fun o => { o with sent := o.sent.put 0 0 })

/-- COUNT counts a token and passes it on unchanged (R301); an EOR that passes starts the count of R290 anew. -/
def countToken (t : Nat) (s : State) (tok : Token) : Except (Cause × Word64) State := do
  let k := hKind tok.hdr
  let r0 := (s.op t slotCOUNT).reg 0
  let period := bits r0 15 0
  if k = kDATA ∨ k = kERR then
    let s1 := (popIn s t slotCOUNT 0).updOp t slotCOUNT (fun o =>
      if k = kDATA then (o.count 1 1).count 2 (hLen tok.hdr + 1) else o.count 4 1)
    let s2 ← emit s1 t slotCOUNT 0 tok
    let n := (s2.op t slotCOUNT).cnt.get 0 0 + 1
    let done := decide (period ≠ 0 ∧ period ≤ n)
    let s3 := s2.updOp t slotCOUNT (fun o => { o with cnt := o.cnt.put 0 (if done then 0 else n) })
    if done then countEor s3 t tok else return s3
  else if k = kEOS ∧ bit r0 16 then
    let s1 ← countEor s t tok
    ctlFire s1 t slotCOUNT 0 [0] tok
  else if k = kEOR then
    let s1 ← emit (popIn s t slotCOUNT 0) t slotCOUNT 0 tok
    return s1.updOp t slotCOUNT (fun o => { o with sent := o.sent.put 0 0 })
  else if k = kGAP then ctlFire (s.updOp t slotCOUNT (fun o => o.count 3 1)) t slotCOUNT 0 [0] tok
  else ctlFire s t slotCOUNT 0 [0] tok

/-- COUNT fires. -/
def countStep (s : State) (t : Nat) : State :=
  fireOp s t slotCOUNT [0] (fun s => (opHead s t slotCOUNT 0).map (countToken t s))

/-! ### MERGE (R305) -/

/-- The input that MERGE takes next: `elems` holds the inputs of its waiting tokens in order of arrival, `rr` the input
after the last one served. -/
def mergeNext (o : Op) : Option Nat :=
  let r0 := o.reg 0
  let ready := fun (i : Nat) => bit r0 i && !(o.input i).isEmpty
  match bits r0 5 4 with
  | 0 => (o.elems.map (·.toNat)).find? ready
  | 1 => ((List.range 4).map (fun j => (o.rr + j) % 4)).find? ready
  | _ => (List.range 4).find? ready

/-- MERGE forwards the head of input `i` where its policy gives that input the turn (R305). -/
def mergeStep (s : State) (t i : Nat) : State :=
  fireOp s t slotMERGE [i] (fun s =>
    let o := s.op t slotMERGE
    if mergeNext o ≠ some i then none
    else match opHead s t slotMERGE i with
      | none => none
      | some tok =>
        let s0 := s.updOp t slotMERGE (fun o =>
          { o with rr := (i + 1) % 4, elems := o.elems.eraseIdx (o.elems.findIdx (fun e => e.toNat == i)) })
        let k := hKind tok.hdr
        if k = kDATA then some (emit (popIn s0 t slotMERGE i) t slotMERGE 0 tok)
        else if k = kEOS ∧ bit (o.reg 0) 6 then
          let seen := insertOnce o.eosSeen i
          let all := (List.range 4).all (fun j => !bit (o.reg 0) j || seen.contains j)
          let s1 := (popIn s0 t slotMERGE i).updOp t slotMERGE (fun o => { o with eosSeen := if all then [] else seen })
          some (if all then emit s1 t slotMERGE 0 tok else .ok s1)
        else some (ctlFire s0 t slotMERGE i [0] tok))

/-! ### SPLIT (R74, R305) -/

/-- The enabled outputs of SPLIT. -/
def splitOuts (o : Op) : List Nat := (List.range 4).filter (fun i => bit (o.reg 0) (2 + i))

/-- A list in runs of `n`. -/
def runsOf {α : Type} (n : Nat) (l : List α) : (fuel : Nat) → List (List α)
  | 0 => []
  | f + 1 => if l.isEmpty then [] else l.take n :: runsOf n (l.drop n) f

/-- The pieces of a packet, of `n` elements each: every header field but LEN is copied (R74). -/
def cutPieces (tok : Token) (n : Nat) : List Token :=
  (runsOf n (tokenLanes tok) 8).map (fun l =>
    ⟨putBits tok.hdr 51 49 (l.length - 1), Lanes.ofList l⟩)

/-- A DATA token of SPLIT (R305). -/
def splitData (t : Nat) (s : State) (tok : Token) : Except (Cause × Word64) State :=
  let o := s.op t slotSPLIT
  let outs := splitOuts o
  let s1 := popIn s t slotSPLIT 0
  let nth := fun (i : Nat) => outs.getD (i % outs.length) 0
  match bits (o.reg 0) 1 0 with
  | 0 => emitAll s1 t slotSPLIT (outs.headD 0) (cutPieces tok (bits (o.reg 0) 8 6 + 1))
  | 1 => emit (s1.updOp t slotSPLIT (fun o => { o with rr := (o.rr + 1) % outs.length })) t slotSPLIT (nth o.rr) tok
  | 2 => emit s1 t slotSPLIT (nth (hIter tok.hdr)) tok
  | _ => emitOn s1 t slotSPLIT outs tok

/-- SPLIT fires. -/
def splitStep (s : State) (t : Nat) : State := fire1 s t slotSPLIT (splitOuts (s.op t slotSPLIT)) (splitData t)

/-! ### DELAY (R305) -/

/-- The tokens of a window: one for each element of the input, lane i holding x[n − i] (R305), with the status of the tokens
that its elements came in (R62). The history is carried on. -/
def windowTokens (tok : Token) (w : Nat) (hist : List (Word32 × Bool × Bool)) : List Token × List (Word32 × Bool × Bool) :=
  let ty := hType tok.hdr
  (tokenLanes tok).foldl (fun acc e =>
    let h := ((e, hInx tok.hdr, hSat tok.hdr) :: acc.2).take 8
    let lanes := (List.range w).map (fun i => elemLane ty ((h[i]?).elim 0 (·.1)))
    let out : Token := ⟨mkHdr kDATA ty (w - 1) (hIter tok.hdr) (hFrame tok.hdr) 0 0 false
      ((h.take w).any (·.2.2)) ((h.take w).any (·.2.1)), Lanes.ofList lanes⟩
    (acc.1 ++ [out], h))
    ([], hist)

/-- The window history of DELAY replaced. -/
def Op.setHistory (o : Op) (h : List (Word32 × Bool × Bool)) : Op :=
  { o with elems := h.map (·.1), hist := h.map (·.2) }

/-- DELAY fires in WINDOW mode (R305). -/
def delayWindow (s : State) (t : Nat) : State :=
  if bit ((s.op t slotDELAY).reg 0) 0 then s
  else fire1By s t slotDELAY
    (fun s tok =>
      let o := s.op t slotDELAY
      let r := windowTokens tok (bits (o.reg 0) 3 1 + 1) (o.elems.zip o.hist)
      emitAll ((popIn s t slotDELAY 0).updOp t slotDELAY (fun o => o.setHistory r.2)) t slotDELAY 0 r.1)
    (fun s tok =>
      ctlFire (if hKind tok.hdr = kEOS then s.updOp t slotDELAY (fun o => o.setHistory []) else s) t slotDELAY 0 [0] tok)

/-- DELAY fires in HOLD mode: every token but EOS enters the hold line; EOS empties it first (R305). -/
def delayHold (s : State) (t : Nat) : State :=
  fireOp s t slotDELAY [0] (fun s =>
    let o := s.op t slotDELAY
    if !bit (o.reg 0) 0 then none
    else match opHead s t slotDELAY 0 with
      | none => none
      | some tok =>
        let s1 := popIn s t slotDELAY 0
        if hKind tok.hdr = kEOS then
          some (emitAll (s1.updOp t slotDELAY (fun o => { o with buf := [] })) t slotDELAY 0 (o.buf ++ [tok]))
        else
          let line := o.buf ++ [tok]
          let s2 := if hKind tok.hdr = kMARK then takeMark s1 t slotDELAY 0 (bits tok.lanes.l0 15 0) else s1
          let keep := fun (l : List Token) => s2.updOp t slotDELAY (fun o => { o with buf := l })
          if line.length ≤ bits (o.reg 0) 8 4 + 1 then some (.ok (keep line))
          else some (emitAll (keep (line.drop 1)) t slotDELAY 0 (line.take 1)))

/-! ### Meanings -/

/-- MATRIX fires (R292). -/
def execMatrixFire (t : Nat) (s : State) : Host.Outcome State Fault Refusal := .next (matrixStep s t)

/-- REDUCE takes a token other than an EOR at input `i` (R294). -/
def execReducePartial (t : Nat) (i : Nat) (s : State) : Host.Outcome State Fault Refusal := .next (reduceStep s t i)

/-- REDUCE takes an EOR at input `i` (R293). -/
def execReduceEor (t : Nat) (i : Nat) (s : State) : Host.Outcome State Fault Refusal := .next (reduceEorStep s t i)

/-- MAP fires (R295). -/
def execMapFire (t : Nat) (s : State) : Host.Outcome State Fault Refusal := .next (mapStep s t)

/-- CONVERT fires (R296). -/
def execConvertFire (t : Nat) (s : State) : Host.Outcome State Fault Refusal := .next (convertStep s t)

/-- The hold limit of a CONVERT merge expires (R73). -/
def execMergeHoldExpiry (t : Nat) (s : State) : Host.Outcome State Fault Refusal := .next (holdExpiry s t)

/-- SELECT fires (R297). -/
def execSelectFire (t : Nat) (s : State) : Host.Outcome State Fault Refusal := .next (selectStep s t)

/-- LUT fires (R299). -/
def execLutFire (t : Nat) (s : State) : Host.Outcome State Fault Refusal := .next (lutStep s t)

/-- An access of LUT register 3 (R299); OPW and OPR of that register perform the same step. -/
def execLutDataAccess (t : Nat) (w : Option (BitVec 32)) (s : State) : Host.Outcome State Fault Refusal :=
  .next (if (s.op t slotLUT).used then s.updOp t slotLUT (fun o => (lutAccess o w).2) else s)

/-- FILTER fires (R300). -/
def execFilterFire (t : Nat) (s : State) : Host.Outcome State Fault Refusal := .next (filterStep s t)

/-- COUNT fires (R301). -/
def execCountFire (t : Nat) (s : State) : Host.Outcome State Fault Refusal := .next (countStep s t)

/-- MERGE forwards a token of input `i` (R305). -/
def execMergeFire (t : Nat) (i : Nat) (s : State) : Host.Outcome State Fault Refusal := .next (mergeStep s t i)

/-- SPLIT fires (R305). -/
def execSplitFire (t : Nat) (s : State) : Host.Outcome State Fault Refusal := .next (splitStep s t)

/-- DELAY fires in WINDOW mode (R305). -/
def execDelayWindow (t : Nat) (s : State) : Host.Outcome State Fault Refusal := .next (delayWindow s t)

/-- DELAY fires in HOLD mode (R305). -/
def execDelayHold (t : Nat) (s : State) : Host.Outcome State Fault Refusal := .next (delayHold s t)

end Sys2Proof.Machine
end

