-- ==== Sys2Proof/Machine/Opcmd.lean ====
section
/-! DEFINITION. Operator registers: their maps and valid values (R287, R292 to R305), OPW, OPR and OPSNAP (R306, R307), and
the cell's registers at slot 15 (R161). -/

namespace Sys2Proof.Machine

/-! ### The register maps -/

/-- How a register is reached: its RW fields, or read only, or cleared by a read. -/
inductive OpAccess where
  | rw (mask : Word32)
  | ro
  | rc
  deriving DecidableEq, Repr

/-- Register `r` of slot `c`, 0 to 14; none where it is reserved (R287). -/
def opMap (c r : Nat) : Option OpAccess :=
  match c, r with
  | 0, 0 => some (.rw 0x3)
  | 0, 1 => some .rc
  | 1, 0 => some (.rw 0x3FFF)
  | 1, 1 => some .rc
  | 2, 0 => some (.rw 0xFFF)
  | 2, 1 => some (.rw 0xFFFFFFFF)
  | 2, 2 => some (.rw 0xFFFFFFFF)
  | 3, 0 => some (.rw 0xFF07FF)
  | 4, 0 => some (.rw 0xFFFF)
  | 4, 1 => some .rc
  | 5, 0 => some (.rw 0x1FF)
  | 5, 1 => some (.rw 0xFFFFFFFF)
  | 5, 2 => some (.rw 0xFF)
  | 5, 3 => some (.rw 0xFFFFFFFF)
  | 6, 0 => some (.rw 0x1FF)
  | 6, 1 => some (.rw 0xFFFFFFFF)
  | 6, 2 => some .rc
  | 7, 0 => some (.rw 0x1FFFF)
  | 7, 1 => some .ro
  | 7, 2 => some .ro
  | 7, 3 => some .ro
  | 7, 4 => some .ro
  | 8, 0 => some (.rw 0x3FFFF)
  | 8, 1 => some (.rw 0xFFFFFFFF)
  | 8, 2 => some (.rw 0xFFF)
  | 8, 3 => some .rc
  | 9, 0 => some (.rw 0x7F)
  | 10, 0 => some (.rw 0x1FF)
  | 11, 0 => some (.rw 0x1FF)
  | _, _ => none

/-- Register 0 holds no reserved value and no invalid combination (R292 to R305). -/
def opValid (c : Nat) (r0 : Word32) : Bool :=
  let ty := fun (hi lo : Nat) => bits r0 hi lo
  match c with
  | 1 => decide (ty 7 4 ≤ 10) && decide (ty 3 0 ≤ 10)
  | 2 => [0, 2, 4, 6, 7, 8].contains (ty 7 4) && decide (ty 3 0 ≠ 15) &&
      (decide (ty 7 4 < 6) || (!bit r0 10 && decide (ty 3 0 ≤ 9)))
  | 3 => (decide (ty 3 0 ≤ 10) && decide (ty 7 4 ≤ 10)) ||
      (!bit r0 10 && ((fmtIsBlock (r0.extractLsb' 0 4) && decide (ty 7 4 = 6)) ||
        (fmtIsBlock (r0.extractLsb' 4 4) && decide (ty 3 0 = 6))))
  | 4 => decide (ty 14 11 ≤ 8) && decide (ty 9 6 ≤ ty 5 0)
  | 5 => decide (ty 3 0 ≤ 5) && decide (ty 7 4 ≤ 10)
  | 6 => [0, 1, 2, 4, 6, 7, 8].contains (ty 7 4) && decide (ty 2 0 ≤ 5)
  | 8 => decide (ty 3 0 ≤ 5) && decide (ty 15 12 ≤ 11)
  | 9 => decide (ty 5 4 ≠ 3) && decide (ty 3 0 ≠ 0)
  | 10 => decide (ty 5 2 ≠ 0)
  | _ => true

/-! ### Reading and writing (R11, R287, R306) -/

/-- Register `r` of slot `c` of tile `t` read, with the clearing of an RC field. -/
def opRegRead (s : State) (t c r : Nat) : Option (Word32 × State) :=
  let o := s.op t c
  if r = 15 then some (opStat (s.tile t) o, s)
  else if c = slotLUT ∧ r = 3 then some ((lutAccess o none).1, s.updOp t c (fun o => (lutAccess o none).2))
  else match opMap c r with
    | none => none
    | some .rc => some (o.reg r, s.updOp t c (fun o => o.setReg r 0))
    | some _ => some (o.reg r, s)

/-- Register `r` of slot `c` of tile `t` written; none for a reserved register or value. A write of MEMORY register 0 reads
the descriptor again (R302). -/
def opRegWrite (s : State) (t c r : Nat) (v : Word32) : Option State :=
  let o := s.op t c
  if r = 15 then some (s.updOp t c (fun o => if bit v 3 then putSnap o o.snapId o.snapAct false else o))
  else if c = slotLUT ∧ r = 3 then some (s.updOp t c (fun o => (lutAccess o (some v)).2))
  else match opMap c r with
    | none => none
    | some (.rw m) =>
      let n := (o.reg r &&& ~~~m) ||| (v &&& m)
      if r = 0 ∧ ¬ opValid c n then none
      else
        let s1 := s.updOp t c (fun o => o.setReg r n)
        if c = slotMEMORY ∧ r ≤ 1 then
          let s2 := s1.updMem t (fun o => { o with ended := false })
          some (if r = 0 then loadDesc s2 t else s2)
        else some s1
    | some _ => some s

/-! ### CSTAT and vf (R161) -/

/-- CSTAT of a cell (R161). -/
def cstat (c : Cell) : Word32 :=
  BitVec.ofNat 32 (b2n c.task.isSome * 2 ^ 31 + (c.task.map (·.cls)).getD 0 % 64 * 2 ^ 24 +
    min c.ready.length 16 * 2 ^ 16 + min c.latch.length 8 * 2 ^ 8)

/-- vf after a write: VRM, NVE, OFE and AOE are written, a 1 clears a sticky flag (R32, R33). -/
def vfWrite (old v : Word32) : Word32 := ((old &&& ~~~ 0x70300) ||| (v &&& 0x70300)) &&& ~~~ (v &&& 0x7F)

/-! ### Operator addresses (R306) -/

/-- The tile that an operator address names: the runner's own in class L. -/
def opTile (x : Runner) (a : Word64) : Nat :=
  match x with
  | .core k => isleTile k (bits a 11 8) (bits a 14 12)
  | .cell t => t

/-- Slot 15 is legal from Supervisor mode, and in class C only (R161). -/
def cellSlot (s : State) (x : Runner) (a : Word64) : Except Stop Unit :=
  match x with
  | .core k => check ((s.core k).mode != .user) s .priv a
  | .cell _ => raise s .classMode a

/-- The page that holds a tile. -/
def pageOf (s : State) (t : Nat) : Option Page :=
  match (s.tile t).base with
  | none => none
  | some b => if (s.tile t).ending then none else s.pages.find? (fun p => p.ctx == b.ctx && p.job == b.job && p.region == b.vreg && pagePlaced p)

/-- The slot is in use on a tile whose page is RESIDENT or frozen, and in User mode and class L the page belongs to the
loaded context (R306 check 3). -/
def slotInUse (s : State) (x : Runner) (t c : Nat) : Bool :=
  match pageOf s t with
  | none => false
  | some p =>
    (s.op t c).used && (p.st == .resident || (s.tile t).frozen) &&
      (match x with
        | .core k => (s.core k).mode != .user || p.ctx == (s.isle k).ctx
        | .cell _ => true)

/-- Checks 2 and 3 of R306 on the address. -/
def opChecks (s : State) (x : Runner) (a : Word64) (rsv : Bool) : Except Stop Unit := do
  let c := bits a 7 4
  let t := opTile x a
  let own := match x with | .core _ => true | .cell _ => decide (bits a 14 8 = 0)
  check (decide (bits a 63 15 = 0) && own && rsv && (kindSlots (tileKind t)).contains c) s .reservedField a
  check (slotInUse s x t c) s .routeInvalid a

/-- OPW (R306). -/
def opwBody (a b : BitVec 5) (s : State) (x : Runner) : Done := do
  let p ← sGet s x a
  let v ← sGet s x b
  let t := opTile x p
  let r := bits p 3 0
  let w := v.extractLsb' 0 32
  if bits p 7 4 = 15 then do
    cellSlot s x p
    check (decide (bits p 63 15 = 0) && decide (bits v 63 32 = 0) && decide (r ≤ 1)) s .reservedField p
    fall (if r = 0 then s.setCell t { s.cell t with vf := vfWrite (s.cell t).vf w } else s)
  else do
    opChecks s x p (decide (bits v 63 32 = 0))
    match opRegWrite s t (bits p 7 4) r w with
    | none => raise s .reservedField p
    | some s1 => fall s1

/-- OPR (R306). -/
def oprBody (d a : BitVec 5) (s : State) (x : Runner) : Done := do
  let p ← sGet s x a
  let t := opTile x p
  let r := bits p 3 0
  if bits p 7 4 = 15 then do
    cellSlot s x p
    check (decide (bits p 63 15 = 0) && decide (r ≤ 1)) s .reservedField p
    fall (sSet s x d ((if r = 0 then (s.cell t).vf else cstat (s.cell t)).zeroExtend 64))
  else do
    opChecks s x p true
    match opRegRead s t (bits p 7 4) r with
    | none => raise s .reservedField p
    | some (v, s1) => fall (sSet s1 x d (v.zeroExtend 64))

/-- The counters that OPSNAP takes and the slot with them cleared (R307). -/
def snapCounters (o : Op) (c : Nat) : List Nat × Op :=
  if c = slotSELECT then ((List.range 64).map (fun j => o.cnt.get 0 j), { o with cnt := [] })
  else ((List.range 4).map (fun j => (o.reg (1 + j)).toNat),
    (List.range 4).foldl (fun (o : Op) (j : Nat) => o.setReg (1 + j) 0) o)

/-- OPSNAP (R307). -/
def opsnapBody (d a b : BitVec 5) (s : State) (x : Runner) : Done := do
  let p ← sGet s x a
  let v ← sGet s x b
  let t := opTile x p
  let c := bits p 7 4
  (if c = 15 then cellSlot s x p else .ok () : Except Stop Unit)
  opChecks s x p (decide (bits p 3 0 = 0) && (c == slotSELECT || c == slotCOUNT))
  let n := if c = slotSELECT then 256 else 16
  spmCheck s x v n 64 true false
  let r := snapCounters (s.op t c) c
  let s1 := s.updOp t c (fun _ => r.2)
  let s2 := s1.updIsle (runnerIsle x) (fun i => i.spmWrite v.toNat (r.1.flatMap (fun w => bytesOf w 4)))
  fall (sSet s2 x d (BitVec.ofNat 64 (r.1.foldl (· + ·) 0)))

/-! ### Meanings -/

/-- OPW (R306). -/
def execOpw (a : BitVec 5) (b : BitVec 5) (v0 : BitVec 5) (v1 : BitVec 5) (s : State) : Host.Outcome State Fault Refusal :=
  .next (unitCL 4 false ⟨.user, v0 == 0 && v1 == 0, true, fun k s => opwBody a b s (.core k)⟩
    ⟨false, true, v0 == 0 && v1 == 0 && srcL a && srcL b, true, 3, fun t s => opwBody a b s (.cell t)⟩ s)

/-- OPR (R306). -/
def execOpr (d : BitVec 5) (a : BitVec 5) (v0 : BitVec 10) (s : State) : Host.Outcome State Fault Refusal :=
  .next (unitCL 4 false ⟨.user, v0 == 0, true, fun k s => oprBody d a s (.core k)⟩
    ⟨false, true, v0 == 0 && dstL d && srcL a, true, 4, fun t s => oprBody d a s (.cell t)⟩ s)

/-- OPSNAP (R307). -/
def execOpsnap (d : BitVec 5) (a : BitVec 5) (b : BitVec 5) (v0 : BitVec 5) (s : State) : Host.Outcome State Fault Refusal :=
  .next (unitCL 4 false ⟨.user, v0 == 0, true, fun k s => opsnapBody d a b s (.core k)⟩
    ⟨false, true, v0 == 0 && dstL d && srcL a && srcL b, true, 12, fun t s => opsnapBody d a b s (.cell t)⟩ s)

end Sys2Proof.Machine
end

