-- ==== Sys2Proof/Machine/Record.lean ====
section
/-! DEFINITION. Tile records: their layout, CRC and configuration check (R108 to R110, R286, R287), the tile that a record
configures (R385), and a tile's saved state (R283 to R285, R392, R394). -/

namespace Sys2Proof.Machine

/-! ### The layout of a record (R108) -/

/-- `n` bytes of a record from `off` as a number. -/
def recNum (r : List Byte) (off n : Nat) : Nat := numOf ((r.drop off).take n)

/-- A 32-bit word of a record. -/
def recWord (r : List Byte) (off : Nat) : Word32 := BitVec.ofNat 32 (recNum r off 4)

/-- The tile word. -/
def recTile (r : List Byte) : Word32 := recWord r 0

/-- Page column of a record's tile. -/
def recX (r : List Byte) : Nat := bits (recTile r) 3 0

/-- Page row of a record's tile. -/
def recY (r : List Byte) : Nat := bits (recTile r) 6 4

/-- The length of a record whose tile word is `w`. -/
def recLen (w : Word32) : Nat := 0x448 + 2 * bits w 26 16

/-- Steering entry `p`. -/
def recSteer (r : List Byte) (p : Nat) : BitVec 16 := BitVec.ofNat 16 (recNum r (8 + 2 * p) 2)

/-- Class entry `n` (R110). -/
def recClass (r : List Byte) (n : Nat) : Word32 := recWord r (0x88 + 4 * n)

/-- Destination entry `n` (R109). -/
def recDest (r : List Byte) (n : Nat) : Word32 := recWord r (0x188 + 4 * n)

/-- Route entry `n` (R109). -/
def recRoute (r : List Byte) (n : Nat) : Word32 := recWord r (0x288 + 4 * n)

/-- Register `n` of parameter block `b`. -/
def recParam (r : List Byte) (b n : Nat) : Word32 := recWord r (0x308 + 64 * b + 4 * n)

/-- The CRC of a record is good (R108). -/
def recCrcOk (r : List Byte) : Bool := crc32c (r.take 4 ++ r.drop 8) == recWord r 4

/-! ### The configuration check (R108, R110, R286, R287) -/

/-- A steering entry keeps its reserved bits, and an operator entry names a slot and an input that exist (R64, R286). -/
def steerOk (kind : TileKind) (e : BitVec 16) : Bool :=
  decide (bits e 7 6 = 0) && decide (bits e 4 2 = 0) &&
    (decide (bits e 15 14 ≠ 2) ||
      ((kindSlots kind).contains (bits e 13 10) && decide (bits e 9 8 < slotInputs (bits e 13 10))))

/-- A class entry holds no reserved value and its routine lies in the store (R110). -/
def classOk (e : Word32) : Bool :=
  decide (bits e 31 28 ≤ 8) && decide (bits e 21 20 ≠ 3) && decide (bits e 9 0 + bits e 19 10 ≤ 1024)

/-- A route entry keeps its reserved bits and names a slot and an output that exist (R109, R286). -/
def routeOk (kind : TileKind) (e : Word32) : Bool :=
  !bit e 29 && decide (bits e 6 0 = 0) &&
    (!bit e 31 || ((kindSlots kind).contains (bits e 28 25) && decide (bits e 24 23 < slotOutputs (bits e 28 25))))

/-- The slot is in use: an operator steering entry names it (R109). -/
def recUses (r : List Byte) (c : Nat) : Bool :=
  (List.range 64).any (fun p => bits (recSteer r p) 15 14 = 2 && bits (recSteer r p) 13 10 == c)

/-- The parameter block of slot `c` at position `b`: reserved registers and bits zero, and valid values where the slot is
in use (R287). -/
def paramsOk (r : List Byte) (c b : Nat) : Bool :=
  (List.range 15).all (fun n => match opMap c n with
    | some (.rw m) => recParam r b n &&& ~~~ m == 0
    | some _ => true
    | none => recParam r b n == 0) &&
  decide (bits (recParam r b 15) 15 4 = 0) && (!recUses r c || opValid c (recParam r b 0))

/-- The configuration check of a record for a tile kind. -/
def recordOk (kind : TileKind) (r : List Byte) : Bool :=
  let w := recTile r
  !bit w 7 && decide (bits w 31 27 = 0) && decide (bits w 15 12 = 0) && decide (bits w 26 16 ≤ 1024) &&
    (List.range 64).all (fun p => steerOk kind (recSteer r p)) &&
    (List.range 64).all (fun n => classOk (recClass r n)) &&
    (List.range 64).all (fun n => decide (bits (recDest r n) 30 19 = 0)) &&
    (List.range 32).all (fun n => routeOk kind (recRoute r n)) &&
    (List.range 5).all (fun b => match (kindSlots kind)[b]? with
      | some c => paramsOk r c b
      | none => (List.range 16).all (fun n => recParam r b n == 0))

/-! ### Installing a record (R380, R385) -/

/-- A route entry with REMOTE = 0 as installed: DX counts physical columns (R380). A target left of the page stays out of
the page. -/
def physRoute (skip x : Nat) (e : Word32) : Word32 :=
  if !bit e 30 then
    let c := (x : Int) + sextInt (bits e 22 17) 6
    let dx : Int := if c < 0 then -32 else (physCol skip c.toNat : Int) - physCol skip x
    putBits e 22 17 (wrapPat dx 6)
  else e

/-- The registers that a record's parameter words install (R287). -/
def recRegs (r : List Byte) (c b : Nat) : Tbl Word32 :=
  (List.range 15).filterMap (fun n => match opMap c n with
    | some (.rw m) => some (n, recParam r b n &&& m)
    | _ => none)

/-- The operators that a record configures. The time of the MEMORY agent of the tile stays (R218). -/
def recOps (old : Tile) (kind : TileKind) (r : List Byte) : Tbl Op :=
  (kindSlots kind).mapIdx (fun b c =>
    (c, { Op.reset with used := recUses r c, regs := recRegs r c b, pts := (old.ops.get Op.reset c).pts }))

/-- The tile that a record configures, with DX as the record holds it mapped by `route`. -/
def recTileOf (old : Tile) (base : TileBase) (kind : TileKind) (r : List Byte) (route : Word32 → Word32) : Tile :=
  { clearTile old with
    base := some base, record := r,
    steer := (List.range 64).map (fun p => (p, recSteer r p)),
    classes := (List.range 64).map (fun n => (n, recClass r n)),
    dests := (List.range 64).map (fun n => (n, recDest r n)),
    routes := (List.range 32).map (fun n => (n, route (recRoute r n))),
    store := (List.range (bits (recTile r) 26 16)).map (fun i => (i, BitVec.ofNat 16 (recNum r (0x448 + 2 * i) 2))),
    mask := BitVec.ofNat 8 (bits (recTile r) 15 8),
    ops := recOps old kind r }

/-- A tile of a page with its base register written; `r` is its record, where it has one. -/
def installTile (s : State) (t : Nat) (base : TileBase) (r : Option (List Byte)) (route : Word32 → Word32) : State :=
  let old := s.tile t
  let s1 := s.setTile t (match r with
    | some r => recTileOf old base (tileKind t) r route
    | none => { clearTile old with base := some base })
  if (s1.op t slotMEMORY).used then loadDesc s1 t else s1

/-! ### The saved state of a tile (R284, R392) -/

/-- A fetch slot as it is saved: one that has not ended, or whose fault record was pending, fetches again; the lines of a
GLOBAL tensor are fetched again for a slot that was READY or CONSUMED (R284, R285, R391, R394). `tag` is the saved register
that its tag names, and 1 where the tag was current. -/
def saveSlot (v : Slot) (tag : Option (Nat × Nat)) : Slot :=
  let w := { v with buf := none, lines := [], queued := 0, record := none, preempt := false, tag := tag }
  let again := fun (st : SlotState) =>
    { w with st := st, data := if v.buf.isSome then v.data else [], reload := if v.buf.isSome then none else some st }
  match v.st, v.reload with
  | .ready, _ => again .ready
  | .consumed, _ => again .consumed
  | .faulted, some st => again st
  | .fetching, _ | .faulted, none => { w with st := .fetching, data := [], released := false }
  | _, _ => Slot.reset

/-- A tile as the state readout leaves it. -/
def saveTile (v : Tile) (tagOf : Nat → Option (Nat × Nat)) : Tile :=
  { v with
    slots := v.slots.map (fun e => (e.1, saveSlot e.2 (if bit v.mask 3 then tagOf e.1 else none))),
    cell := { v.cell with task := none, latch := [] } }

/-- The registers of an operator after a restore: RW fields from the record, the others as saved, and MEMORY POS where ITER is
saved or a record was pending (R287, R302, R392). -/
def restoreRegs (c : Nat) (pos : Bool) (fresh saved : Tbl Word32) : Tbl Word32 :=
  (List.range 16).filterMap (fun n => match opMap c n with
    | some (.rw _) => some (n, if c = slotMEMORY ∧ n = 1 ∧ pos then saved.get 0 n else fresh.get 0 n)
    | some _ => some (n, saved.get 0 n)
    | none => if n = 15 then some (n, saved.get 0 n) else none)

/-- An operator after a restore (R291, R392, R394): what its mask left out comes back at its install value, and a join
whose channel state was left out has aborted its snapshot. -/
def restoreOp (c : Nat) (mask : Byte) (fresh v : Op) : Op :=
  let ck := bit mask 0
  let acc := bit mask 1
  let it := bit mask 2
  let pos := it || v.record.isSome
  let o := { v with
    used := fresh.used, regs := restoreRegs c pos fresh.regs v.regs,
    buf := if ck then v.buf else [], ckbuf := if ck then v.ckbuf else [],
    block := if ck then v.block else none, pend := if (if c = slotSELECT then it else ck) then v.pend else [], hist := if it then v.hist else [],
    elems := if c = slotDELAY then (if it then v.elems else []) else if c = slotCONVERT then (if ck then v.elems else [])
      else v.elems,
    lut := if acc then v.lut else [], cnt := if acc then v.cnt else [], parts := if acc then v.parts else [],
    col := if it then v.col else none, elem := if pos then v.elem else 0, record := none,
    held := fresh.held, desc := fresh.desc, pts := max v.pts fresh.pts }
  if o.snapAct && !ck then putSnap o o.snapId false true else o

/-- A restored tile: its record's configuration with its saved state (R218, R394). A tag that was not current comes back as
no tag (R285). -/
def restoreTile (fresh v : Tile) : Tile :=
  { fresh with
    cell := { v.cell with pts := max v.cell.pts fresh.cell.pts },
    ops := fresh.ops.map (fun e => (e.1, restoreOp e.1 v.mask e.2 (v.ops.get Op.reset e.1))),
    slots := v.slots.map (fun e => (e.1, { e.2 with tag := e.2.tag.filter (fun g => g.2 == 1) })), fetchPts := max v.fetchPts fresh.fetchPts,
    eng := if bit v.mask 1 then { v.eng with queue := [] } else Engine.reset,
    captured := v.captured }

end Sys2Proof.Machine
end

