-- ==== Sys2Proof/Machine/Residency.lean ====
section
/-! DEFINITION. The residency managers: demand, placement, install and restore, eviction and save, migration, and the
entry of a job into a configuration (R344 to R347, R353 to R356, R379 to R395, R458, R459). -/

namespace Sys2Proof.Machine

/-! ### Pages and gangs -/

/-- The dies that hold a relocation copy. -/
def presentDies (s : State) : List Nat := (List.range 4).filter s.present

/-- RES of the region of a page changes; every die has yet to acknowledge (R382). -/
def setRes (s : State) (c j v : Nat) (on : Bool) : State :=
  s.updJob c j (fun x => x.updEntry v (fun r => { r with res := on, acks := [] }))

/-- Every present die has taken the last change of a region's entry (R382). -/
def acked (s : State) (c j v : Nat) : Bool :=
  match s.findJob c j with
  | some x => (presentDies s).all (fun d => (x.entry v).acks.contains d)
  | none => true

/-- A page held by a step with PIN = 1 (R356, R384). -/
def stepPinned (s : State) (p : Page) : Bool :=
  match s.findJob p.ctx p.job with
  | none => false
  | some j =>
    match j.steps[j.cstep]? with
    | none => false
    | some e => e.pin && inCurGang s p &&
        (j.gang e.gang == some .waiting || j.gang e.gang == some .resident || j.gang e.gang == some .stepping)

/-- The page is pinned (R384). -/
def pagePinned (s : State) (p : Page) : Bool := p.pinned || stepPinned s p

/-- An absent or saved page is demanded (R383); the placement of its gang has this page to bring in (R353). -/
def demandPage (s : State) (p : Page) : State :=
  if p.st = .absent ∨ p.st = .saved then
    s.updPage p.ctx p.job p.ix (fun x => { x with st := .fetching, records := [], retried := [], attempt := true })
  else s

/-- Every page of a job's current gang is demanded: a gang is placed as a whole (R353, R355). -/
def demandGang (s : State) (j : Job) : State :=
  match curGang j with
  | none => s
  | some g => (gangPages s j g).foldl (fun s ix =>
      match s.page j.ctx j.num ix with
      | some p => demandPage s p
      | none => s) s

/-- A token or PREQ reaches region `v` of a job (R383): its current gang is brought in where it holds the page, except
while the job is QUEUED, ADMITTED or PREEMPTED and has no placement. -/
def demandRegion (s : State) (c n v : Nat) : State :=
  match s.findJob c n with
  | none => s
  | some j =>
    match pageFor s j v with
    | none => s
    | some p =>
      if inCurGang s p && (p.st == .absent || p.st == .saved) &&
          (j.st == .placing || j.st == .running || j.st == .pageWait) then demandGang s j
      else s

/-- A gang of a job enters a state (R356). -/
def setGang (s : State) (c n g : Nat) (st : GangState) : State := s.updJob c n (fun j => { j with gangs := j.gangs.put g st })

/-- The tiles of a gang: the sum of width × height over its pages (R354). -/
def gangTiles (s : State) (j : Job) (g : Nat) : Nat :=
  ((gangPages s j g).map (fun ix => match s.page j.ctx j.num ix with | some p => p.w * p.h | none => 0)).foldl (· + ·) 0

/-- The resident tiles of a context (R309). -/
def residentTiles (s : State) (c : Nat) : Nat :=
  ((s.pages.filter (fun p => p.ctx == c && pagePlaced p)).map (fun p => p.w * p.h)).foldl (· + ·) 0

/-- Every page of a gang is RESIDENT or MIGRATING (R353, R383). -/
def gangIn (s : State) (j : Job) (g : Nat) : Bool :=
  (gangPages s j g).all (fun ix => match s.page j.ctx j.num ix with
    | some p => p.st == .resident || p.st == .migrating
    | none => false)

/-! ### The step port (R345, R350) -/

/-- The step token of a job at its counter (R345). -/
def stepToken (j : Job) (start : Nat) : Token :=
  ⟨mkHdr kDATA 1 1 (j.its % 1024) 0 start j.ctx false false false,
    Lanes.ofList [BitVec.ofNat 32 j.its, BitVec.ofNat 32 j.cstep]⟩

/-- Tokens leave the job's step port for the current START, from the die of its region. DESIGN CHOICE (log entry 71): where
START fails R63 they are not sent, and the job is fenced with ROUTE_INVALID. -/
def stepPort (s : State) (j : Job) (toks : Nat → List Token) : State :=
  match j.steps[j.cstep]? with
  | none => s
  | some e =>
    if destOk (some j) e.start then
      sendTokens s (.step j.ctx j.num) (j.entry (e.start % 64)).die (some j.num) (toks e.start)
    else fenceJob s j.ctx j.num (causeCode .routeInvalid)

/-- The step token of a job, behind an ORD token where a STEP sends it (R345, R350). -/
def sendStep (s : State) (j : Job) (pts : Option Nat) : State :=
  stepPort s j (fun start =>
    (match pts with
      | some p => [ordToken (j.its % 1024) 0 start j.ctx p]
      | none => []) ++ [stepToken j start])

/-! ### Entering a configuration (R345, R356) -/

/-- The current gang is in: its placement is over, it becomes RESIDENT, and a job that waits for it goes on to RUNNING, with the
step token of ITS 0 once (R345, R346, R353, R356). -/
def gangReady (s : State) (c n : Nat) : State :=
  match s.findJob c n with
  | none => s
  | some j =>
    match curGang j with
    | none => s
    | some g =>
      if gangIn s j g && (j.gang g == some .waiting || j.gang g == some .resident) then
        let s0 := (gangPages s j g).foldl (fun s ix => s.updPage c n ix (fun x => { x with attempt := false })) s
        let s1 := setGang (if j.st = .pageWait then setJobState s0 c n .placing 0 else s0) c n g .resident
        if j.st = .placing ∨ j.st = .pageWait then
          let s2 := setGang (setJobState s1 c n .running 0) c n g .stepping
          if j.first then
            (sendStep s2 { j with its := 0 } none).updJob c n (fun j => { j with first := false })
          else s2
        else s1
      else s

/-- Steps with COUNT 0 from `i` are passed over (R343, R345). -/
def skipSteps (l : List StepEntry) : (i fuel : Nat) → Nat
  | i, 0 => i
  | i, n + 1 => match l[i]? with
    | some e => if e.count = 0 then skipSteps l (i + 1) n else i
    | none => i

/-- The gang of the current step becomes current (R354, R356): fenced with QUOTA where it exceeds the TILES quota, RESIDENT
where it was DONE with every page in, and otherwise WAITING; its placement is requested where `now`. -/
def becomeCurrent (s : State) (c n : Nat) (now : Bool) : State :=
  match s.findJob c n with
  | none => s
  | some j =>
    match curGang j with
    | none => s
    | some g =>
      if quotaTiles s c < gangTiles s j g then fenceJob s c n (causeCode .quota)
      else if j.gang g = some .done ∧ gangIn s j g then setGang s c n g .resident
      else if now then demandGang (setGang s c n g .waiting) j
      else setGang s c n g .waiting

/-- The gang of the current step becomes current and is brought in (R354, R356). -/
def requestGang (s : State) (c n : Nat) : State := gangReady (becomeCurrent s c n true) c n

/-- A job enters the configuration of its step (R345). The gang of a PREEMPTED job becomes current, and is brought in once the
job is chosen again (R346). -/
def enterConfig (s : State) (c n : Nat) : State :=
  match s.findJob c n with
  | none => s
  | some j =>
    let k := skipSteps j.steps j.cstep j.steps.length
    let s1 := s.updJob c n (fun j => { j with cstep := k, first := true })
    if j.steps.length ≤ k then setJobState s1 c n .draining 0
    else if j.st = .preempted then becomeCurrent s1 c n false
    else requestGang (setJobState s1 c n .placing 0) c n

/-! ### Freezing (R390, R459) -/

/-- A record of a page's operator, fetch unit or binding that the freeze withdraws (R459). -/
def withdraws (tiles : List Nat) (x : TrapRec) : Bool :=
  tiles.contains x.tile && !x.acted && (x.agent == 2 || x.agent == 4 || x.agent == 5 || x.agent == 7)

/-- The task that a queue-engine record holds is aborted with the record's CODE (R459). -/
def abortHeld (s : State) (x : TrapRec) : State :=
  if x.agent = 7 then abortTask s x.tile (causeOf x.code) x.tval else s

/-- The ring records of a page's agents are withdrawn on isle `k` (R459). -/
def withdrawIsle (s : State) (k : Nat) (tiles : List Nat) : State :=
  let i := s.isle k
  let live := (List.range i.ringCount).map (fun n => (i.trHead + n) % 64)
  let mine := live.filter (fun n => withdraws tiles (i.ringAt n))
  let s1 := (mine.map i.ringAt).foldl abortHeld s
  let s2 := (i.waitRecs.filter (withdraws tiles)).foldl abortHeld s1
  s2.updIsle k (fun i => { i with
    ring := mine.foldl (fun r n => r.put n { r.get TrapRec.zero n with acted := true }) i.ring,
    waitRecs := i.waitRecs.filter (fun x => !withdraws tiles x) })

/-- A tile whose agents' records are gone: they may act again after the restore (R394). That a record of MEMORY was pending is
part of what is saved (R392). -/
def unrecord (v : Tile) : Tile :=
  { v with
    ops := v.ops.map (fun e => (e.1, { e.2 with record := if e.1 = slotMEMORY then e.2.record else none })),
    slots := v.slots.map (fun e => (e.1, { e.2 with record := none })) }

/-- The records of a page's agents are withdrawn, those of the stream bindings that feed it among them (R459). -/
def withdrawPage (s : State) (p : Page) : State :=
  let tiles := pageTileList p
  let ports := fedBy s p
  let isles := tiles.map tileIsle ++ ports.filterMap (fun d => (s.die d).port.binding.map (fun b => b.isle))
  let s1 := isles.eraseDups.foldl (fun s k => withdrawIsle s k (tiles ++ ports.map (fun d => 8192 + d))) s
  let s2 := ports.foldl (fun s d => s.updDie d (fun v =>
    { v with port := { v.port with binding := v.port.binding.map (fun b => { b with record := none }) } })) s1
  tiles.foldl (fun s t => s.updTile t unrecord) s2

/-- A page is frozen for a save: RES := 0, records withdrawn, FROZEN (R390, R459). -/
def freezePage (s : State) (p : Page) (st : PageState) : State :=
  let s1 := setRes s p.ctx p.job p.region false
  (freezeTiles (withdrawPage s1 p) p true).updPage p.ctx p.job p.ix (fun x => { x with st := st, drained := false, attempt := false })

/-! ### Eviction (R347, R383, R389) -/

/-- A page on its way in goes back: SAVED with its store where saved state exists, else ABSENT (R383, R393). -/
def unplace (s : State) (p : Page) : State :=
  (freeLoads (freeRegion s p) p).updPage p.ctx p.job p.ix (fun x =>
    { x with st := if x.save.isSome then .saved else .absent, load := none, reserved := x.save.isSome && x.reserved,
             attempt := false })

/-- One page of an evicted gang (R383). -/
def evictPage (s : State) (p : Page) : State :=
  match p.st with
  | .resident => freezePage s p .draining
  | .migrating => s.updPage p.ctx p.job p.ix (fun x => { x with evicting := true })
  | .fetching | .placing | .installing => unplace s p
  | _ => s

/-- Every page that a gang acts on is evicted (R351, R354); a snapshot of the current gang aborts (R396). -/
def evictPages (s : State) (j : Job) (g : Nat) : State :=
  let s := s.updJob j.ctx j.num (fun x =>
    if curGang x = some g then { x with snap := x.snap.map (fun v => { v with abort := true }) } else x)
  (actsOn s j g).foldl (fun s ix =>
    match s.page j.ctx j.num ix with
    | some p => evictPage s p
    | none => s) s

/-- A gang is evicted for another, or by PEVT: a current gang waits again, and its RUNNING job goes to PAGE_WAIT (R346,
R356, R389). -/
def evictGang (s : State) (c n g : Nat) : State :=
  match s.findJob c n with
  | none => s
  | some j =>
    let s1 := evictPages s j g
    if curGang j = some g ∧ (j.gang g = some .resident ∨ j.gang g = some .stepping) then
      let s2 := setGang s1 c n g .waiting
      if j.st = .running then setJobState s2 c n .pageWait 0 else s2
    else s1

/-- A job is pre-empted (R346, R347, R356): its current gang is evicted, pinned pages too, and the cores of the isles that
held its pages take PREEMPT. -/
def preemptJob (s : State) (c n : Nat) : State :=
  match s.findJob c n with
  | none => s
  | some j =>
    if j.st = .placing ∨ j.st = .pageWait ∨ j.st = .running then
      match curGang j with
      | none => s
      | some g =>
        let held := (gangPages s j g).flatMap (fun ix => match s.page c n ix with
          | some p => if pagePlaced p then (pageTileList p).map tileIsle else []
          | none => [])
        let s1 := evictPages s j g
        let s2 := setJobState (setGang s1 c n g .preempted) c n .preempted 0
        held.eraseDups.foldl (fun s k => s.updCore k (fun cr => { cr with preempts := cr.preempts ++ [n] })) s2
    else s

/-! ### Placement (R353, R380, R385, R389, R393) -/

/-- The column sets from `bx` that carry `need` page columns, with `extra` columns skipped beside the shoal columns: SKIP and
the span of each (R380). `stop` says which columns no region may hold. Among sets of one size those that skip later columns
come first (log entry 72). -/
def spanSets (bad stop : Nat → Bool) (bx : Nat) : (fuel i need extra skip : Nat) → List (Nat × Nat)
  | _, i, 0, 0, skip => [(skip, i)]
  | _, _, 0, _ + 1, _ => []
  | 0, _, _ + 1, _, _ => []
  | n + 1, i, need + 1, extra, skip =>
    if 63 < bx + i ∨ 32 ≤ i ∨ stop (bx + i) = true then []
    else if bad (bx + i) then (if i = 0 then [] else spanSets bad stop bx n (i + 1) (need + 1) extra (skip + 2 ^ i))
    else spanSets bad stop bx n (i + 1) need extra skip ++
      (match extra with
        | 0 => []
        | e + 1 => if i = 0 then [] else spanSets bad stop bx n (i + 1) (need + 1) e (skip + 2 ^ i))

/-- A shoal lies in column `x` of rows `y` to `y + h − 1` of die `d`. -/
def shoalIn (s : State) (d x y h : Nat) : Bool := (List.range h).any (fun r => (s.die d).shoals.contains (64 * (y + r) + x))

/-- A tile lies in the span of a placed page. -/
def inPage (p : Page) (t : Nat) : Bool :=
  pagePlaced p && tileDie t == p.die && decide (p.bx ≤ tileX t) && decide (tileX t < p.bx + pageSpan p.w p.skip) &&
    decide (p.byy ≤ tileY t) && decide (tileY t < p.byy + p.h)

/-- No page, load slot or task of an ended job holds a tile, and its isle takes placements (R380, R428). -/
def tileFree (s : State) (t : Nat) : Bool :=
  !s.pages.any (inPage · t) && !(s.tile t).ending && !(s.isle (tileIsle t)).fenced

/-- The tile of page column `x`, row `y` at a position. -/
def posTile (p : Page) (bx byy skip x y : Nat) : Nat := tileAt p.die (bx + physCol skip x) (byy + y)

/-- The saved registers that the slots of the tiles on isle `k` need at a position, ascending (R285). -/
def needScales (p : Page) (sv : PageSave) (bx byy skip k : Nat) : List Nat :=
  let used := sv.tiles.flatMap (fun (n, v) =>
    if tileIsle (posTile p bx byy skip (n % 16) (n / 16)) = k then v.slots.filterMap (fun e => e.2.tag.map (·.1)) else [])
  (sv.scales.map (·.1)).filter used.contains

/-- The isles of a page at a position. -/
def posIsles (p : Page) (bx byy skip : Nat) : List Nat :=
  ((List.range p.h).flatMap (fun y => (List.range p.w).map (fun x => tileIsle (posTile p bx byy skip x y)))).eraseDups

/-- The scale registers of a context on isle `k`. -/
def ctxScales (s : State) (k c : Nat) : Nat :=
  (List.range 256).countP (fun r => ((s.isle k).scale r).st != .free && ((s.isle k).scale r).ctx == c)

/-- The frames of a context on isle `k`. -/
def ctxFrames (s : State) (k c : Nat) : Nat := (s.isle k).frames.countP (fun e => e.2.st != .free && e.2.ctx == c)

/-- Saved frames and scale registers fit at a position (R285, R385). -/
def saveFits (s : State) (p : Page) (bx byy skip : Nat) : Bool :=
  match p.save with
  | none => true
  | some sv =>
    let tileOf := fun (n : Nat) => posTile p bx byy skip (n % 16) (n / 16)
    sv.frames.all (fun f => (s.isle (tileIsle (tileOf f.2.tile))).freeAvail.contains f.1) &&
    (posIsles p bx byy skip).all (fun k =>
      let need := (needScales p sv bx byy skip k).length
      decide (need ≤ (List.range 256).countP (fun r => ((s.isle k).scale r).st == .free)) &&
      decide (ctxScales s k p.ctx + need ≤ quotaSreg s p.ctx) &&
      decide (ctxFrames s k p.ctx + sv.frames.countP (fun f => tileIsle (tileOf f.2.tile) == k) ≤ quotaFrames s p.ctx))

/-- The registers that a page saved on one isle exceed the context's whole SREG quota (R285). -/
def scalesNever (s : State) (p : Page) : Bool :=
  match p.save with
  | none => false
  | some sv => (posIsles p p.bx p.byy p.skip).any (fun k =>
      decide (quotaSreg s p.ctx < (needScales p sv p.bx p.byy p.skip k).length))

/-- The first position of a page by lowest BY, then BX, then the fewest skipped columns (R380): BX, BY and SKIP. `ok` says
whether a tile may be used and `fits` whether the position serves, which more skipped columns can help only where `more`. -/
def findPosition (s : State) (p : Page) (more : Bool) (ok : Nat → Bool) (fits : Nat → Nat → Nat → Bool) :
    Option (Nat × Nat × Nat) :=
  (List.range 8).findSome? (fun r =>
    let byy := 4 * r
    if 32 < byy + p.h then none
    else (List.range 64).findSome? (fun bx =>
      let full := fun x => !(List.range p.h).all (fun y => ok (tileAt p.die x (byy + y)))
      (List.range (if more then 32 else 1)).findSome? (fun extra =>
        ((spanSets (fun x => shoalIn s p.die x byy p.h) full bx 64 0 p.w extra 0).find? (fun c => fits bx byy c.1)).map
          (fun c => (bx, byy, c.1)))))

/-- Some position of the page's die could hold it (R383). -/
def everFits (s : State) (p : Page) : Bool := (findPosition s p false (fun _ => true) (fun _ _ _ => true)).isSome

/-- The save-store bytes that a page needs (R393). -/
def saveNeed (p : Page) : Nat := 32768 * (p.w * p.h)

/-- The bytes reserved on a die by pages that satisfy `f`. -/
def saveHeld (s : State) (d : Nat) (f : Page → Bool) : Nat :=
  ((s.pages.filter (fun p => p.reserved && p.die == d && f p)).map saveNeed).foldl (· + ·) 0

/-- The page can reserve its save space now (R393). -/
def storeFits (s : State) (p : Page) : Bool :=
  p.reserved || decide (saveHeld s p.die (fun _ => true) + saveNeed p ≤ 65536 * (s.die p.die).psSize.toNat)

/-- The page's reservation can never be made (R393). -/
def storeNever (s : State) (p : Page) : Bool :=
  !p.reserved && decide (65536 * (s.die p.die).psSize.toNat < saveHeld s p.die (pagePinned s) + saveNeed p)

/-- The page is placed (R383, R385): the entry is written with RES 0, the save space reserved, and a waiting job goes on. -/
def placePage (s : State) (p : Page) (bx byy skip : Nat) : State :=
  let s1 := s.updPage p.ctx p.job p.ix (fun x =>
    { x with st := .installing, bx := bx, byy := byy, skip := skip, reserved := true })
  let s2 := s1.updJob p.ctx p.job (fun j => j.updEntry p.region (fun r =>
    { r with bx := bx, byy := byy, skip := skip }))
  match s2.findJob p.ctx p.job with
  | none => s2
  | some j =>
    if inCurGang s2 p then
      let s3 := if j.st = .pageWait then setJobState s2 p.ctx p.job .placing 0 else s2
      demandGang s3 j
    else s2

/-- No region is free and no victim remains: the pages that this placement of the gang has brought in are freed, those that
were RESIDENT before it stay, and the job waits (R346, R353). -/
def waitForRegion (s : State) (p : Page) : State :=
  match s.findJob p.ctx p.job with
  | none => s
  | some j =>
    if inCurGang s p ∧ j.st = .placing then
      let s1 := (gangPages s j ((curGang j).getD 0)).foldl (fun s ix =>
        match s.page p.ctx p.job ix with
        | some q => if ix ≠ p.ix ∧ q.attempt ∧ (q.st = .installing ∨ q.st = .resident) then evictPage s q else s
        | none => s) s
      setJobState s1 p.ctx p.job .pageWait 0
    else s

/-- A gang that may be evicted for page `p`: its job and index, and its order under R389. -/
structure Victim where
  job : Nat
  gang : Nat
  current : Bool
  stamp : Nat

/-- The unpinned RESIDENT gangs of a page's context that act on a page on its die, without the gang of the page itself
(R351, R389). -/
def victims (s : State) (p : Page) : List Victim :=
  (s.liveJobs p.ctx).flatMap (fun j =>
    (List.range (((s.kernelOf j).map (fun k => k.gangs.length)).getD 0)).filterMap (fun g =>
      let ps := (actsOn s j g).filterMap (fun ix => s.page j.ctx j.num ix)
      let own := j.num == p.job && (gangPages s j g).contains p.ix
      let st := j.gang g
      if !own && st != some .waiting && st != some .preempted &&
          ps.any (fun q => q.st == .resident && q.die == p.die) &&
          ps.all (fun q => q.st == .resident) && !ps.any (pagePinned s) then
        some ⟨j.num, g, curGang j == some g, ps.foldl (fun m q => max m q.stamp) 0⟩
      else none))

/-- The order of R389 among victims. -/
def victimBefore (a b : Victim) : Bool :=
  if a.current ≠ b.current then !a.current
  else if a.stamp ≠ b.stamp then decide (a.stamp < b.stamp)
  else if a.job ≠ b.job then decide (a.job < b.job)
  else decide (a.gang ≤ b.gang)

/-- The victim that goes first. -/
def firstVictim (l : List Victim) : Option Victim :=
  l.foldl (fun b v => match b with | none => some v | some x => if victimBefore x v then some x else some v) none

/-- The page finds no position now: the next victim goes, or the job waits (R389). While a page of the context is still
leaving the die, the placement waits for it. -/
def makeRoom (s : State) (p : Page) : State :=
  if s.pages.any (fun q => q.ctx == p.ctx && q.die == p.die && (q.st == .draining || q.st == .migrating)) then s
  else match firstVictim (victims s p) with
    | some v => evictGang s p.ctx v.job v.gang
    | none => waitForRegion s p

/-- PAGE_PLACEMENT of a PLACING page (R380, R383, R385, R389, R393, R458). -/
def placeStep (s : State) (p : Page) : State :=
  let other := s.pages.find? (fun q =>
    q.ctx == p.ctx && q.job == p.job && q.region == p.region && q.ix != p.ix && pagePlaced q)
  if !everFits s p || storeNever s p then fenceJob s p.ctx p.job (causeCode .placeFail)
  else if scalesNever s p then fenceJob s p.ctx p.job (causeCode .quota)
  else match other with
    | some q =>
      if pagePinned s q then waitForRegion s p
      else if q.st = .resident then
        match s.findJob p.ctx p.job with
        | some j => evictGang s p.ctx p.job (gangOf s j q.ix)
        | none => s
      else s
    | none =>
      if quotaTiles s p.ctx < residentTiles s p.ctx + p.w * p.h then makeRoom s p
      else if storeFits s p then
        match findPosition s p p.save.isSome (tileFree s) (saveFits s p) with
        | some (bx, byy, skip) => placePage s p bx byy skip
        | none => makeRoom s p
      else makeRoom s p

/-! ### Save (R284, R391, R392) -/

/-- A tile has come to rest: no task, no token of it on its way out, no queued command (R390, R391). -/
def tileQuiet (s : State) (t : Nat) : Bool :=
  (s.cell t).task.isNone && (s.cell t).latch.isEmpty && (s.tile t).eng.queue.isEmpty

/-- The drain of a page has captured everything (R391): every die has acknowledged, nothing resolved to it is under way,
and every element is quiescent. -/
def drainOver (s : State) (p : Page) : Bool :=
  acked s p.ctx p.job p.region && (pageTileList p).all (tileQuiet s) &&
    (s.flights ++ s.circuits.flatMap (fun e => e.2.retry.flatMap (·.toks))).all (fun f => match f.dest with
      | some t => f.hwq || !(pageTileList p).contains t
      | none => true)

/-- The windows of a tile's accumulators close, a slot that TREL has named is released, and one that still fetches is FAULTED
with PREEMPT and no fault record (R283, R391). -/
def settleTile (s : State) (t : Nat) : State :=
  let s1 := flushAcc (flushAcc s t 0) t 1
  (List.range 8).foldl (fun s n =>
    if ((s.tile t).slot n).st = .releasing then releaseSlot s t n
    else if ((s.tile t).slot n).st = .fetching then s.updSlot t n (fun v => { v with st := .faulted, preempt := true })
    else s) s1

/-- Open windows of frozen pages close (R283). -/
def settlePages (s : State) (l : List Page) : State := (l.flatMap pageTileList).foldl settleFrozen s

/-- The drain ends (R283, R391). -/
def endDrain (s : State) (p : Page) : State :=
  ((pageTileList p).foldl settleTile s).updPage p.ctx p.job p.ix (fun x => { x with drained := true })

/-- The scale registers that tags of a page's slots name, where SCALE is saved (R284): isle and register. -/
def pageScales (s : State) (p : Page) : List (Nat × Nat) :=
  ((pageTileList p).flatMap (fun t => (List.range 8).filterMap (fun n =>
    let v := (s.tile t).slot n
    if bit (s.tile t).mask 3 && v.st != .free then v.tag.map (fun g => (tileIsle t, g.1)) else none))).eraseDups

/-- The position of an element in a list. -/
def indexOf (l : List (Nat × Nat)) (x : Nat × Nat) : Option Nat :=
  (List.range l.length).find? (fun i => l[i]? == some x)

/-- The name of a context that maps to register `r` of isle `k`. -/
def nameOf (s : State) (k c r : Nat) : Option Nat :=
  (List.range 256).find? (fun n => (s.isle k).scaleName c n == some r)

/-- The save record of a page (R284, R392). -/
def pageSave (s : State) (p : Page) : PageSave :=
  let regs := pageScales s p
  { tiles := (pageTiles p).map (fun (x, y, t) =>
      let v := s.tile t
      (16 * y + x, saveTile v (fun n =>
        (v.slot n).tag.bind (fun g => (indexOf regs (tileIsle t, g.1)).map (fun i =>
          (i, b2n (tagCurrent (s.isle (tileIsle t)) p.ctx (v.slot n).tag))))))),
    frames := (pageTiles p).flatMap (fun (x, y, t) =>
      ((s.isle (tileIsle t)).frames.filter (fun e => e.2.st == .live && e.2.tile == t && e.2.ctx == p.ctx)).map
        (fun e => (e.1, { e.2 with tile := 16 * y + x }))),
    scales := regs.mapIdx (fun i (k, r) => (i, nameOf s k p.ctx r, ((s.isle k).scale r).words)) }

/-- The readout ends: the state is saved and the region freed (R383, R392). -/
def readOut (s : State) (p : Page) (st : PageState) : State :=
  let sv := pageSave s p
  (freeRegion s p).updPage p.ctx p.job p.ix (fun x => { x with st := st, save := some sv, drained := false })

/-! ### Install and restore (R285, R385, R394) -/

/-- A saved scale register takes the lowest FREE one of isle `k` (R285 step 1): the register it takes. -/
def takeScale (s : State) (k c : Nat) (named : Bool) (words : Tbl (BitVec 16)) : Nat × State :=
  let i := s.isle k
  let r := ((List.range 256).find? (fun r => (i.scale r).st == .free)).getD 0
  (r, s.setIsle k (i.setScale r ⟨if named then .named else .orphan, c, 0, 0, words⟩))

/-- A saved name maps to register `r`, and the register that it named before is ORPHAN or FREE (R256, R285 step 2). -/
def mapScale (s : State) (k c n r : Nat) : State :=
  let i := s.isle k
  let i1 := match i.scaleName c n with
    | some o =>
      let v := i.scale o
      i.setScale o (if 0 < v.live then { v with st := .orphan } else { v with st := .free, ctx := 0 })
    | none => i
  s.setIsle k (i1.setName c n (some r))

/-- Saved scale registers come back on isle `k` (R285): each takes its register, and then each saved name is mapped. The
list gives each one's ordinal, name and words, the result the register of each ordinal. -/
def restoreScale (s : State) (k c : Nat) (l : List (Nat × Option Nat × Tbl (BitVec 16))) : List (Nat × Nat) × State :=
  let (regs, s1) := l.foldl (fun (a : List (Nat × Nat) × State) e =>
    let (r, s1) := takeScale a.2 k c e.2.1.isSome e.2.2
    (a.1 ++ [(e.1, r)], s1)) ([], s)
  (regs, (l.zip regs).foldl (fun s e => match e.1.2.1 with
    | some n => mapScale s k c n e.2.2
    | none => s) s1)

/-- The tags of the slots of tile `t` that name saved register `n` become (r, 0) (R285). -/
def retag (s : State) (t n r : Nat) : State :=
  (List.range 8).foldl (fun s m =>
    if ((s.tile t).slot m).tag = some (n, 1) then
      (s.updSlot t m (fun v => { v with tag := some (r, 0) })).updIsle (tileIsle t) (fun i => addLive i r)
    else s) s

/-- The saved registers of a page come back on isle `k`, and the tags that name them (R285). -/
def restoreScales (s : State) (p : Page) (sv : PageSave) (k : Nat) : State :=
  let l := (needScales p sv p.bx p.byy p.skip k).filterMap (fun n => sv.scales.find? (fun e => e.1 == n))
  let (regs, s1) := restoreScale s k p.ctx l
  regs.foldl (fun s e =>
    ((pageTileList p).filter (fun t => tileIsle t == k)).foldl (fun s t => retag s t e.1 e.2) s) s1

/-- A saved frame comes back with its number (R385). -/
def restoreFrame (s : State) (p : Page) (f : Nat × Frame) : State :=
  let t := posTile p p.bx p.byy p.skip (f.2.tile % 16) (f.2.tile / 16)
  s.updIsle (tileIsle t) (fun i =>
    { i with frames := i.frames.put f.1 { f.2 with tile := t }, freeList := i.freeList.filter (· != f.1) })

/-- The records of a page pass their configuration checks, each for a tile of the page of its own (R385). DESIGN CHOICE (log
entry 73): a tile word outside the page, and two records for one tile, fail the check. -/
def recordsOk (p : Page) : Bool :=
  let at' := p.records.map (fun r => (recX r, recY r))
  p.records.all (fun r => decide (recX r < p.w) && decide (recY r < p.h) &&
    recordOk (tileKind (tileAt p.die (p.bx + physCol p.skip (recX r)) (p.byy + recY r))) r) &&
    decide (at'.eraseDups.length = at'.length)

/-- The page is RESIDENT (R383, R394): saved state comes back, senders deliver again, behind what waits; a freeze that
only THAW ends stays. -/
def makeResident (s : State) (p : Page) : State :=
  let s1 := match p.save with
    | none => s
    | some sv =>
      let one := fun (s : State) (q : Nat × Nat × Nat) =>
        match sv.tiles.find? (fun (e : Nat × Tile) => e.1 == 16 * q.2.1 + q.1) with
        | some e => s.setTile q.2.2 (restoreTile (s.tile q.2.2) e.2)
        | none => s
      let s2 := (pageTiles p).foldl one s
      let s3 := sv.frames.foldl (fun s f => restoreFrame s p f) s2
      (posIsles p p.bx p.byy p.skip).foldl (fun s k => restoreScales s p sv k) s3
  let waits := (pageTileList p).any (fun t => !(s1.tile t).captured.isEmpty)
  let s4 := s1.updJob p.ctx p.job (fun j => j.updEntry p.region (fun r =>
    { r with res := true, lag := r.lag || waits, acks := [] }))
  let s5 := freezeTiles s4 p p.frz
  s5.updPage p.ctx p.job p.ix (fun x => { x with st := .resident, save := none, evicting := false, load := none })

/-- Every tile of a page is configured from the page's records (R385). -/
def writeTiles (s : State) (p : Page) : State :=
  (pageTiles p).foldl (fun s (x, y, t) =>
    installTile s t ⟨p.ctx, p.job, p.region, x, y, p.bx, p.byy, p.skip⟩ (p.records.find? (fun r => recX r == x && recY r == y))
      (physRoute p.skip x)) (baseSkipped s p true)

/-- PAGE_INSTALL_DONE (R383, R385): RESIDENT, or FAILED with PAGE_CRC where a configuration check fails. -/
def installStep (s : State) (p : Page) : State :=
  if recordsOk p then gangReady (makeResident (writeTiles s p) p) p.ctx p.job
  else fenceJob s p.ctx p.job (causeCode .pageCrc)

/-! ### Fetch (R383, R385) -/

/-- The request with which page records are read (R385): R is needed and U is not checked; CFG memory is read. -/
def recordReq (s : State) (c : Nat) : Req := { engReq s .sched .data c with user := false, records := true }

/-- One record read from the image. -/
def readRecord (s : State) (c a : Nat) : Except (Cause × Word64) (List Byte × State) :=
  match readVa s (recordReq s c) a 4 2 with
  | .error e => .error e
  | .ok (l, s1) =>
    let n := recLen (BitVec.ofNat 32 (numOf l))
    readVa s1 (recordReq s c) a n (pieces n)

/-- Every record not yet good is read; none where a read meets a fault. -/
def readRecords (s : State) (c : Nat) : (addrs : List Nat) → (old : List (List Byte)) → Option (List (List Byte) × State)
  | [], _ => some ([], s)
  | a :: r, old =>
    let h := old.headD []
    let one := if h.isEmpty then (match readRecord s c a with | .ok x => some x | .error _ => none) else some (h, s)
    match one with
    | none => none
    | some (l, s1) => (readRecords s1 c r old.tail).map (fun x => (l :: x.1, x.2))

/-- PAGE_FETCH_DONE (R383, R385): PLACING once every CRC is good; a record whose CRC fails is read once more, and a second
failure or a memory fault fences the job. -/
def fetchStep (s : State) (p : Page) : State :=
  let addrs := match (s.findJob p.ctx p.job).bind s.kernelOf with
    | some k => ((k.pages[p.ix]?).map (·.recs)).getD []
    | none => []
  match readRecords s p.ctx addrs p.records with
  | none => fenceJob s p.ctx p.job (causeCode .pageAbsent)
  | some (l, s1) =>
    let bad := (List.range l.length).filter (fun i => !recCrcOk (l.getD i []))
    if bad.isEmpty then s1.updPage p.ctx p.job p.ix (fun x => { x with st := .placing, records := l })
    else if bad.any p.retried.contains then fenceJob s1 p.ctx p.job (causeCode .pageCrc)
    else s1.updPage p.ctx p.job p.ix (fun x =>
      { x with records := l.mapIdx (fun i r => if bad.contains i then [] else r), retried := x.retried ++ bad })

/-! ### Migration (R395) -/

/-- DEFRAG_MIGRATE: the unpinned RESIDENT gang of a page is frozen to be moved (R383, R384, R395). -/
def migrateStep (s : State) (p : Page) : State :=
  match s.findJob p.ctx p.job with
  | none => s
  | some j =>
    let ps := (actsOn s j (gangOf s j p.ix)).filterMap (fun ix => s.page p.ctx p.job ix)
    if ps.all (fun q => q.st == .resident && !pagePinned s q) then ps.foldl (fun s q => freezePage s q .migrating) s else s

/-- MIGRATION_DONE: once a MIGRATING page has drained it is saved and restored at another position of its die, or at its own where
there is no other (R383, R395); while neither can take its saved registers and frames (R285) it stays MIGRATING. An eviction that
was held follows. -/
def migrated (s : State) (p : Page) : State :=
  let s1 := readOut (endDrain s p) p .migrating
  let free := fun t => !(s1.pages.any (fun q => inPage q t && !(q.ctx == p.ctx && q.job == p.job && q.ix == p.ix))) &&
    !(s1.tile t).ending && !(s1.isle (tileIsle t)).fenced
  match s1.page p.ctx p.job p.ix with
  | none => s1
  | some q =>
    let there := fun bx byy skip => saveFits s1 q bx byy skip
    let own := if there q.bx q.byy q.skip then some (q.bx, q.byy, q.skip) else none
    match (findPosition s1 q q.save.isSome free (fun bx byy skip => !(bx == q.bx && byy == q.byy) && there bx byy skip)).orElse
        (fun _ => own) with
    | none => s
    | some (bx, byy, skip) =>
      let q1 := { q with bx := bx, byy := byy, skip := skip }
      let s2 := s1.updPage p.ctx p.job p.ix (fun x => { x with bx := bx, byy := byy, skip := skip })
      let s3 := s2.updJob p.ctx p.job (fun j => j.updEntry p.region (fun r => { r with bx := bx, byy := byy, skip := skip }))
      let s4 := gangReady (makeResident (writeTiles s3 q1) q1) p.ctx p.job
      if p.evicting then
        match s4.findJob p.ctx p.job with
        | some j => evictGang s4 p.ctx p.job (gangOf s4 j p.ix)
        | none => s4
      else s4

/-! ### Meanings -/

/-- An event of page number `n` of the module, in the state it needs. -/
def pageEvent (s : State) (n : Nat) (ok : Page → Bool) (f : State → Page → State) : State :=
  match s.pages[n]? with
  | none => s
  | some p => if ok p ∧ (s.findJob p.ctx p.job).isSome then f s p else s

/-- PAGE_FETCH_DONE (R383, R385). -/
def execPageFetchDone (p : Nat) (s : State) : Host.Outcome State Fault Refusal :=
  .next (pageEvent s p (fun q => q.st == .fetching) fetchStep)

/-- PAGE_PLACEMENT (R380, R383, R385). A page that has left while its gang waits, for a region or for the job's choice, is brought
in again (R346, R356). -/
def execPagePlacement (p : Nat) (s : State) : Host.Outcome State Fault Refusal :=
  .next (pageEvent s p (fun q => q.st == .placing || q.st == .absent || q.st == .saved) (fun s q =>
    if q.st = .placing then placeStep s q
    else match s.findJob q.ctx q.job with
      | some j => if (j.st = .pageWait ∨ j.st = .placing) ∧ inCurGang s q then demandGang s j else s
      | none => s))

/-- PAGE_INSTALL_DONE (R383, R386). -/
def execPageInstallDone (p : Nat) (s : State) : Host.Outcome State Fault Refusal :=
  .next (pageEvent s p (fun q => q.st == .installing && q.load.isNone) installStep)

/-- PAGE_DRAIN_DONE (R391). -/
def execPageDrainDone (p : Nat) (s : State) : Host.Outcome State Fault Refusal :=
  .next (pageEvent s p (fun q => q.st == .draining && !q.drained && drainOver s q) endDrain)

/-- PAGE_READOUT_DONE (R383, R392). -/
def execPageReadoutDone (p : Nat) (s : State) : Host.Outcome State Fault Refusal :=
  .next (pageEvent s p (fun q => q.st == .draining && q.drained) (fun s q => readOut s q .saved))

/-- RELOCATION_ACK: die `d` has taken the last change of a job's entries (R382). -/
def execRelocationAck (c : Nat) (j : Nat) (d : Nat) (s : State) : Host.Outcome State Fault Refusal :=
  .next (s.updJob c j (fun x => { x with reloc := x.reloc.map (fun e => (e.1, { e.2 with acks := insertOnce e.2.acks d })) }))

/-- DEFRAG_MIGRATE (R384, R395). -/
def execDefragMigrate (p : Nat) (s : State) : Host.Outcome State Fault Refusal :=
  .next (pageEvent s p (fun q => q.st == .resident) migrateStep)

/-- MIGRATION_DONE (R383, R395). -/
def execMigrationDone (p : Nat) (s : State) : Host.Outcome State Fault Refusal :=
  .next (pageEvent s p (fun q => q.st == .migrating && drainOver s q) migrated)

end Sys2Proof.Machine
end

