-- ==== Sys2Proof/Machine/Tenant.lean ====
section
/-! DEFINITION. Contexts as the launch scheduler drives them: commands to contexts and queues, the steps of a tenant switch, and
the context fence (R312 to R317, R324). -/

namespace Sys2Proof.Machine

/-! ### Queue states (R324) -/

/-- The context's queues take commands (R313). -/
def cmdCtx (s : State) (c : Nat) : Bool := (s.ctx c).st == .opened || (s.ctx c).st == .active

/-- CTL has no reserved bit set, and in a valid entry of a kind that has queues LOG2N and HWQ are in range (R12, R322, R338, log
entry 81). -/
def ctlClean (ctl : Nat) : Bool :=
  fieldOf ctl 62 42 == 0 && fieldOf ctl 28 26 == 0 && fieldOf ctl 19 16 == 0 && fieldOf ctl 12 7 == 0 &&
    (!qValid ctl || qKind ctl == 3 || (decide (4 ≤ fieldOf ctl 33 29) && decide (fieldOf ctl 33 29 ≤ 20) &&
      (if qKind ctl = 2 then decide (16 ≤ qHwq ctl) else qHwq ctl == 0)))

/-- Bytes 0x20 to 0x3F of an entry are zero, as the scheduler reads them (R322). -/
def restClean (s : State) (c q : Nat) : Bool :=
  match schedRead s c (qEntry s c q + 0x20) 32 with
  | .ok (l, _) => l.all (· == 0)
  | .error _ => false

/-- QCMD ENABLE (R324): the journal entry comes before HEAD and TAIL (R330). -/
def enableQueue (s : State) (c q : Nat) : State :=
  let ctl := qCtl s c q
  if (s.ctx c).st = .slicedOut then busyQcmd s 1 c q
  else if cmdCtx s c ∧ qValid ctl ∧ ctlClean ctl ∧ restClean s c q ∧ qState ctl = 0 then
    let s1 := setQState s c q 1
    let s2 := schedWrite (schedWrite s1 c (qEntry s1 c q + 0x10) (bytesOf 0 8)) c (qEntry s1 c q + 0x18) (bytesOf 0 8)
    setQcmd (bindStream s2 c q ctl true) 1 c q false
  else setQcmd s 1 c q true

/-- QCMD DISABLE: entries left in the ring are dropped (R324). -/
def disableQueue (s : State) (c q : Nat) : State :=
  let ctl := qCtl s c q
  if (s.ctx c).st = .slicedOut then busyQcmd s 2 c q
  else if cmdCtx s c ∧ qValid ctl ∧ (qState ctl = 1 ∨ qState ctl = 2) then
    let s1 := setQcmd (setQState s c q 0) 2 c q false
    { s1 with cmds := s1.cmds.filter (fun e => !(e.1 == c && e.2.1 == q)) }
  else setQcmd s 2 c q true

/-- A QCMD command; one for a SLICED_OUT context waits, with BUSY set, until its tenant is loaded (R313, R324). -/
def queueCommand (s : State) (op c q : Nat) : State :=
  match op with
  | 1 => enableQueue s c q
  | 2 => disableQueue s c q
  | _ => s

/-! ### Commands (R312, R313) -/

/-- OPEN's checks on a record (R187, R308, R309, R312, R118). -/
def recordOpens (s : State) (c : Nat) : Bool :=
  let w := fun o => ctxWord s c o
  fieldOf (w 0) 63 19 == 0 && fieldOf (w 0) 7 7 == 0 &&
    fieldOf (w 8) 63 52 == 0 && fieldOf (w 8) 11 1 == 0 &&
    w 0x10 % 2 ^ 16 == 0 && canonical (BitVec.ofNat 64 (w 0x10)) &&
    fieldOf (w 0x18) 63 57 == 0 && decide (fieldOf (w 0x18) 1 0 ≤ 1) &&
    fieldOf (w 0x20) 63 36 == 0 && decide (fieldOf (w 0x20) 35 27 ≤ 256) && decide (fieldOf (w 0x20) 26 14 ≤ 4096) &&
    decide (fieldOf (w 0x20) 13 0 ≤ 8192) && fieldOf (w 0x28) 63 32 == 0 &&
    w 0x40 != 0 && w 0x40 % 512 == 0 && canonical (BitVec.ofNat 64 (w 0x40)) &&
    (List.range 7).all (fun i => w (0x48 + 8 * i) == 0)

/-- OPEN (R312, R313): a FREE context with a valid record. -/
def openCtx (s : State) (c : Nat) : State :=
  if c ≠ 0 ∧ s.mgmt.ctxtab ≠ 0 ∧ (s.ctx c).st = .free ∧ recordOpens s c then
    let t := fieldOf (ctxWord s c 0) 15 8
    let s1 := noteCtxState (s.updCtx c (fun _ => ⟨.free, t, []⟩)) c .opened
    setCtxcmd (putCtxState (poke s1 (ctxField s1 c 0x38) 0) c .opened) 1 c false
  else setCtxcmd s 1 c true

/-- OPEN as a command: one that names a SLICED_OUT context waits, with BUSY set, until its tenant is loaded (R312, R313). -/
def openStep (s : State) (c : Nat) : State :=
  if (s.ctx c).st = .slicedOut then busyCtxcmd s 1 c else openCtx s c

/-- A context that CLOSE and KILL act on (R311, R313). -/
def closable (s : State) (c : Nat) : Bool :=
  let st := (s.ctx c).st
  c != 0 && (st == .opened || st == .active || st == .slicedOut || st == .fenced)

/-- The scale registers and map of a context on an isle are freed (R256). -/
def freeScales (i : Isle) (c : Nat) : Isle :=
  let held := (List.range 256).filter (fun r => (i.scale r).st != .free && (i.scale r).ctx == c)
  let i1 := held.foldl (fun i r => i.setScale r { i.scale r with st := .free, ctx := 0, live := 0 }) i
  { i1 with scaleMap := i1.scaleMap.filter (fun e => e.1 / 256 != c) }

/-- What CLOSE and KILL share (R313, R316, R317): jobs cancelled, copies, wakes, frames, lagoons and scale registers
returned, accepted commands dropped, HELD queues OFF; queues that are ON or OPEN stay so until the context is released (R324, log
entry 82). -/
def closeCtx (s : State) (c : Nat) : State :=
  let s1 := dropContext (endJobs (noteCtxState s c .closing) c .cancelled 0) c
  let s2 := (s1.isles.map (·.1)).foldl (fun s k => s.updIsle k (fun i => freeScales i c)) s1
  let s3 := { s2 with cmds := s2.cmds.filter (fun e => e.1 != c), kernels := s2.kernels.filter (fun k => k.ctx != c) }
  moveQueues (putCtxState (s3.updCtx c (fun x => { x with savedOn := [] })) c .closing) c (fun q => q == 3) 0

/-- CLOSE (R313, R314, R317): during a tenant switch it waits, with BUSY set. -/
def closeStep (s : State) (c : Nat) : State :=
  if closable s c then
    (if s.tslot.isSome then busyCtxcmd s 2 c else setCtxcmd (closeCtx s c) 2 c false)
  else setCtxcmd s 2 c true

/-! ### The steps of a tenant switch (R314, R315) -/

/-- TSW of isle `k` names a step of an operation for a context, and PREEMPT with tval 0 is raised on its core (R315). -/
def nameStep (s : State) (k op c : Nat) : State :=
  let area := schedWord s c (ctxWord s c 0x40 + 8 * k)
  s.updIsle k (fun i => { i with
    tsw := BitVec.ofNat 64 (area / 2 ^ 12 * 2 ^ 12 + c % 256 * 2 ^ 4 + op * 2 ^ 2), tswAt := s.micros,
    core := { i.core with preempts := i.core.preempts ++ [0] } })

/-- OP of TSW. -/
def tswOp (i : Isle) : Nat := bits i.tsw 3 2

/-- CTX of TSW. -/
def tswCtx (i : Isle) : Nat := bits i.tsw 11 4

/-- OP and DONE of TSW go to 0 (R315). -/
def clearTsw (s : State) (k : Nat) : State :=
  s.updIsle k (fun i => { i with tsw := putBits (putBits i.tsw 3 2 0) 0 0 0 })

/-- A context of tenant `t` that the switch concerns; context 0 belongs to no tenant (R311). -/
def ofTenant (s : State) (t c : Nat) : Bool := c != 0 && (s.ctx c).tenant == t && (s.ctx c).st != .free

/-- The context that isle `k` loads for tenant `t`: the one saved from it at the tenant's last switch, or context 0. -/
def incoming (s : State) (t k : Nat) : Nat :=
  ((s.ctxs.find? (fun e => ofTenant s t e.1 && e.2.st != .fenced && e.2.st != .closing && e.2.savedOn.contains k)).map
    (·.1)).getD 0

/-- The contexts of a tenant in a state go to another, with their queues (R313, R324). -/
def moveTenant (s : State) (t : Nat) (a b : CtxState) (f : Nat → Bool) (q : Nat) : State :=
  ((s.ctxs.filter (fun e => ofTenant s t e.1 && e.2.st == a)).map (·.1)).foldl (fun s c =>
    moveQueues (setCtxState s c b) c f q) s

/-- The commands that wait for a switch to end or a tenant to be loaded are carried out (R312, R313, R314, R324). -/
def runHeld (s : State) : State :=
  let x := s.mgmt.ctxcmd
  let y := s.mgmt.qcmd
  let s1 := if bit x 31 ∧ bits x 9 8 = 2 then closeStep s (bits x 7 0) else s
  if bit s1.mgmt.qcmd 31 then queueCommand s1 (bits y 9 8) (bits y 7 0) (bits y 17 10) else s1

/-- The last load step is over: the tenant has the fabric (R313, R314, R324). -/
def endSwitch (s : State) (w : Switch) : State :=
  let s1 := moveTenant s w.inc .slicedOut .active (fun q => q == 3) 1
  runHeld { s1 with tslot := none, tenant := w.inc, slice := s1.micros }

/-- Every saving isle has reported: the load steps are named (R315). -/
def startLoads (s : State) (w : Switch) : State :=
  if w.loading.isEmpty then endSwitch s w
  else { (w.loading.foldl (fun s k => nameStep s k 2 (incoming s w.inc k)) s) with tslot := some w }

/-- A step of isle `k` is over: with the last save the loads begin, and with the last load the switch ends (R315). -/
def stepOver (s : State) (k : Nat) : State :=
  match s.tslot with
  | none => s
  | some w =>
    if w.saving.isEmpty then
      let w1 := { w with loading := w.loading.filter (· != k) }
      if w1.loading.isEmpty then endSwitch s w1 else { s with tslot := some w1 }
    else
      let w1 := { w with saving := w.saving.filter (· != k) }
      if w1.saving.isEmpty then startLoads s w1 else { s with tslot := some w1 }

/-- The saves of a context that are under way end, and what they saved is discarded (R314). -/
def cutSaves (s : State) (c : Nat) : State :=
  ((List.range 64).filter (fun k => tswOp (s.isle k) == 1 && tswCtx (s.isle k) == c)).foldl
    (fun s k => stepOver (clearTsw s k) k) s

/-- KILL (R317); a save of the context that is under way is cut short (R314). -/
def killStep (s : State) (c : Nat) : State :=
  if closable s c then
    let s1 := cutSaves (closeCtx (abortTasks s c .contextKilled) c) c
    let ks := (s1.isles.filter (fun e => e.2.ctx == c)).map (·.1)
    setCtxcmd (ks.foldl (fun s k => s.updCore k (fun x => { x with killed := true })) s1) 3 c false
  else setCtxcmd s 3 c true

/-! ### The context fence (R316) -/

/-- A context is fenced with a cause (R313, R316), and a save of it that is under way is cut short (R314); context 0 never is
(R311). -/
def fenceCtx (s : State) (c : Nat) (cause : BitVec 6) : State :=
  let st := (s.ctx c).st
  if c = 0 then s
  else if st = .opened ∨ st = .active ∨ st = .slicedOut then
    let s0 := noteCtxState s c .fenced
    let s1 := dropContext (endJobs (abortTasks s0 c (causeOf cause)) c .faulted cause) c
    let s2 := orErrsum s1 c (2 ^ 4 + cause.toNat * 2 ^ 8)
    let s3 := putCtxState (s2.updCtx c (fun x => { x with savedOn := [] })) c .fenced
    cutSaves (moveQueues s3 c (fun q => q == 1 || q == 2) 3) c
  else s

end Sys2Proof.Machine
end

