-- ==== Sys2Proof/Machine/Token.lean ====
section
/-! DEFINITION. The token instructions of cells, and INJ of the control core (R162 to R168). -/

namespace Sys2Proof.Machine

/-! ### Shared operations -/

/-- FRAME of a tag scalar (R162). -/
def tagFrame (x : Word64) : Nat := bits x 11 0

/-- ITER of a tag scalar (R162). -/
def tagIter (x : Word64) : Nat := bits x 25 16

/-- The task of cell `t` draws a frame from its reservation, which becomes LIVE with its presence bits clear (R67); an
empty reservation raises FRAME_EXHAUSTED (R68). -/
def drawFrame (s : State) (t : Nat) : Except Stop (Nat × State) :=
  match (s.task t).reserved with
  | [] => raise s .frameExhausted 0
  | f :: r =>
    let s1 := s.updTask t (fun k => { k with reserved := r, drawn := k.drawn ++ [f] })
    .ok (f, s1.updIsle (tileIsle t) (fun i =>
      { i with frames := i.frames.put f { i.frames.get Frame.reset f with st := .live, slots := [] } }))

/-- FRAME and ITER of a send by its tag mode (R163): 0 KEEP, 1 INC, 2 ADD, 3 TMP, 4 NEW. -/
def sendTag (s : State) (t : Nat) (m : Nat) (r : BitVec 5) : Except Stop ((Nat × Nat) × State) := do
  let h := (s.task t).hdr
  match m with
  | 1 => return ((hFrame h, (hIter h + 1) % 1024), s)
  | 2 =>
    let p := extPayload (s.task t).pfx
    return ((hFrame h, (((hIter h : Int) + sextInt p 11) % 1024).toNat), s)
  | 3 =>
    let x ← sGetL s t r
    return ((tagFrame x, tagIter x), s)
  | 4 =>
    let (f, s1) ← drawFrame s t
    return ((f, hIter h), s1)
  | _ => return ((hFrame h, hIter h), s)

/-- What a send composes: its kind, type, length minus 1, status bits, and lanes. -/
structure SendBody where
  kind : Nat
  ty : BitVec 4
  len : Nat
  gap : Bool
  sat : Bool
  inx : Bool
  lanes : Lanes
  deriving DecidableEq, Repr

/-- A control token's part (R164). -/
def ctlBody (kind len : Nat) (l0 l1 : Word32) : SendBody := ⟨kind, 1, len, false, false, false, Lanes.ofList [l0, l1]⟩

/-- The token of SEND (R164): an ERR-started task sends its ERR payload instead. A reserved TYPE of hdr raises
FORMAT_UNSUPPORTED (R19). -/
def dataBody (s : State) (t : Nat) (r : BitVec 5) (n : Nat) : Except Stop SendBody := do
  let k := s.task t
  match k.err with
  | some e => return ctlBody kERR 1 (e.extractLsb' 0 32) (e.extractLsb' 32 32)
  | none =>
    let v ← lGet s t r
    check (!fmtReserved (hType k.hdr)) s .formatUnsupported 0
    return ⟨kDATA, hType k.hdr, n, hGap k.hdr, hSat k.hdr || k.tsat, hInx k.hdr || k.tinx,
      Lanes.ofFn (fun i => if i ≤ n then v.get i else 0)⟩

/-- Every send (R164): the checks in their order, the tag, then the token in the next slot of the latch. -/
def sendUnit (t : Nat) (m : Nat) (r : BitVec 5) (out : Nat) (f : State → Except Stop SendBody) (s : State) : Done := do
  let e := (s.tile t).dests.get 0 out
  let k := s.task t
  check (bit e 31) s .routeInvalid (BitVec.ofNat 64 out)
  check (decide (k.sends < k.slots)) s .routineOverrun 2
  check (destOk (s.findJob (tileCtx s t) (tileJob s t)) (bits e 18 0)) s .routeInvalid 0
  let ((fr, it), s1) ← sendTag s t m r
  let b ← f s
  let h := mkHdr b.kind b.ty b.len it fr (bits e 18 0) (tileCtx s t) b.gap b.sat b.inx
  let s2 := s1.updTask t (fun k => { k with sends := k.sends + 1 })
  fall (s2.setCell t { s2.cell t with latch := (s2.cell t).latch ++ [⟨⟨h, b.lanes⟩, false⟩] })

/-- The fields of a send are legal: TM 0 to 4, RF only with TM = TMP, RS a payload source where it is used (R86, R163). -/
def sendFields (m : BitVec 3) (r : BitVec 5) : Bool := decide (m.toNat ≤ 4) && (if m = 3 then srcL r else r == 0)

/-- RS of a send: t0 to t7, i0 or i1 (R163). -/
def payloadReg (r : BitVec 5) : Bool := decide (r.toNat ≤ 9)

/-- The cycles of SEND (R155). -/
def sendCost (n : Nat) : Nat := (n + 4) / 4

/-- A frame that an instruction of cell `t` may use: LIVE and of the page's context (R67, R167). -/
def frameOk (s : State) (t f : Nat) : Bool :=
  let r := (s.isle (tileIsle t)).frames.get Frame.reset f
  r.st == .live && r.ctx == tileCtx s t

/-- A slot of a frame. -/
def Frame.slot (f : Frame) (n : Nat) : Option Token := f.slots.get none n

/-- The header word of the cell's own tile as a destination: VREG, X and Y (R167, R381). DESIGN CHOICE (log entry 67): the rule
names the tile and no steering entry, and PORT is 0. -/
def ownDest (s : State) (t : Nat) : Nat :=
  match (s.tile t).base with
  | some b => b.vreg + 64 * b.px + 2 ^ 10 * b.py
  | none => 0

/-- The field of a header that HDR names (R165). -/
def hdrField (h : Word64) (c : Nat) : Nat :=
  match c with
  | 0 => hCtx h | 1 => hVreg h | 2 => hX h | 3 => hY h | 4 => hPort h | 5 => hFrame h | 6 => hIter h
  | 7 => hLen h + 1 | 8 => (hType h).toNat | 9 => hKind h | _ => bits h 63 60

/-- INJ after its register fields: the checks of R168 in order, then, once the isle's injection port has credit, the token
leaves it. While it has none, INJ waits and is issued again, so that an asynchronous cause is taken before it with nothing
sent. -/
def injBody (a b : BitVec 5) (k : Nat) (s : State) : Done := do
  let h := gGet s k a
  let p := gGet s k b
  let c := (s.isle k).ctx
  let kind := hKind h
  check (!(bit h 63) && decide (kind ≤ 6) && decide (kind ≠ kERR) && (kind == kDATA || hLen h == kindLen kind))
    s .reservedField h
  check (decide (kind ≠ kDATA) || !fmtReserved (hType h)) s .formatUnsupported 0
  let dest := hDest h
  check (destOk (declaringJob s c (hVreg h)) dest) s .routeInvalid h
  let h' := createHdr (putBits h 7 0 c)
  let send := fun (tok : Token) => if hasCredit s (.inject k) then
      fall (sendTokens s (.inject k) (isleDie k) none [tok])
    else .error (.wait s .reissue)
  if kind = kORD then
    let t := ordToken (hIter h) (hFrame h) dest c (s.core k).pts
    send ⟨h', t.lanes⟩
  else do
    let n := 4 * (hLen h + 1)
    spmCheck s (.core k) p n 4 false true
    let l := lanesOfBytes ((s.isle k).spmRead p.toNat n)
    let lanes := Lanes.ofFn (fun i => if i ≤ hLen h then l.get i else 0)
    check (!tokenReserved ⟨h', lanes⟩) s .reservedField 0
    send ⟨h', lanes⟩

/-! ### Major 0x20 (R163, R164) -/

/-- SEND (R163, R164). -/
def execSend (x : BitVec 5) (r : BitVec 5) (m : BitVec 3) (l : BitVec 3) (o : BitVec 6) (s : State) : Host.Outcome State Fault Refusal :=
  .next (unitL 4 (m == 2) ⟨false, true, sendFields m r && payloadReg x, true, sendCost l.toNat, fun t s =>
    sendUnit t m.toNat r o.toNat (fun s => dataBody s t x l.toNat) s⟩ s)

/-- SENDE (R163, R164). -/
def execSende (r : BitVec 5) (m : BitVec 3) (o : BitVec 6) (v0 : BitVec 5) (v1 : BitVec 3) (s : State) : Host.Outcome State Fault Refusal :=
  .next (unitL 4 (m == 2) ⟨false, true, sendFields m r && v0 == 0 && v1 == 0, true, 1, fun t s =>
    sendUnit t m.toNat r o.toNat (fun _ => .ok (ctlBody kEOS 0 0 0)) s⟩ s)

/-- SENDR: the count is the low word of rs (R163, R164). -/
def execSendr (x : BitVec 5) (r : BitVec 5) (m : BitVec 3) (o : BitVec 6) (v0 : BitVec 3) (s : State) : Host.Outcome State Fault Refusal :=
  .next (unitL 4 (m == 2) ⟨false, true, sendFields m r && v0 == 0 && payloadReg x, true, 1, fun t s =>
    sendUnit t m.toNat r o.toNat (fun s => (sGetL s t x).map (fun v => ctlBody kEOR 0 (v.extractLsb' 0 32) 0)) s⟩ s)

/-- SENDM: the snapshot identifier is rs[15:0] (R163, R164). -/
def execSendm (x : BitVec 5) (r : BitVec 5) (m : BitVec 3) (o : BitVec 6) (v0 : BitVec 3) (s : State) : Host.Outcome State Fault Refusal :=
  .next (unitL 4 (m == 2) ⟨false, true, sendFields m r && v0 == 0 && payloadReg x, true, 1, fun t s =>
    sendUnit t m.toNat r o.toNat (fun s => (sGetL s t x).map (fun v => ctlBody kMARK 0 (BitVec.ofNat 32 (bits v 15 0)) 0)) s⟩ s)

/-- SENDO carries the cell's logical time (R163, R164). -/
def execSendo (r : BitVec 5) (m : BitVec 3) (o : BitVec 6) (v0 : BitVec 5) (v1 : BitVec 3) (s : State) : Host.Outcome State Fault Refusal :=
  .next (unitL 4 (m == 2) ⟨false, true, sendFields m r && v0 == 0 && v1 == 0, true, 1, fun t s =>
    sendUnit t m.toNat r o.toNat (fun s => .ok (ctlBody kORD 1 (BitVec.ofNat 32 (s.cell t).pts)
      (BitVec.ofNat 32 ((s.cell t).pts / 2 ^ 32 % 2 ^ 16)))) s⟩ s)

/-- SEND rs, out, n with TM = KEEP (R90). -/
def execSendShort (x : BitVec 3) (n : BitVec 3) (o : BitVec 4) (s : State) : Host.Outcome State Fault Refusal :=
  .next (unitL 2 false ⟨false, true, true, true, sendCost n.toNat, fun t s =>
    sendUnit t 0 0 o.toNat (fun s => dataBody s t (shortT x) n.toNat) s⟩ s)

/-- SEND.INC rs, out, n (R90). -/
def execSendIncShort (x : BitVec 3) (n : BitVec 3) (o : BitVec 4) (s : State) : Host.Outcome State Fault Refusal :=
  .next (unitL 2 false ⟨false, true, true, true, sendCost n.toNat, fun t s =>
    sendUnit t 1 0 o.toNat (fun s => dataBody s t (shortT x) n.toNat) s⟩ s)

/-! ### Majors 0x21 and 0x22 (R165 to R168) -/

/-- HDR; field codes 11 to 31 raise RESERVED_FIELD (R165). -/
def execHdr (d : BitVec 5) (a : BitVec 5) (b : BitVec 5) (v0 : BitVec 5) (s : State) : Host.Outcome State Fault Refusal :=
  .next (unitL 4 false ⟨false, true, v0 == 0 && dstL d && srcL a && decide (b.toNat ≤ 10), true, 1, fun t s => do
    let x ← sGetL s t a
    fall (sSetL s t d (BitVec.ofNat 64 (hdrField x b.toNat)))⟩ s)

/-- TAGX: (b[9:0] << 16) or a[11:0] (R165). -/
def execTagx (d : BitVec 5) (a : BitVec 5) (b : BitVec 5) (v0 : BitVec 5) (s : State) : Host.Outcome State Fault Refusal :=
  .next (unitL 4 false ⟨false, true, v0 == 0 && dstL d && srcL a && srcL b, true, 1, fun t s => do
    let x ← sGetL s t a
    let y ← sGetL s t b
    fall (sSetL s t d (BitVec.ofNat 64 (bits y 9 0 * 2 ^ 16 + bits x 11 0)))⟩ s)

/-- FALLOC draws a frame from the reservation (R67, R165). -/
def execFalloc (d : BitVec 5) (v0 : BitVec 15) (s : State) : Host.Outcome State Fault Refusal :=
  .next (unitL 4 false ⟨false, true, v0 == 0 && dstL d, true, 1, fun t s => do
    let (f, s1) ← drawFrame s t
    fall (sSetL s1 t d (BitVec.ofNat 64 f))⟩ s)

/-- FFREE frees a LIVE frame of the context (R67, R68, R165). -/
def execFfree (a : BitVec 5) (v0 : BitVec 5) (v1 : BitVec 10) (s : State) : Host.Outcome State Fault Refusal :=
  .next (unitL 4 false ⟨false, true, v0 == 0 && v1 == 0 && srcL a, true, 1, fun t s => do
    let x ← sGetL s t a
    let f := bits x 11 0
    check (frameOk s t f) s .frameInvalid (BitVec.ofNat 64 f)
    let s1 := s.updTask t (fun k => { k with drawn := k.drawn.filter (· != f) })
    fall (s1.updIsle (tileIsle t) (fun i => freeFrame i f))⟩ s)

/-- FSTO stores a token in a slot of a frame of the cell's isle (R167); a reserved TYPE of hdr raises FORMAT_UNSUPPORTED
(R19). -/
def execFsto (n : BitVec 3) (a : BitVec 5) (b : BitVec 5) (z : BitVec 3) (v0 : BitVec 2) (v1 : BitVec 2) (s : State) : Host.Outcome State Fault Refusal :=
  .next (unitL 4 false ⟨false, true, v0 == 0 && v1 == 0 && srcL a && srcL b, true, 2, fun t s => do
    let x ← sGetL s t a
    let v ← lGet s t b
    let f := tagFrame x
    let k := s.task t
    check (frameOk s t f) s .frameInvalid (BitVec.ofNat 64 f)
    let fr := (s.isle (tileIsle t)).frames.get Frame.reset f
    check ((fr.slot z.toNat).isNone && (fr.slot (z.toNat ^^^ 1)).isNone) s .slotCollision 0
    check (!fmtReserved (hType k.hdr)) s .formatUnsupported 0
    let h := mkHdr kDATA (hType k.hdr) n.toNat (tagIter x) f (ownDest s t) (tileCtx s t) false false false
    let tok : Token := ⟨h, Lanes.ofFn (fun i => if i ≤ n.toNat then v.get i else 0)⟩
    fall (s.updIsle (tileIsle t) (fun i =>
      { i with frames := i.frames.put f { fr with slots := fr.slots.put z.toNat (some tok) } }))⟩ s)

/-- FLDO takes the token of a slot of a frame (R167). -/
def execFldo (d : BitVec 5) (a : BitVec 5) (z : BitVec 3) (v0 : BitVec 7) (s : State) : Host.Outcome State Fault Refusal :=
  .next (unitL 4 false ⟨false, true, v0 == 0 && dstL d && srcL a, true, 2, fun t s => do
    let x ← sGetL s t a
    let f := tagFrame x
    check (frameOk s t f) s .frameInvalid (BitVec.ofNat 64 f)
    let fr := (s.isle (tileIsle t)).frames.get Frame.reset f
    match fr.slot z.toNat with
    | none => raise s .frameInvalid (BitVec.ofNat 64 f)
    | some tok =>
      let s1 := s.updIsle (tileIsle t) (fun i =>
        { i with frames := i.frames.put f { fr with slots := fr.slots.put z.toNat none } })
      fall (lSet s1 t d (Lanes.ofFn (fun i => if i ≤ hLen tok.hdr then tok.lanes.get i else 0)))⟩ s)

/-- INJ: a token from the isle's injection port (R168). -/
def execInj (a : BitVec 5) (b : BitVec 5) (v0 : BitVec 5) (v1 : BitVec 5) (s : State) : Host.Outcome State Fault Refusal :=
  .next (unitC 4 false ⟨.user, v0 == 0 && v1 == 0, true, injBody a b⟩ s)

end Sys2Proof.Machine
end

