-- ==== Sys2Proof/Machine/Deliver.lean ====
section
/-! DEFINITION. Tokens under way: resolution, straits, delivery, matching, task admission, the output latch, and the
lagoons (R64 to R77, R150 to R152, R157, R334, R381, R382, R387, R388, R394, R410 to R412, R456). -/

namespace Sys2Proof.Machine

/-! ### Lagoon space (R387, R388) -/

/-- The lagoon tokens of a context, over the module. -/
def lagoonTotal (s : State) (c : Nat) : Nat :=
  ((s.lagoons.filter (fun e => e.1.1 == c)).map (fun e => e.2.length)).foldl (· + ·) 0

/-- The lagoon entries that a context's FIFO banks on a die can hold (R387). -/
def fifoEntries (s : State) (c d : Nat) : Nat :=
  ((dieIsles d).map (fun k => 2048 * (s.isle k).fifoBanks c - fifoUsed s k c)).foldl (· + ·) 0

/-- The entries of a context that a die's spill pool holds, with `more` tokens added. -/
def spilled (s : State) (c d more : Nat) : Nat := lagoonOn s c d + more - fifoEntries s c d

/-- QUOTA of a context's lagoons in entries (R387). -/
def lagoonQuota (s : State) (c : Nat) : Nat := ctxWord s c 0x28 % 2 ^ 32 * 1024

/-- One more token of a context fits its lagoon on die `d` (R387, R388). -/
def lagoonRoom (s : State) (c d : Nat) : Bool :=
  let others := ((s.ctxs.map (·.1)).filter (· != c)).map (fun o => spilled s o d 0)
  decide (lagoonTotal s c < lagoonQuota s c) &&
    (spilled s c d 1 == spilled s c d 0 ||
      decide (others.foldl (· + ·) (spilled s c d 1) ≤ (s.die d).spSize.toNat * 1024))

/-! ### Resolution (R382, R456) -/

/-- RES of an entry as die `d` has it (R382): the old value until it has taken the change. -/
def resSeen (r : Reloc) (d : Nat) : Bool := if r.acks.contains d then r.res else !r.res

/-- The die of a flight's destination. -/
def destDie (f : Flight) : Nat :=
  match f.dest with
  | some t => if f.hwq then isleDie t else tileDie t
  | none => f.die

/-- No earlier token of the same port and destination waits to be resolved or to cross a strait (R75). -/
def mayEnter (s : State) (n : Nat) (f : Flight) : Bool :=
  (s.flights.take n).all (fun g => !sameStream g f || (g.dest.isSome && !g.strait))

/-- A flight resolved to a tile or hardware queue: toward the strait where that lies on another die (R382). -/
def resolveTo (s : State) (n : Nat) (f : Flight) (dest : Nat) (hwq : Bool) : State :=
  let g := { f with dest := some dest, hwq := hwq }
  { s with flights := setAt s.flights n { g with strait := destDie g != f.die } }

/-- A token enters the tail of a lagoon, and a demand is made (R382, R383, R387); it waits while there is no room. -/
def enterLagoon (s : State) (n : Nat) (f : Flight) (j : Job) : State :=
  let v := hVreg f.tok.hdr
  if lagoonRoom s j.ctx (j.entry v).die then
    demandRegion (toLagoon { s with flights := dropAt s.flights n } j.ctx j.num v f.tok) j.ctx j.num v
  else s

/-- A token enters its switch (R382). -/
def resolveFlight (s : State) (n : Nat) (f : Flight) : State :=
  match flightJob s f with
  | none => { s with flights := dropAt s.flights n }
  | some j =>
    let h := f.tok.hdr
    let r := j.entry (hVreg h)
    if r.hq then resolveTo s n f (16 * r.die + r.isle) true
    else if resSeen r f.die && !r.lag then
      resolveTo s n f (tileAt r.die (r.bx + physCol r.skip (hX h)) (r.byy + hY h)) false
    else enterLagoon s n f j

/-- A token that waits at a strait enters a flit of the UP circuit to its die (R410 to R412). A flit carries six. -/
def enterStrait (s : State) (n : Nat) (f : Flight) : State :=
  match upCircuit s f.die (destDie f) with
  | none => s
  | some e =>
    let c := s.circuits.get Circuit.reset e
    let seq := c.txSeq.get 0 f.die
    let alone : Circuit := { c with
      retry := c.retry ++ [⟨seq, f.die, [f]⟩], txSeq := c.txSeq.put f.die ((seq + 1) % 4096) }
    let c' := match c.retry.getLast? with
      | some l => if 2 ≤ c.retry.length ∧ l.src = f.die ∧ l.toks.length < 6 then
          { c with retry := c.retry.dropLast ++ [{ l with toks := l.toks ++ [f] }] } else alone
      | none => alone
    { s with flights := dropAt s.flights n, circuits := s.circuits.put e c' }

/-- TOKEN_RESOLVE of flight `n` (R382, R412). -/
def resolveStep (s : State) (n : Nat) : State :=
  match s.flights[n]? with
  | none => s
  | some f =>
    if mayEnter s n f ∧ s.present f.die ∧ ¬ (s.die f.die).fenced then
      if f.strait then enterStrait s n f
      else if f.dest.isNone then resolveFlight s n f
      else s
    else s

/-! ### Hardware queues (R334) -/

/-- The context that a hardware queue is bound to: its template's for a TRIGGER queue, its STREAM queue's otherwise. -/
def hwContext (i : Isle) (q : Nat) : Option Nat :=
  if q < 16 then
    let t := i.templates.get Template.reset q
    if t.armed then some t.ctx else none
  else (i.hw q).bound.map (·.1)

/-- A token for a hardware queue of isle `k` (R334), checked as at any receiver (R19, R61): none while the queue is full; a
STREAM queue's TAIL counts it. -/
def deliverHw (s : State) (k : Nat) (tok : Token) : Option State :=
  let h := tok.hdr
  let q := hPort h
  let refused := fun (c : Cause) => some (writeRecord s k { TrapRec.zero with
      job := ((declaringJob s (hCtx h) (hVreg h)).map (·.num)).getD 0, ctx := hCtx h, agent := 1,
      code := causeCode c, hdr := h, in0 := tok.lanes, tile := isleTile k 0 0 })
  if hX h ≠ 0 ∨ hY h ≠ 0 ∨ hwContext (s.isle k) q ≠ some (hCtx h) then refused .routeInvalid
  else if (tokenFault tok).isSome then refused ((tokenFault tok).getD .reservedField)
  else if hwFull s k q then none
  else
    let s1 := s.updIsle k (fun i => { i with hwq := i.hwq.put q { i.hw q with toks := (i.hw q).toks ++ [tok] } })
    some (match ((s.isle k).hw q).bound with
      | some (c, n) => schedWrite s1 c (qEntry s1 c n + 0x18) (bytesOf (schedWord s1 c (qEntry s1 c n + 0x18) + 1) 8)
      | none => s1)

/-! ### Delivery at a tile (R64, R65, R69, R76, R77, R150) -/

/-- A payload with the lanes above LEN zero (R72, R152). -/
def lenLanes (tok : Token) : Lanes := Lanes.ofFn (fun i => if i ≤ hLen tok.hdr then tok.lanes.get i else 0)

/-- A receiving tile's fault (R77). -/
def refuse (s : State) (t : Nat) (tok : Token) (c : Cause) (v : Word64) : Option State := some (tokenRecord s t tok c v)

/-- A token for an arity-2 class (R67 to R70): it is stored, collides, or completes a pair. -/
def deliverPair (s : State) (t : Nat) (tok : Token) (cls input pair : Nat) : Option State :=
  let f := hFrame tok.hdr
  let k := tileIsle t
  let fr := (s.isle k).frames.get Frame.reset f
  let n := 2 * pair + input
  if fr.st ≠ .live ∨ fr.ctx ≠ hCtx tok.hdr then refuse s t tok .frameInvalid (BitVec.ofNat 64 f)
  else if (fr.slot n).isSome then refuse s t tok .slotCollision 0
  else
    let s1 := s.updIsle k (fun i => { i with frames := i.frames.put f { fr with slots := fr.slots.put n (some tok) } })
    match fr.slot (n ^^^ 1) with
    | none => some s1
    | some o =>
      if hIter o.hdr = hIter tok.hdr then
        some (s1.setCell t { s1.cell t with
          ready := (s1.cell t).ready ++ [⟨cls, 0, Lanes.zero, Lanes.zero, some (f, pair), 0⟩] })
      else refuse s t tok .slotCollision 0

/-- A token whose steering entry names a cell class (R64, R65, R76, R150). -/
def deliverCell (s : State) (t : Nat) (tok : Token) (e : BitVec 16) : Option State :=
  let cls := bits e 13 8
  let ce := (s.tile t).classes.get 0 cls
  let arity := bits ce 21 20
  let input := bits e 5 5
  if bits ce 19 10 = 0 ∨ arity = 0 ∨ (arity = 1 ∧ input = 1) then refuse s t tok .routeInvalid 0
  else if hKind tok.hdr = kORD then some (s.mergePts (.cell t) (ordTime tok))
  else if arity = 1 then
    if 16 ≤ (s.cell t).ready.length then none
    else some (s.setCell t { s.cell t with
      ready := (s.cell t).ready ++ [⟨cls, tok.hdr, lenLanes tok, Lanes.zero, none, 0⟩] })
  else deliverPair s t tok cls input (bits e 1 0)

/-- A token whose steering entry names an operator input (R64, R216, R288). -/
def deliverOp (s : State) (t : Nat) (tok : Token) (e : BitVec 16) : Option State :=
  let c := bits e 13 10
  let i := bits e 9 8
  let o := s.op t c
  if !o.used then refuse s t tok .routeInvalid 0
  else if 4 ≤ (o.input i).length then none
  else
    let s1 := s.updOp t c (fun o =>
      let o1 := o.setInput i (o.input i ++ [tok])
      if c = slotMERGE then { o1 with elems := o1.elems ++ [BitVec.ofNat 32 i] } else o1)
    some (if c = slotMEMORY ∧ hKind tok.hdr = kORD then s1.mergePts (.memop t) (ordTime tok) else s1)

/-- A record that a receiving tile or cell holds because the ring is full stops it (R426). -/
def ringHolds (s : State) (t : Nat) (agents : List Nat) : Bool :=
  (s.isle (tileIsle t)).waitRecs.any (fun x => x.tile == t && agents.contains x.agent)

/-- A token at its destination tile (R19, R64, R77, R400): none while it is held there. -/
def deliverTile (s : State) (t : Nat) (tok : Token) : Option State :=
  let v := s.tile t
  let e := v.steer.get 0 (hPort tok.hdr)
  if v.frozen || ringHolds s t [1] then none
  else match tokenFault tok with
    | some c => refuse s t tok c 0
    | none =>
      match bits e 15 14 with
      | 1 => deliverCell s t tok e
      | 2 => deliverOp s t tok e
      | _ => refuse s t tok .routeInvalid 0

/-- The page of a tile had a token delivered (R389, R430). -/
def stampPage (s : State) (t : Nat) : State :=
  match pageOf s t with
  | none => s
  | some p =>
    let s1 := (s.updPage p.ctx p.job p.ix (fun x => { x with stamp := s.orders })).updJob p.ctx p.job
      (fun j => { j with act := s.micros })
    { s1 with orders := s.orders + 1 }

/-- The token is addressed to the tile's base register (R381); the page of a tile that only waits for a task to end is gone. -/
def baseMatches (v : Tile) (h : Word64) : Bool :=
  match v.base with
  | some b => b.ctx == hCtx h && b.vreg == hVreg h && b.px == hX h && b.py == hY h && !v.ending
  | none => false

/-- The job whose lagoon takes a token that does not match its tile (R381, R456): the switch of a skipped column has a base
register as well. -/
def straysTo (s : State) (t : Nat) (h : Word64) : Option Job :=
  match (s.tile t).base.orElse (fun _ => (s.tile t).skipped) with
  | some b =>
    if b.ctx = hCtx h then
      match s.findJob b.ctx b.job with
      | some j => if (j.entry (hVreg h)).v then some j else declaringJob s (hCtx h) (hVreg h)
      | none => declaringJob s (hCtx h) (hVreg h)
    else declaringJob s (hCtx h) (hVreg h)
  | none => declaringJob s (hCtx h) (hVreg h)

/-- The page of a tile is being drained: its tokens are captured (R391, R395). -/
def tileDrains (s : State) (t : Nat) : Bool :=
  match pageOf s t with
  | some p => p.st == .draining || p.st == .migrating
  | none => false

/-- TOKEN_DELIVERY of flight `n` (R64, R75, R381, R391, R456). -/
def deliverStep (s : State) (n : Nat) : State :=
  match s.flights[n]? with
  | none => s
  | some f =>
    match f.dest with
    | none => s
    | some t =>
      if f.strait || !inOrder s n f || (s.die (destDie f)).fenced then s
      else
        let s1 := { s with flights := dropAt s.flights n }
        if f.hwq then (deliverHw s1 t f.tok).getD s
        else if baseMatches (s.tile t) f.tok.hdr then
          if tileDrains s t then s1.updTile t (fun v => { v with captured := v.captured ++ [f.tok] })
          else match deliverTile s1 t f.tok with
            | some s2 => stampPage s2 t
            | none => s
        else match straysTo s t f.tok.hdr with
          | some j => enterLagoon s n f j
          | none => s1

/-! ### Lagoons drain (R387, R394) -/

/-- The first tile of a page whose oldest captured token is accepted, with the state that leaves. -/
def captureOut (s : State) (p : Page) : Option State :=
  (pageTileList p).findSome? (fun t =>
    match (s.tile t).captured with
    | [] => none
    | tok :: r => ((deliverTile (s.updTile t (fun v => { v with captured := r })) t tok).map (fun s1 => stampPage s1 t)))

/-- LAG is cleared once nothing waits for the page any more (R382, R394). -/
def clearLag (s : State) (p : Page) : State :=
  if (pageTileList p).all (fun t => (s.tile t).captured.isEmpty) && (s.lagoon p.ctx p.job p.region).isEmpty then
    s.updJob p.ctx p.job (fun j => j.updEntry p.region (fun r => { r with lag := false }))
  else s

/-- LAGOON_DRAIN: the next waiting token of a RESIDENT page, captured tokens before the lagoon's (R394). -/
def lagoonStep (s : State) (p : Page) : State :=
  if (pageTileList p).any (fun t => !(s.tile t).captured.isEmpty) then
    match captureOut s p with
    | some s1 => clearLag s1 p
    | none => s
  else match s.lagoon p.ctx p.job p.region with
    | [] => clearLag s p
    | tok :: r =>
      let t := posTile p p.bx p.byy p.skip (hX tok.hdr) (hY tok.hdr)
      match deliverTile (s.setLagoon p.ctx p.job p.region r) t tok with
      | some s1 => clearLag (stampPage s1 t) p
      | none => s

/-! ### Spill timeout (R388) -/

/-- A placement of a page is possible (R388). -/
def placementPossible (s : State) (p : Page) : Bool :=
  match s.findJob p.ctx p.job with
  | none => false
  | some j => inCurGang s p && (j.st == .placing || j.st == .pageWait || j.st == .preempted) &&
      (findPosition s p false (fun t => !(s.isle (tileIsle t)).fenced &&
        s.pages.all (fun q => !inPage q t || (q.ctx == p.ctx && !pagePinned s q))) (fun _ _ _ => true)).isSome

/-- The job whose lagoon has no room for a token that waits at its switch (R388). -/
def stallJob (s : State) (f : Flight) : Option Job :=
  if f.dest.isSome then none
  else match flightJob s f with
    | none => none
    | some j =>
      let r := j.entry (hVreg f.tok.hdr)
      if !r.hq && (!resSeen r f.die || r.lag) && !lagoonRoom s j.ctx r.die then some j else none

/-- The stall timer of a stalled port counts: its consumer page is neither in nor can be placed (R388). -/
def stallCounts (s : State) (f : Flight) : Bool :=
  match stallJob s f with
  | none => false
  | some j =>
    match pageFor s j (hVreg f.tok.hdr) with
    | none => true
    | some p => !(p.st == .fetching || p.st == .placing || p.st == .installing || p.st == .resident || p.st == .migrating) &&
        !placementPossible s p

/-- The stall timers after `dt` microseconds (R388): a port that is not stalled has none. -/
def stallTimers (s : State) (dt : Nat) : List (PortId × Nat) :=
  let stalled := s.flights.filter (fun f => (stallJob s f).isSome)
  ((stalled.map (·.port)).eraseDups).map (fun p =>
    let old := ((s.stalls.find? (fun e => e.1 == p)).map (·.2)).getD 0
    (p, if stalled.any (fun f => f.port == p && stallCounts s f) then old + dt else old))

/-- The stall timer of a sender of context `c` has reached SPTO (R388). -/
def spillStalls (s : State) (c : Nat) : Bool :=
  s.flights.any (fun f => hCtx f.tok.hdr == c && (stallJob s f).isSome &&
    s.stalls.any (fun e => e.1 == f.port && decide (s.mgmt.spto.toNat ≤ e.2)))

/-! ### Task admission (R67, R68, R70, R151, R152) -/

/-- The inputs of a ready task (R70): header, payloads, LEN of input 1 plus 1, and its ERR payload. -/
structure TaskIn where
  hdr : Word64
  i0 : Lanes
  i1 : Lanes
  len1 : Nat
  err : Option Word64

/-- The payload of an ERR token as a task records it (R152). -/
def errOf (tok : Token) : Option Word64 := if hKind tok.hdr = kERR then some tok.lanes.scalar else none

/-- The inputs of a ready task of tile `t`; those of a pair come from its frame (R70). A record of a dispatch port is no
ERR (R152). DESIGN CHOICE (log entry 67): a fired pair that waits here when FFREE frees its frame, or FLDO takes one of its
slots, still starts its task, and a token that is gone reads as zero. -/
def readyIn (s : State) (t : Nat) (r : Ready) : TaskIn :=
  match r.pair with
  | none => ⟨r.hdr, r.i0, r.i1, r.len1, errOf ⟨r.hdr, r.i0⟩⟩
  | some (f, k) =>
    let fr := (s.isle (tileIsle t)).frames.get Frame.reset f
    let z : Token := ⟨0, Lanes.zero⟩
    let a := (fr.slot (2 * k)).getD z
    let b := (fr.slot (2 * k + 1)).getD z
    let h := putStatus a.hdr (hSat a.hdr || hSat b.hdr) (hInx a.hdr || hInx b.hdr)
    ⟨h, lenLanes a, lenLanes b, hLen b.hdr + 1, (errOf a).orElse (fun _ => errOf b)⟩

/-- The presence bits of a pair clear (R70). -/
def clearPair (s : State) (t : Nat) (r : Ready) : State :=
  match r.pair with
  | none => s
  | some (f, k) => s.updIsle (tileIsle t) (fun i =>
      let fr := i.frames.get Frame.reset f
      { i with frames := i.frames.put f { fr with slots := (fr.slots.put (2 * k) none).put (2 * k + 1) none } })

/-- Frames of `n` reserved from the head of the free list for tile `t` of context `c` (R67). -/
def reserveFrames (i : Isle) (n c t : Nat) : List Nat × Isle :=
  let l := i.freeAvail.take n
  (l, { i with freeList := i.freeList.filter (fun f => !l.contains f),
               frames := l.foldl (fun m f => m.put f ⟨.reserved, c, t, []⟩) i.frames })

/-- A ready task may be admitted (R68, R151); a cell of an M-tile asks for 4 free entries of its engine queue (R274); between
CTXS and CTXL the isle admits none (R320). -/
def admissible (s : State) (t : Nat) (r : Ready) : Bool :=
  let e := (s.tile t).classes.get 0 r.cls
  let k := tileIsle t
  let n := bits e 27 24
  !(s.isle k).saved && (tileKind t != .m || decide ((s.tile t).eng.queue.length ≤ 12)) && decide (n ≤ (s.isle k).freeAvail.length) && decide (ctxFrames s k (tileCtx s t) + n ≤ quotaFrames s (tileCtx s t)) &&
    decide ((s.cell t).latch.length + bits e 31 28 ≤ 8)

/-- The ready task that goes first: the highest PRIO, and among equals the oldest (R151). -/
def pickReady (s : State) (t : Nat) (l : List Ready) : Option Nat :=
  let prio := fun (r : Ready) => bits ((s.tile t).classes.get 0 r.cls) 23 22
  (List.range l.length).foldl (fun b i =>
    match l[i]? with
    | none => b
    | some r =>
      if admissible s t r then
        match b with
        | none => some i
        | some j => if (l[j]?).any (fun x => decide (prio x < prio r)) then some i else b
      else b) none

/-- A task starts (R152). -/
def startTask (s : State) (t i : Nat) (r : Ready) : State :=
  let e := (s.tile t).classes.get 0 r.cls
  let x := readyIn s t r
  let res := reserveFrames ((clearPair s t r).isle (tileIsle t)) (bits e 27 24) (tileCtx s t) t
  let s1 := (clearPair s t r).setIsle (tileIsle t) res.2
  s1.setCell t { s1.cell t with
    ready := dropAt (s1.cell t).ready i,
    task := some { Task.zero with
      cls := r.cls, pc := bits e 9 0, start := bits e 9 0, size := bits e 19 10, slots := bits e 31 28,
      hdr := x.hdr, i0 := x.i0, i1 := x.i1, len1 := x.len1,
      err := if bits e 21 20 = 0 then none else x.err, reserved := res.1 } }

/-- A ready task that needs more frames than its context's whole quota is refused (R68). DESIGN CHOICE (log entry 67): the
presence bits of a pair clear as at an admission, its tokens having gone into the record. -/
def refuseTask (s : State) (t i : Nat) (r : Ready) : State :=
  let x := readyIn s t r
  let s1 := clearPair s t r
  writeRecord (s1.setCell t { s1.cell t with ready := dropAt (s1.cell t).ready i }) (tileIsle t)
    { tileRecord s t 6 .frameExhausted 0 with cls := r.cls, hdr := x.hdr, in0 := x.i0, in1 := x.i1, pts := (s.cell t).pts }

/-- TASK_ADMISSION (R68, R151). -/
def admitStep (s : State) (t : Nat) : State :=
  let v := s.tile t
  let l := v.cell.ready.take 16
  if v.base.isNone || v.frozen || v.cell.task.isSome || ringHolds s t [0, 6] || (s.die (tileDie t)).fenced ||
      s.inReset (tileIsle t) then s
  else
    match (List.range l.length).find? (fun i => (l[i]?).any (fun r =>
        decide (quotaFrames s (tileCtx s t) < bits (v.classes.get 0 r.cls) 27 24))) with
    | some i => match l[i]? with
      | some r => refuseTask s t i r
      | none => s
    | none => match pickReady s t l with
      | some i => match l[i]? with
        | some r => startTask s t i r
        | none => s
      | none => s

/-! ### The output latch (R157, R186) -/

/-- The steering entries of a tile that name its cell (R64). -/
def cellPorts (v : Tile) : List Nat := (List.range 64).filter (fun p => bits (v.steer.get 0 p) 15 14 = 1)

/-- LATCH_RELEASE: the oldest token of an ended task leaves the latch, as credit allows (R157). -/
def latchStep (s : State) (t : Nat) : State :=
  match (s.cell t).latch with
  | l :: r =>
    if l.out then
      let s1 := sendTokens (s.setCell t { s.cell t with latch := r }) (.cell t) (tileDie t) (some (tileJob s t)) [l.tok]
      withCredit s (match (s.tile t).base with
        | some b => if hKind l.tok.hdr = kEOS then markEos s1 b.ctx b.vreg b.px b.py (cellPorts (s.tile t)) else s1
        | none => s1)
    else s
  | [] => s

/-! ### Flits (R411) -/

/-- FLIT_RECEIVE: the first flit of a circuit's retry buffers is accepted at the far end, or discarded for its CRC; a
sequence number already accepted is discarded (R408, R411). -/
def receiveFlit (s : State) (e : Nat) (good : Bool) : Option State :=
  let c := s.circuits.get Circuit.reset e
  if (c.st == .up || c.st == .draining) && !c.resend then
    match c.retry with
    | [] => none
    | f :: r =>
      if good then
        let far := if bits c.spec 2 0 = f.src then bits c.spec 6 4 else bits c.spec 2 0
        let want := c.rxSeq.get 0 f.src
        let toks := if f.seq = want then f.toks.map (fun x => { x with die := far, strait := false }) else []
        some { s with
          flights := s.flights ++ toks,
          circuits := s.circuits.put e { c with
            retry := r, fails := 0, rxSeq := if f.seq = want then c.rxSeq.put f.src ((want + 1) % 4096) else c.rxSeq } }
      else some { s with circuits := s.circuits.put e { c with fails := c.fails + 1, resend := true } }
  else none

/-! ### Meanings -/

/-- TOKEN_RESOLVE (R382, R387, R456). -/
def execTokenResolve (n : Nat) (s : State) : Host.Outcome State Fault Refusal := .next (resolveStep s n)

/-- TOKEN_DELIVERY (R64, R69, R76, R381). -/
def execTokenDelivery (n : Nat) (s : State) : Host.Outcome State Fault Refusal := .next (deliverStep s n)

/-- TASK_ADMISSION (R151, R152). -/
def execTaskAdmission (t : Nat) (s : State) : Host.Outcome State Fault Refusal := .next (admitStep s t)

/-- LATCH_RELEASE (R157). -/
def execLatchRelease (t : Nat) (s : State) : Host.Outcome State Fault Refusal := .next (latchStep s t)

/-- LAGOON_DRAIN (R394). -/
def execLagoonDrain (p : Nat) (s : State) : Host.Outcome State Fault Refusal :=
  .next (pageEvent s p (fun q => q.st == .resident) lagoonStep)

/-- SPILL_TIMEOUT: a stalled sender of context `c` has waited SPTO microseconds (R316, R388). -/
def execSpillTimeout (c : Nat) (s : State) : Host.Outcome State Fault Refusal :=
  .next (if spillStalls s c then fenceCtx s c (causeCode .spillExhausted) else s)

end Sys2Proof.Machine
end

