-- ==== Sys2Proof/WellFormed.lean ====
section
/-! DEFINITION. Well-formed instructions: every reserved field is zero (R12, R87) and every operand is one its encoding or its agent admits. -/

namespace Sys2Proof

/-- An operation code of AMO and AMOS (R199, R202). -/
def amoOpOk (o : BitVec 5) : Bool := decide (o.toNat ≤ 8)

/-- A relation code of VCMP (R96, R171). -/
def relOk (r : BitVec 3) : Bool := decide (r.toNat ≤ 5)

/-- An isle number (R4). -/
def isleOk (k : Nat) : Bool := decide (k < 64)

/-- A tile number (R4). -/
def tileOk (t : Nat) : Bool := decide (t < 8192)

/-- A C-die number (R1). -/
def dieOk (d : Nat) : Bool := decide (d < 4)

/-- A context number (R308). -/
def ctxOk (c : Nat) : Bool := decide (c < 256)

/-- A connection table entry (R407). -/
def circuitOk (e : Nat) : Bool := decide (e < 64)

/-- Whether the instruction or step is well formed. -/
def wellFormed : Instr → Bool
  | .add _ _ _ v0 => v0 == 0
  | .sub _ _ _ v0 => v0 == 0
  | .mul _ _ _ v0 => v0 == 0
  | .mulh _ _ _ v0 => v0 == 0
  | .mulhn _ _ _ v0 => v0 == 0
  | .div _ _ _ v0 => v0 == 0
  | .divn _ _ _ v0 => v0 == 0
  | .rem _ _ _ v0 => v0 == 0
  | .remn _ _ _ v0 => v0 == 0
  | .and _ _ _ v0 => v0 == 0
  | .or _ _ _ v0 => v0 == 0
  | .xor _ _ _ v0 => v0 == 0
  | .shl _ _ _ v0 => v0 == 0
  | .shr _ _ _ v0 => v0 == 0
  | .sra _ _ _ v0 => v0 == 0
  | .rotr _ _ _ v0 => v0 == 0
  | .min _ _ _ v0 => v0 == 0
  | .max _ _ _ v0 => v0 == 0
  | .minn _ _ _ v0 => v0 == 0
  | .maxn _ _ _ v0 => v0 == 0
  | .seq _ _ _ v0 => v0 == 0
  | .slt _ _ _ v0 => v0 == 0
  | .sltn _ _ _ v0 => v0 == 0
  | .sel _ _ _ _ => true
  | .adds _ _ _ v0 => v0 == 0
  | .neg _ _ v0 => v0 == 0
  | .clz _ _ v0 => v0 == 0
  | .ctz _ _ v0 => v0 == 0
  | .popc _ _ v0 => v0 == 0
  | .mov _ _ v0 => v0 == 0
  | .sext _ _ _ v0 => v0 == 0
  | .zext _ _ _ v0 => v0 == 0
  | .addi _ _ _ => true
  | .andi _ _ _ => true
  | .ori _ _ _ => true
  | .xori _ _ _ => true
  | .slti _ _ _ => true
  | .shli _ _ _ v0 => v0 == 0
  | .shri _ _ _ v0 => v0 == 0
  | .srai _ _ _ v0 => v0 == 0
  | .bfx _ _ _ _ => true
  | .bfi _ _ _ _ => true
  | .li _ _ => true
  | .lih _ _ => true
  | .beq _ _ _ => true
  | .bne _ _ _ => true
  | .blt _ _ _ => true
  | .bge _ _ _ => true
  | .bltn _ _ _ => true
  | .bgen _ _ _ => true
  | .bz _ _ v0 => v0 == 0
  | .bnz _ _ v0 => v0 == 0
  | .jal _ _ => true
  | .jr _ _ _ => true
  | .loop _ _ _ => true
  | .halt v0 v1 => v0 == 0 && v1 == 0
  | .fadd _ _ _ v0 => v0 == 0
  | .fsub _ _ _ v0 => v0 == 0
  | .fmul _ _ _ v0 => v0 == 0
  | .ffma _ _ _ _ => true
  | .fdiv _ _ _ v0 => v0 == 0
  | .fsqrt _ _ v0 => v0 == 0
  | .fmin _ _ _ v0 => v0 == 0
  | .fmax _ _ _ v0 => v0 == 0
  | .feq _ _ _ v0 => v0 == 0
  | .flt _ _ _ v0 => v0 == 0
  | .fle _ _ _ v0 => v0 == 0
  | .fclass _ _ v0 => v0 == 0
  | .fmv _ _ v0 => v0 == 0
  | .fcvt _ _ _ _ v0 => v0 == 0
  | .ld _ _ _ _ => true
  | .ldn _ _ _ _ => true
  | .st _ _ _ _ => true
  | .pref _ _ _ v0 v1 => v0 == 0 && v1 == 0
  | .lda _ _ _ _ => true
  | .stl _ _ _ _ => true
  | .amo _ _ _ _ o v0 => v0 == 0 && amoOpOk o
  | .cas _ _ _ _ v0 => v0 == 0
  | .lds _ _ _ _ => true
  | .sts _ _ _ _ => true
  | .amos _ _ _ _ o v0 => v0 == 0 && amoOpOk o
  | .tsb _ _ _ v0 => v0 == 0
  | .tcb _ _ _ v0 => v0 == 0
  | .fence _ _ v0 => v0 == 0
  | .ownDecl _ _ _ v0 => v0 == 0
  | .ownGive _ _ _ v0 => v0 == 0
  | .ownTake _ _ v0 => v0 == 0
  | .ownDrop _ _ v0 => v0 == 0
  | .vadd _ _ _ _ _ => true
  | .vsub _ _ _ _ _ => true
  | .vmul _ _ _ _ _ => true
  | .vfma _ _ _ _ _ => true
  | .vmin _ _ _ _ _ => true
  | .vmax _ _ _ _ _ => true
  | .vabs _ _ _ _ v0 => v0 == 0
  | .vneg _ _ _ _ v0 => v0 == 0
  | .vand _ _ _ _ v0 => v0 == 0
  | .vor _ _ _ _ v0 => v0 == 0
  | .vxor _ _ _ _ v0 => v0 == 0
  | .vshl _ _ _ _ v0 => v0 == 0
  | .vshr _ _ _ _ v0 => v0 == 0
  | .vsra _ _ _ _ v0 => v0 == 0
  | .vsel _ _ _ _ v0 => v0 == 0
  | .vred _ _ _ _ v0 => v0 == 0
  | .vrcp _ _ _ v0 => v0 == 0
  | .vrsq _ _ _ v0 => v0 == 0
  | .vexp2 _ _ _ v0 => v0 == 0
  | .vlog2 _ _ _ v0 => v0 == 0
  | .vcmp _ _ _ _ _ r => relOk r
  | .vcvt _ _ _ _ v0 v1 => v0 == 0 && v1 == 0
  | .vpack _ _ _ _ v0 => v0 == 0
  | .vunpk _ _ _ _ v0 => v0 == 0
  | .vperm _ _ _ _ v0 => v0 == 0
  | .vbcst _ _ _ _ v0 => v0 == 0
  | .vlen _ _ _ v0 => v0 == 0
  | .vcat _ _ _ _ v0 => v0 == 0
  | .vspl _ _ _ v0 => v0 == 0
  | .vidx _ _ v0 => v0 == 0
  | .send _ _ _ _ _ => true
  | .sende _ _ _ v0 v1 => v0 == 0 && v1 == 0
  | .sendr _ _ _ _ v0 => v0 == 0
  | .sendm _ _ _ _ v0 => v0 == 0
  | .sendo _ _ _ v0 v1 => v0 == 0 && v1 == 0
  | .hdr _ _ _ v0 => v0 == 0
  | .tagx _ _ _ v0 => v0 == 0
  | .falloc _ v0 => v0 == 0
  | .ffree _ v0 v1 => v0 == 0 && v1 == 0
  | .fsto _ _ _ _ v0 v1 => v0 == 0 && v1 == 0
  | .fldo _ _ _ v0 => v0 == 0
  | .inj _ _ v0 v1 => v0 == 0 && v1 == 0
  | .sld _ _ v0 => v0 == 0
  | .sst _ _ v0 => v0 == 0
  | .sbind _ _ v0 => v0 == 0
  | .sunb _ v0 => v0 == 0
  | .sadd _ _ _ => true
  | .smax _ _ _ => true
  | .smin _ _ _ => true
  | .smulv _ _ _ => true
  | .snorm _ _ v0 => v0 == 0
  | .scpy _ _ v0 => v0 == 0
  | .sgen _ _ v0 => v0 == 0
  | .szero _ v0 => v0 == 0
  | .tfetch _ _ _ _ => true
  | .trel _ v0 v1 => v0 == 0 && v1 == 0
  | .mma _ _ _ v0 => v0 == 0
  | .mmai _ _ _ v0 => v0 == 0
  | .macc _ _ v0 v1 => v0 == 0 && v1 == 0
  | .mzero _ v0 v1 => v0 == 0 && v1 == 0
  | .meor _ _ v0 v1 => v0 == 0 && v1 == 0
  | .mrd _ _ _ v0 => v0 == 0
  | .opw _ _ v0 v1 => v0 == 0 && v1 == 0
  | .opr _ _ v0 => v0 == 0
  | .opsnap _ _ _ v0 => v0 == 0
  | .cpy _ _ _ v0 => v0 == 0
  | .cpyb _ _ _ v0 => v0 == 0
  | .ctarm _ _ _ _ => true
  | .ctdis _ _ v0 => v0 == 0
  | .strmi _ _ _ v0 => v0 == 0
  | .strmiStop d a _ v0 => d == 0 && a == 0 && v0 == 0
  | .strmo _ _ _ v0 => v0 == 0
  | .strms _ _ v0 v1 => v0 == 0 && v1 == 0
  | .strmsStop a _ v0 v1 => a == 0 && v0 == 0 && v1 == 0
  | .strmb _ v0 => v0 == 0
  | .cwany _ _ v0 => v0 == 0
  | .cwall _ v0 v1 => v0 == 0 && v1 == 0
  | .cffr _ _ v0 => v0 == 0
  | .qpush _ _ _ _ v0 => v0 == 0
  | .qpop _ _ _ _ v0 => v0 == 0
  | .cont _ _ _ v0 => v0 == 0
  | .join _ _ v0 => v0 == 0
  | .steal _ _ _ _ => true
  | .qstat _ _ v0 => v0 == 0
  | .binit _ _ v0 v1 => v0 == 0 && v1 == 0
  | .barr _ _ _ v0 => v0 == 0
  | .barrx _ _ _ _ => true
  | .bwait _ _ _ _ => true
  | .bwaitp _ _ _ _ => true
  | .btest _ _ _ v0 => v0 == 0
  | .bsec _ _ v0 v1 => v0 == 0 && v1 == 0
  | .preq _ _ v0 => v0 == 0
  | .ppin _ _ v0 => v0 == 0
  | .punp _ _ v0 => v0 == 0
  | .pevt _ _ v0 => v0 == 0
  | .step _ _ _ v0 => v0 == 0
  | .frz _ _ v0 => v0 == 0
  | .thaw _ _ v0 => v0 == 0
  | .snap _ _ _ v0 => v0 == 0
  | .cfgw _ _ v0 v1 => v0 == 0 && v1 == 0
  | .cfgc _ _ v0 => v0 == 0
  | .cfgk _ _ v0 => v0 == 0
  | .cfga _ _ v0 => v0 == 0
  | .place _ _ _ v0 => v0 == 0
  | .srd _ _ v0 => v0 == 0
  | .swr _ _ v0 => v0 == 0
  | .trap _ v0 => v0 == 0
  | .eret v0 v1 => v0 == 0 && v1 == 0
  | .wfe v0 v1 => v0 == 0 && v1 == 0
  | .sev v0 v1 => v0 == 0 && v1 == 0
  | .brk _ v0 => v0 == 0
  | .cyc _ v0 v1 => v0 == 0 && v1 == 0
  | .tlbi _ _ _ _ v0 v1 => v0 == 0 && v1 == 0
  | .sigv _ _ v0 v1 => v0 == 0 && v1 == 0
  | .connStatus _ _ _ v0 => v0 == 0
  | .connOpen _ _ _ v0 => v0 == 0
  | .connClose _ _ _ v0 => v0 == 0
  | .connReset _ _ _ v0 => v0 == 0
  | .ctxs _ _ v0 => v0 == 0
  | .ctxl _ _ v0 => v0 == 0
  | .hint _ => true
  | .nop => true
  | .hintShort h => h != 0
  | .ext _ => true
  | .liShort _ _ => true
  | .movShort _ _ v0 => v0 == 0
  | .addShort _ _ _ => true
  | .subShort _ _ _ => true
  | .addiShortPos _ _ _ => true
  | .addiShortNeg _ _ _ => true
  | .vaddF32Short _ _ _ => true
  | .vmulF32Short _ _ _ => true
  | .vfmaF32Short _ _ _ => true
  | .vaddI32Short _ _ _ => true
  | .sendShort _ _ _ => true
  | .sendIncShort _ _ _ => true
  | .ldsShort _ _ _ => true
  | .stsShort _ _ _ => true
  | .bzShort _ _ => true
  | .bnzShort _ _ => true
  | .seqShort _ _ _ => true
  | .sltShort _ _ _ => true
  | .sltnShort _ _ _ => true
  | .selShort _ _ _ => true
  | .illegalEncoding => true
  | .asyncCauseTaken k => isleOk k
  | .waitComplete k => isleOk k
  | .tokenResolve _ => true
  | .tokenDelivery _ => true
  | .taskAdmission t => tileOk t
  | .latchRelease t => tileOk t
  | .dispatchPop k _ => isleOk k
  | .matrixFire t => tileOk t
  | .reducePartial t _ => tileOk t
  | .reduceEor t _ => tileOk t
  | .mapFire t => tileOk t
  | .convertFire t => tileOk t
  | .mergeHoldExpiry t => tileOk t
  | .selectFire t => tileOk t
  | .lutFire t => tileOk t
  | .lutDataAccess t _ => tileOk t
  | .filterFire t => tileOk t
  | .countFire t => tileOk t
  | .memoryLoadseq t => tileOk t
  | .memoryGather t => tileOk t
  | .memoryStoreseq t => tileOk t
  | .memoryScatter t => tileOk t
  | .memoryAtomic t => tileOk t
  | .memoryPort t => tileOk t
  | .mergeFire t _ => tileOk t
  | .splitFire t => tileOk t
  | .delayWindow t => tileOk t
  | .delayHold t => tileOk t
  | .engineStep t => tileOk t
  | .promotionWindow t _ => tileOk t
  | .maccPerform t => tileOk t
  | .mzeroPerform t => tileOk t
  | .meorPerform t => tileOk t
  | .fetchComplete t _ => tileOk t
  | .fetchFault t _ => tileOk t
  | .prefetchComplete k _ => isleOk k
  | .sectorDecrement k _ => isleOk k
  | .copyComplete k _ => isleOk k
  | .transferFault k _ => isleOk k
  | .sourceUe k _ => isleOk k
  | .triggerToken k _ => isleOk k
  | .streamLineStore d => dieOk d
  | .streamLineTokens d => dieOk d
  | .strmoComplete k _ => isleOk k
  | .strmbComplete k _ => isleOk k
  | .sigvResult k _ => isleOk k
  | .bufferEdgeRemove k _ => isleOk k
  | .ptsTick _ => true
  | .leaseRollover _ => true
  | .bankCtrlWrite k _ _ => isleOk k
  | .bankSwitchCommit k _ => isleOk k
  | .stragglerOpen _ => true
  | .contextOpen c => ctxOk c
  | .contextClose c => ctxOk c
  | .contextKill c => ctxOk c
  | .contextReleased c => ctxOk c
  | .tenantSliceEnd => true
  | .tswDone k => isleOk k
  | .tswTimeout k => isleOk k
  | .queueEnable c _ => ctxOk c
  | .queueDisable c _ => ctxOk c
  | .doorbell c _ _ => ctxOk c
  | .load c _ => ctxOk c
  | .launch c _ => ctxOk c
  | .cancel c _ => ctxOk c
  | .unload c _ => ctxOk c
  | .admissionDecision => true
  | .jobQuiescent c _ => ctxOk c
  | .jobWatchdog c _ => ctxOk c
  | .pageFetchDone _ => true
  | .pagePlacement _ => true
  | .pageInstallDone _ => true
  | .pageDrainDone _ => true
  | .pageReadoutDone _ => true
  | .relocationAck c _ d => ctxOk c && dieOk d
  | .lagoonDrain _ => true
  | .defragMigrate _ => true
  | .migrationDone _ => true
  | .snapshotDone c _ => ctxOk c
  | .spillTimeout c => ctxOk c
  | .circuitReady e => circuitOk e
  | .circuitLocked e => circuitOk e
  | .tuningTimeout e => circuitOk e
  | .circuitDrained e => circuitOk e
  | .linkFail e _ => circuitOk e
  | .xDieReset => true
  | .flitReceive e _ => circuitOk e
  | .flitResend e => circuitOk e
  | .portEnable d => dieOk d
  | .portDisable d => dieOk d
  | .portFence d => dieOk d
  | .portTrained d => dieOk d
  | .portLockLost d => dieOk d
  | .lineFrame d _ => dieOk d
  | .advTimer d => dieOk d
  | .trheadWrite k _ => isleOk k
  | .resume k _ => isleOk k
  | .discard k _ => isleOk k
  | .fenceGang k _ => isleOk k
  | .fenceJob k _ => isleOk k
  | .fenceCtx k _ => isleOk k
  | .softErrorDetect _ => true
  | .moduleReset _ _ => true
  | .isleReset k _ => isleOk k
  | .attestationStart _ => true
  | .attestationDone => true
  | .supplySag d => dieOk d
  | .stretchEnd d => dieOk d
  | .rcRegisterRead _ => true
  | .registerWrite _ _ => true
  | .leaseRebase => true
  | .leaseBridgeAccess _ _ _ _ => true
  | .ioPathAccess _ _ _ => true
  | .tokenBucketRefill _ c => ctxOk c

end Sys2Proof
end

