-- ==== Sys2Proof/Decode.lean ====
section
/-! DEFINITION. The decoder from halfwords to instructions (R78 to R101) and the encoder written from the same tables. -/

namespace Sys2Proof

/-- Major 0x01, format A (R96). -/
def decodeMajor01 (w : Word32) : Instr :=
  match (w.extractLsb' 0 5).toNat with
  | 0 => .add (w.extractLsb' 20 5) (w.extractLsb' 15 5) (w.extractLsb' 10 5) (w.extractLsb' 5 5)
  | 1 => .sub (w.extractLsb' 20 5) (w.extractLsb' 15 5) (w.extractLsb' 10 5) (w.extractLsb' 5 5)
  | 2 => .mul (w.extractLsb' 20 5) (w.extractLsb' 15 5) (w.extractLsb' 10 5) (w.extractLsb' 5 5)
  | 3 => .mulh (w.extractLsb' 20 5) (w.extractLsb' 15 5) (w.extractLsb' 10 5) (w.extractLsb' 5 5)
  | 4 => .mulhn (w.extractLsb' 20 5) (w.extractLsb' 15 5) (w.extractLsb' 10 5) (w.extractLsb' 5 5)
  | 5 => .div (w.extractLsb' 20 5) (w.extractLsb' 15 5) (w.extractLsb' 10 5) (w.extractLsb' 5 5)
  | 6 => .divn (w.extractLsb' 20 5) (w.extractLsb' 15 5) (w.extractLsb' 10 5) (w.extractLsb' 5 5)
  | 7 => .rem (w.extractLsb' 20 5) (w.extractLsb' 15 5) (w.extractLsb' 10 5) (w.extractLsb' 5 5)
  | 8 => .remn (w.extractLsb' 20 5) (w.extractLsb' 15 5) (w.extractLsb' 10 5) (w.extractLsb' 5 5)
  | 9 => .and (w.extractLsb' 20 5) (w.extractLsb' 15 5) (w.extractLsb' 10 5) (w.extractLsb' 5 5)
  | 10 => .or (w.extractLsb' 20 5) (w.extractLsb' 15 5) (w.extractLsb' 10 5) (w.extractLsb' 5 5)
  | 11 => .xor (w.extractLsb' 20 5) (w.extractLsb' 15 5) (w.extractLsb' 10 5) (w.extractLsb' 5 5)
  | 12 => .shl (w.extractLsb' 20 5) (w.extractLsb' 15 5) (w.extractLsb' 10 5) (w.extractLsb' 5 5)
  | 13 => .shr (w.extractLsb' 20 5) (w.extractLsb' 15 5) (w.extractLsb' 10 5) (w.extractLsb' 5 5)
  | 14 => .sra (w.extractLsb' 20 5) (w.extractLsb' 15 5) (w.extractLsb' 10 5) (w.extractLsb' 5 5)
  | 15 => .rotr (w.extractLsb' 20 5) (w.extractLsb' 15 5) (w.extractLsb' 10 5) (w.extractLsb' 5 5)
  | 16 => .min (w.extractLsb' 20 5) (w.extractLsb' 15 5) (w.extractLsb' 10 5) (w.extractLsb' 5 5)
  | 17 => .max (w.extractLsb' 20 5) (w.extractLsb' 15 5) (w.extractLsb' 10 5) (w.extractLsb' 5 5)
  | 18 => .minn (w.extractLsb' 20 5) (w.extractLsb' 15 5) (w.extractLsb' 10 5) (w.extractLsb' 5 5)
  | 19 => .maxn (w.extractLsb' 20 5) (w.extractLsb' 15 5) (w.extractLsb' 10 5) (w.extractLsb' 5 5)
  | 20 => .seq (w.extractLsb' 20 5) (w.extractLsb' 15 5) (w.extractLsb' 10 5) (w.extractLsb' 5 5)
  | 21 => .slt (w.extractLsb' 20 5) (w.extractLsb' 15 5) (w.extractLsb' 10 5) (w.extractLsb' 5 5)
  | 22 => .sltn (w.extractLsb' 20 5) (w.extractLsb' 15 5) (w.extractLsb' 10 5) (w.extractLsb' 5 5)
  | 23 => .sel (w.extractLsb' 20 5) (w.extractLsb' 15 5) (w.extractLsb' 10 5) (w.extractLsb' 5 5)
  | 24 => .adds (w.extractLsb' 20 5) (w.extractLsb' 15 5) (w.extractLsb' 10 5) (w.extractLsb' 5 5)
  | _ => .illegalEncoding

/-- Major 0x02, format A (R96). -/
def decodeMajor02 (w : Word32) : Instr :=
  match (w.extractLsb' 0 5).toNat with
  | 0 => .neg (w.extractLsb' 20 5) (w.extractLsb' 15 5) (w.extractLsb' 5 10)
  | 1 => .clz (w.extractLsb' 20 5) (w.extractLsb' 15 5) (w.extractLsb' 5 10)
  | 2 => .ctz (w.extractLsb' 20 5) (w.extractLsb' 15 5) (w.extractLsb' 5 10)
  | 3 => .popc (w.extractLsb' 20 5) (w.extractLsb' 15 5) (w.extractLsb' 5 10)
  | 4 => .mov (w.extractLsb' 20 5) (w.extractLsb' 15 5) (w.extractLsb' 5 10)
  | 5 => .sext (w.extractLsb' 20 5) (w.extractLsb' 15 5) (w.extractLsb' 10 5) (w.extractLsb' 5 5)
  | 6 => .zext (w.extractLsb' 20 5) (w.extractLsb' 15 5) (w.extractLsb' 10 5) (w.extractLsb' 5 5)
  | _ => .illegalEncoding

/-- Major 0x03, format I (R96). -/
def decodeMajor03 (w : Word32) : Instr :=
  match (w.extractLsb' 12 3).toNat with
  | 0 => .addi (w.extractLsb' 20 5) (w.extractLsb' 15 5) (w.extractLsb' 0 12)
  | 1 => .andi (w.extractLsb' 20 5) (w.extractLsb' 15 5) (w.extractLsb' 0 12)
  | 2 => .ori (w.extractLsb' 20 5) (w.extractLsb' 15 5) (w.extractLsb' 0 12)
  | 3 => .xori (w.extractLsb' 20 5) (w.extractLsb' 15 5) (w.extractLsb' 0 12)
  | 4 => .slti (w.extractLsb' 20 5) (w.extractLsb' 15 5) (w.extractLsb' 0 12)
  | 5 => .shli (w.extractLsb' 20 5) (w.extractLsb' 15 5) (w.extractLsb' 0 6) (w.extractLsb' 6 6)
  | 6 => .shri (w.extractLsb' 20 5) (w.extractLsb' 15 5) (w.extractLsb' 0 6) (w.extractLsb' 6 6)
  | _ => .srai (w.extractLsb' 20 5) (w.extractLsb' 15 5) (w.extractLsb' 0 6) (w.extractLsb' 6 6)

/-- Major 0x04, format I (R96). -/
def decodeMajor04 (w : Word32) : Instr :=
  match (w.extractLsb' 12 3).toNat with
  | 0 => .bfx (w.extractLsb' 20 5) (w.extractLsb' 15 5) (w.extractLsb' 6 6) (w.extractLsb' 0 6)
  | 1 => .bfi (w.extractLsb' 20 5) (w.extractLsb' 15 5) (w.extractLsb' 6 6) (w.extractLsb' 0 6)
  | _ => .illegalEncoding

/-- Major 0x05, format U (R96). -/
def decodeMajor05 (w : Word32) : Instr :=
  .li (w.extractLsb' 20 5) (w.extractLsb' 0 20)

/-- Major 0x06, format U (R96). -/
def decodeMajor06 (w : Word32) : Instr :=
  .lih (w.extractLsb' 20 5) (w.extractLsb' 0 20)

/-- Major 0x08, format B (R96). -/
def decodeMajor08 (w : Word32) : Instr :=
  match (w.extractLsb' 12 3).toNat with
  | 0 => .beq (w.extractLsb' 20 5) (w.extractLsb' 15 5) (w.extractLsb' 0 12)
  | 1 => .bne (w.extractLsb' 20 5) (w.extractLsb' 15 5) (w.extractLsb' 0 12)
  | 2 => .blt (w.extractLsb' 20 5) (w.extractLsb' 15 5) (w.extractLsb' 0 12)
  | 3 => .bge (w.extractLsb' 20 5) (w.extractLsb' 15 5) (w.extractLsb' 0 12)
  | 4 => .bltn (w.extractLsb' 20 5) (w.extractLsb' 15 5) (w.extractLsb' 0 12)
  | 5 => .bgen (w.extractLsb' 20 5) (w.extractLsb' 15 5) (w.extractLsb' 0 12)
  | 6 => .bz (w.extractLsb' 20 5) (w.extractLsb' 0 12) (w.extractLsb' 15 5)
  | _ => .bnz (w.extractLsb' 20 5) (w.extractLsb' 0 12) (w.extractLsb' 15 5)

/-- Major 0x09, format J (R96). -/
def decodeMajor09 (w : Word32) : Instr :=
  .jal (w.extractLsb' 20 5) (w.extractLsb' 0 20)

/-- Major 0x0A, format I (R96). -/
def decodeMajor0A (w : Word32) : Instr :=
  match (w.extractLsb' 12 3).toNat with
  | 0 => .jr (w.extractLsb' 20 5) (w.extractLsb' 15 5) (w.extractLsb' 0 12)
  | 1 => .loop (w.extractLsb' 20 5) (w.extractLsb' 15 5) (w.extractLsb' 0 12)
  | 2 => .halt (w.extractLsb' 15 10) (w.extractLsb' 0 12)
  | _ => .illegalEncoding

/-- Major 0x0C, format A (R96). -/
def decodeMajor0C (w : Word32) : Instr :=
  match (w.extractLsb' 0 5).toNat with
  | 0 => .fadd (w.extractLsb' 20 5) (w.extractLsb' 15 5) (w.extractLsb' 10 5) (w.extractLsb' 5 5)
  | 1 => .fsub (w.extractLsb' 20 5) (w.extractLsb' 15 5) (w.extractLsb' 10 5) (w.extractLsb' 5 5)
  | 2 => .fmul (w.extractLsb' 20 5) (w.extractLsb' 15 5) (w.extractLsb' 10 5) (w.extractLsb' 5 5)
  | 3 => .ffma (w.extractLsb' 20 5) (w.extractLsb' 15 5) (w.extractLsb' 10 5) (w.extractLsb' 5 5)
  | 4 => .fdiv (w.extractLsb' 20 5) (w.extractLsb' 15 5) (w.extractLsb' 10 5) (w.extractLsb' 5 5)
  | 5 => .fsqrt (w.extractLsb' 20 5) (w.extractLsb' 15 5) (w.extractLsb' 5 10)
  | 6 => .fmin (w.extractLsb' 20 5) (w.extractLsb' 15 5) (w.extractLsb' 10 5) (w.extractLsb' 5 5)
  | 7 => .fmax (w.extractLsb' 20 5) (w.extractLsb' 15 5) (w.extractLsb' 10 5) (w.extractLsb' 5 5)
  | 8 => .feq (w.extractLsb' 20 5) (w.extractLsb' 15 5) (w.extractLsb' 10 5) (w.extractLsb' 5 5)
  | 9 => .flt (w.extractLsb' 20 5) (w.extractLsb' 15 5) (w.extractLsb' 10 5) (w.extractLsb' 5 5)
  | 10 => .fle (w.extractLsb' 20 5) (w.extractLsb' 15 5) (w.extractLsb' 10 5) (w.extractLsb' 5 5)
  | 11 => .fclass (w.extractLsb' 20 5) (w.extractLsb' 15 5) (w.extractLsb' 5 10)
  | 12 => .fmv (w.extractLsb' 20 5) (w.extractLsb' 15 5) (w.extractLsb' 5 10)
  | _ => .illegalEncoding

/-- Major 0x0D, format I (R96). -/
def decodeMajor0D (w : Word32) : Instr :=
  match (w.extractLsb' 12 3).toNat with
  | 0 => .fcvt (w.extractLsb' 20 5) (w.extractLsb' 15 5) (w.extractLsb' 4 4) (w.extractLsb' 0 4) (w.extractLsb' 8 4)
  | _ => .illegalEncoding

/-- Major 0x10, format M (R96). -/
def decodeMajor10 (w : Word32) : Instr :=
  match (w.extractLsb' 11 1).toNat with
  | 0 => .ld (w.extractLsb' 20 5) (w.extractLsb' 15 5) (w.extractLsb' 12 3) (w.extractLsb' 0 11)
  | _ => .ldn (w.extractLsb' 20 5) (w.extractLsb' 15 5) (w.extractLsb' 12 3) (w.extractLsb' 0 11)

/-- Major 0x11, format M (R96). -/
def decodeMajor11 (w : Word32) : Instr :=
  match (w.extractLsb' 11 1).toNat with
  | 0 => .st (w.extractLsb' 20 5) (w.extractLsb' 15 5) (w.extractLsb' 12 3) (w.extractLsb' 0 11)
  | _ => .pref (w.extractLsb' 20 1) (w.extractLsb' 15 5) (w.extractLsb' 0 11) (w.extractLsb' 21 4) (w.extractLsb' 12 3)

/-- Major 0x12, format M (R96). -/
def decodeMajor12 (w : Word32) : Instr :=
  match (w.extractLsb' 11 1).toNat with
  | 0 => .lda (w.extractLsb' 20 5) (w.extractLsb' 15 5) (w.extractLsb' 12 3) (w.extractLsb' 0 11)
  | _ => .stl (w.extractLsb' 20 5) (w.extractLsb' 15 5) (w.extractLsb' 12 3) (w.extractLsb' 0 11)

/-- Major 0x13, format A (R96). -/
def decodeMajor13 (w : Word32) : Instr :=
  match (w.extractLsb' 0 5).toNat with
  | 0 => .amo (w.extractLsb' 20 5) (w.extractLsb' 15 5) (w.extractLsb' 10 5) (w.extractLsb' 5 2) (w.extractLsb' 0 5) (w.extractLsb' 7 3)
  | 1 => .amo (w.extractLsb' 20 5) (w.extractLsb' 15 5) (w.extractLsb' 10 5) (w.extractLsb' 5 2) (w.extractLsb' 0 5) (w.extractLsb' 7 3)
  | 2 => .amo (w.extractLsb' 20 5) (w.extractLsb' 15 5) (w.extractLsb' 10 5) (w.extractLsb' 5 2) (w.extractLsb' 0 5) (w.extractLsb' 7 3)
  | 3 => .amo (w.extractLsb' 20 5) (w.extractLsb' 15 5) (w.extractLsb' 10 5) (w.extractLsb' 5 2) (w.extractLsb' 0 5) (w.extractLsb' 7 3)
  | 4 => .amo (w.extractLsb' 20 5) (w.extractLsb' 15 5) (w.extractLsb' 10 5) (w.extractLsb' 5 2) (w.extractLsb' 0 5) (w.extractLsb' 7 3)
  | 5 => .amo (w.extractLsb' 20 5) (w.extractLsb' 15 5) (w.extractLsb' 10 5) (w.extractLsb' 5 2) (w.extractLsb' 0 5) (w.extractLsb' 7 3)
  | 6 => .amo (w.extractLsb' 20 5) (w.extractLsb' 15 5) (w.extractLsb' 10 5) (w.extractLsb' 5 2) (w.extractLsb' 0 5) (w.extractLsb' 7 3)
  | 7 => .amo (w.extractLsb' 20 5) (w.extractLsb' 15 5) (w.extractLsb' 10 5) (w.extractLsb' 5 2) (w.extractLsb' 0 5) (w.extractLsb' 7 3)
  | 8 => .amo (w.extractLsb' 20 5) (w.extractLsb' 15 5) (w.extractLsb' 10 5) (w.extractLsb' 5 2) (w.extractLsb' 0 5) (w.extractLsb' 7 3)
  | 9 => .cas (w.extractLsb' 20 5) (w.extractLsb' 15 5) (w.extractLsb' 10 5) (w.extractLsb' 5 2) (w.extractLsb' 7 3)
  | _ => .illegalEncoding

/-- Major 0x14, format M (R96). -/
def decodeMajor14 (w : Word32) : Instr :=
  match (w.extractLsb' 11 1).toNat with
  | 0 => .lds (w.extractLsb' 20 5) (w.extractLsb' 15 5) (w.extractLsb' 12 3) (w.extractLsb' 0 11)
  | _ => .sts (w.extractLsb' 20 5) (w.extractLsb' 15 5) (w.extractLsb' 12 3) (w.extractLsb' 0 11)

/-- Major 0x15, format A (R96). -/
def decodeMajor15 (w : Word32) : Instr :=
  match (w.extractLsb' 0 5).toNat with
  | 0 => .amos (w.extractLsb' 20 5) (w.extractLsb' 15 5) (w.extractLsb' 10 5) (w.extractLsb' 5 2) (w.extractLsb' 0 5) (w.extractLsb' 7 3)
  | 1 => .amos (w.extractLsb' 20 5) (w.extractLsb' 15 5) (w.extractLsb' 10 5) (w.extractLsb' 5 2) (w.extractLsb' 0 5) (w.extractLsb' 7 3)
  | 2 => .amos (w.extractLsb' 20 5) (w.extractLsb' 15 5) (w.extractLsb' 10 5) (w.extractLsb' 5 2) (w.extractLsb' 0 5) (w.extractLsb' 7 3)
  | 3 => .amos (w.extractLsb' 20 5) (w.extractLsb' 15 5) (w.extractLsb' 10 5) (w.extractLsb' 5 2) (w.extractLsb' 0 5) (w.extractLsb' 7 3)
  | 4 => .amos (w.extractLsb' 20 5) (w.extractLsb' 15 5) (w.extractLsb' 10 5) (w.extractLsb' 5 2) (w.extractLsb' 0 5) (w.extractLsb' 7 3)
  | 5 => .amos (w.extractLsb' 20 5) (w.extractLsb' 15 5) (w.extractLsb' 10 5) (w.extractLsb' 5 2) (w.extractLsb' 0 5) (w.extractLsb' 7 3)
  | 6 => .amos (w.extractLsb' 20 5) (w.extractLsb' 15 5) (w.extractLsb' 10 5) (w.extractLsb' 5 2) (w.extractLsb' 0 5) (w.extractLsb' 7 3)
  | 7 => .amos (w.extractLsb' 20 5) (w.extractLsb' 15 5) (w.extractLsb' 10 5) (w.extractLsb' 5 2) (w.extractLsb' 0 5) (w.extractLsb' 7 3)
  | 8 => .amos (w.extractLsb' 20 5) (w.extractLsb' 15 5) (w.extractLsb' 10 5) (w.extractLsb' 5 2) (w.extractLsb' 0 5) (w.extractLsb' 7 3)
  | 9 => .tsb (w.extractLsb' 20 5) (w.extractLsb' 15 5) (w.extractLsb' 10 5) (w.extractLsb' 5 5)
  | 10 => .tcb (w.extractLsb' 20 5) (w.extractLsb' 15 5) (w.extractLsb' 10 5) (w.extractLsb' 5 5)
  | 11 => .fence (w.extractLsb' 8 2) (w.extractLsb' 5 3) (w.extractLsb' 10 15)
  | 12 =>
    match (w.extractLsb' 5 2).toNat with
    | 0 => .ownDecl (w.extractLsb' 20 5) (w.extractLsb' 15 5) (w.extractLsb' 10 5) (w.extractLsb' 7 3)
    | 1 => .ownGive (w.extractLsb' 20 5) (w.extractLsb' 15 5) (w.extractLsb' 10 5) (w.extractLsb' 7 3)
    | 2 => .ownTake (w.extractLsb' 20 5) (w.extractLsb' 15 5) (w.extractLsb' 7 8)
    | _ => .ownDrop (w.extractLsb' 20 5) (w.extractLsb' 15 5) (w.extractLsb' 7 8)
  | _ => .illegalEncoding

/-- Major 0x16, format A (R96). -/
def decodeMajor16 (w : Word32) : Instr :=
  match (w.extractLsb' 0 5).toNat with
  | 0 => .vadd (w.extractLsb' 20 5) (w.extractLsb' 15 5) (w.extractLsb' 10 5) (w.extractLsb' 9 1) (w.extractLsb' 5 4)
  | 1 => .vsub (w.extractLsb' 20 5) (w.extractLsb' 15 5) (w.extractLsb' 10 5) (w.extractLsb' 9 1) (w.extractLsb' 5 4)
  | 2 => .vmul (w.extractLsb' 20 5) (w.extractLsb' 15 5) (w.extractLsb' 10 5) (w.extractLsb' 9 1) (w.extractLsb' 5 4)
  | 3 => .vfma (w.extractLsb' 20 5) (w.extractLsb' 15 5) (w.extractLsb' 10 5) (w.extractLsb' 9 1) (w.extractLsb' 5 4)
  | 4 => .vmin (w.extractLsb' 20 5) (w.extractLsb' 15 5) (w.extractLsb' 10 5) (w.extractLsb' 9 1) (w.extractLsb' 5 4)
  | 5 => .vmax (w.extractLsb' 20 5) (w.extractLsb' 15 5) (w.extractLsb' 10 5) (w.extractLsb' 9 1) (w.extractLsb' 5 4)
  | 6 => .vabs (w.extractLsb' 20 5) (w.extractLsb' 15 5) (w.extractLsb' 9 1) (w.extractLsb' 5 4) (w.extractLsb' 10 5)
  | 7 => .vneg (w.extractLsb' 20 5) (w.extractLsb' 15 5) (w.extractLsb' 9 1) (w.extractLsb' 5 4) (w.extractLsb' 10 5)
  | 8 => .vand (w.extractLsb' 20 5) (w.extractLsb' 15 5) (w.extractLsb' 10 5) (w.extractLsb' 5 4) (w.extractLsb' 9 1)
  | 9 => .vor (w.extractLsb' 20 5) (w.extractLsb' 15 5) (w.extractLsb' 10 5) (w.extractLsb' 5 4) (w.extractLsb' 9 1)
  | 10 => .vxor (w.extractLsb' 20 5) (w.extractLsb' 15 5) (w.extractLsb' 10 5) (w.extractLsb' 5 4) (w.extractLsb' 9 1)
  | 11 => .vshl (w.extractLsb' 20 5) (w.extractLsb' 15 5) (w.extractLsb' 10 5) (w.extractLsb' 5 4) (w.extractLsb' 9 1)
  | 12 => .vshr (w.extractLsb' 20 5) (w.extractLsb' 15 5) (w.extractLsb' 10 5) (w.extractLsb' 5 4) (w.extractLsb' 9 1)
  | 13 => .vsra (w.extractLsb' 20 5) (w.extractLsb' 15 5) (w.extractLsb' 10 5) (w.extractLsb' 5 4) (w.extractLsb' 9 1)
  | 14 => .vsel (w.extractLsb' 20 5) (w.extractLsb' 15 5) (w.extractLsb' 10 5) (w.extractLsb' 5 4) (w.extractLsb' 9 1)
  | 15 => .vred (w.extractLsb' 20 5) (w.extractLsb' 15 5) (w.extractLsb' 9 1) (w.extractLsb' 5 4) (w.extractLsb' 10 5)
  | 16 => .vrcp (w.extractLsb' 20 5) (w.extractLsb' 15 5) (w.extractLsb' 5 4) (w.extractLsb' 9 6)
  | 17 => .vrsq (w.extractLsb' 20 5) (w.extractLsb' 15 5) (w.extractLsb' 5 4) (w.extractLsb' 9 6)
  | 18 => .vexp2 (w.extractLsb' 20 5) (w.extractLsb' 15 5) (w.extractLsb' 5 4) (w.extractLsb' 9 6)
  | 19 => .vlog2 (w.extractLsb' 20 5) (w.extractLsb' 15 5) (w.extractLsb' 5 4) (w.extractLsb' 9 6)
  | 24 => .vcmp (w.extractLsb' 20 5) (w.extractLsb' 15 5) (w.extractLsb' 10 5) (w.extractLsb' 9 1) (w.extractLsb' 5 4) (w.extractLsb' 0 3)
  | 25 => .vcmp (w.extractLsb' 20 5) (w.extractLsb' 15 5) (w.extractLsb' 10 5) (w.extractLsb' 9 1) (w.extractLsb' 5 4) (w.extractLsb' 0 3)
  | 26 => .vcmp (w.extractLsb' 20 5) (w.extractLsb' 15 5) (w.extractLsb' 10 5) (w.extractLsb' 9 1) (w.extractLsb' 5 4) (w.extractLsb' 0 3)
  | 27 => .vcmp (w.extractLsb' 20 5) (w.extractLsb' 15 5) (w.extractLsb' 10 5) (w.extractLsb' 9 1) (w.extractLsb' 5 4) (w.extractLsb' 0 3)
  | 28 => .vcmp (w.extractLsb' 20 5) (w.extractLsb' 15 5) (w.extractLsb' 10 5) (w.extractLsb' 9 1) (w.extractLsb' 5 4) (w.extractLsb' 0 3)
  | 29 => .vcmp (w.extractLsb' 20 5) (w.extractLsb' 15 5) (w.extractLsb' 10 5) (w.extractLsb' 9 1) (w.extractLsb' 5 4) (w.extractLsb' 0 3)
  | _ => .illegalEncoding

/-- Major 0x17, format A (R96). -/
def decodeMajor17 (w : Word32) : Instr :=
  match (w.extractLsb' 0 5).toNat with
  | 0 => .vcvt (w.extractLsb' 20 5) (w.extractLsb' 15 5) (w.extractLsb' 10 4) (w.extractLsb' 5 4) (w.extractLsb' 14 1) (w.extractLsb' 9 1)
  | 1 => .vpack (w.extractLsb' 20 5) (w.extractLsb' 15 5) (w.extractLsb' 10 5) (w.extractLsb' 5 4) (w.extractLsb' 9 1)
  | 2 => .vunpk (w.extractLsb' 20 5) (w.extractLsb' 15 5) (w.extractLsb' 10 5) (w.extractLsb' 5 4) (w.extractLsb' 9 1)
  | 3 => .vperm (w.extractLsb' 20 5) (w.extractLsb' 15 5) (w.extractLsb' 10 5) (w.extractLsb' 5 4) (w.extractLsb' 9 1)
  | 4 => .vbcst (w.extractLsb' 20 5) (w.extractLsb' 15 5) (w.extractLsb' 10 5) (w.extractLsb' 5 4) (w.extractLsb' 9 1)
  | 5 => .vlen (w.extractLsb' 20 5) (w.extractLsb' 15 5) (w.extractLsb' 5 4) (w.extractLsb' 9 6)
  | 6 => .vcat (w.extractLsb' 20 5) (w.extractLsb' 15 5) (w.extractLsb' 10 5) (w.extractLsb' 5 4) (w.extractLsb' 9 1)
  | 7 => .vspl (w.extractLsb' 20 5) (w.extractLsb' 15 5) (w.extractLsb' 5 4) (w.extractLsb' 9 6)
  | 8 => .vidx (w.extractLsb' 20 5) (w.extractLsb' 5 4) (w.extractLsb' 9 11)
  | _ => .illegalEncoding

/-- Major 0x20, format T (R96). -/
def decodeMajor20 (w : Word32) : Instr :=
  match (w.extractLsb' 0 3).toNat with
  | 0 => .send (w.extractLsb' 20 5) (w.extractLsb' 15 5) (w.extractLsb' 12 3) (w.extractLsb' 9 3) (w.extractLsb' 3 6)
  | 1 => .sende (w.extractLsb' 15 5) (w.extractLsb' 12 3) (w.extractLsb' 3 6) (w.extractLsb' 20 5) (w.extractLsb' 9 3)
  | 2 => .sendr (w.extractLsb' 20 5) (w.extractLsb' 15 5) (w.extractLsb' 12 3) (w.extractLsb' 3 6) (w.extractLsb' 9 3)
  | 3 => .sendm (w.extractLsb' 20 5) (w.extractLsb' 15 5) (w.extractLsb' 12 3) (w.extractLsb' 3 6) (w.extractLsb' 9 3)
  | 4 => .sendo (w.extractLsb' 15 5) (w.extractLsb' 12 3) (w.extractLsb' 3 6) (w.extractLsb' 20 5) (w.extractLsb' 9 3)
  | _ => .illegalEncoding

/-- Major 0x21, format A (R96). -/
def decodeMajor21 (w : Word32) : Instr :=
  match (w.extractLsb' 0 5).toNat with
  | 0 => .hdr (w.extractLsb' 20 5) (w.extractLsb' 15 5) (w.extractLsb' 10 5) (w.extractLsb' 5 5)
  | 1 => .tagx (w.extractLsb' 20 5) (w.extractLsb' 15 5) (w.extractLsb' 10 5) (w.extractLsb' 5 5)
  | 2 => .falloc (w.extractLsb' 20 5) (w.extractLsb' 5 15)
  | 3 => .ffree (w.extractLsb' 15 5) (w.extractLsb' 20 5) (w.extractLsb' 5 10)
  | 4 => .fsto (w.extractLsb' 20 3) (w.extractLsb' 15 5) (w.extractLsb' 10 5) (w.extractLsb' 5 3) (w.extractLsb' 23 2) (w.extractLsb' 8 2)
  | 5 => .fldo (w.extractLsb' 20 5) (w.extractLsb' 15 5) (w.extractLsb' 5 3) (w.extractLsb' 8 7)
  | _ => .illegalEncoding

/-- Major 0x22, format A (R96). -/
def decodeMajor22 (w : Word32) : Instr :=
  match (w.extractLsb' 0 5).toNat with
  | 0 => .inj (w.extractLsb' 15 5) (w.extractLsb' 10 5) (w.extractLsb' 20 5) (w.extractLsb' 5 5)
  | _ => .illegalEncoding

/-- Major 0x24, format K (R96). -/
def decodeMajor24 (w : Word32) : Instr :=
  match (w.extractLsb' 0 4).toNat with
  | 0 => .sld (w.extractLsb' 17 8) (w.extractLsb' 4 5) (w.extractLsb' 9 8)
  | 1 => .sst (w.extractLsb' 17 8) (w.extractLsb' 4 5) (w.extractLsb' 9 8)
  | 2 => .sbind (w.extractLsb' 17 8) (w.extractLsb' 4 5) (w.extractLsb' 9 8)
  | 3 => .sunb (w.extractLsb' 17 8) (w.extractLsb' 4 13)
  | 4 => .sadd (w.extractLsb' 17 8) (w.extractLsb' 9 8) (w.extractLsb' 4 5)
  | 5 => .smax (w.extractLsb' 17 8) (w.extractLsb' 9 8) (w.extractLsb' 4 5)
  | 6 => .smin (w.extractLsb' 17 8) (w.extractLsb' 9 8) (w.extractLsb' 4 5)
  | 7 => .smulv (w.extractLsb' 17 8) (w.extractLsb' 9 8) (w.extractLsb' 4 5)
  | 8 => .snorm (w.extractLsb' 17 8) (w.extractLsb' 9 8) (w.extractLsb' 4 5)
  | 9 => .scpy (w.extractLsb' 17 8) (w.extractLsb' 9 8) (w.extractLsb' 4 5)
  | 10 => .sgen (w.extractLsb' 17 8) (w.extractLsb' 4 5) (w.extractLsb' 9 8)
  | 11 => .szero (w.extractLsb' 17 8) (w.extractLsb' 4 13)
  | _ => .illegalEncoding

/-- Major 0x28, format X (R96). -/
def decodeMajor28 (w : Word32) : Instr :=
  match (w.extractLsb' 0 2).toNat with
  | 0 => .tfetch (w.extractLsb' 20 5) (w.extractLsb' 15 5) (w.extractLsb' 10 5) (w.extractLsb' 2 8)
  | 1 => .trel (w.extractLsb' 15 5) (w.extractLsb' 20 5) (w.extractLsb' 2 13)
  | _ => .illegalEncoding

/-- Major 0x29, format A (R96). -/
def decodeMajor29 (w : Word32) : Instr :=
  match (w.extractLsb' 0 5).toNat with
  | 0 => .mma (w.extractLsb' 15 5) (w.extractLsb' 10 5) (w.extractLsb' 5 5) (w.extractLsb' 20 5)
  | 1 => .mmai (w.extractLsb' 15 5) (w.extractLsb' 10 5) (w.extractLsb' 5 5) (w.extractLsb' 20 5)
  | 2 => .macc (w.extractLsb' 15 5) (w.extractLsb' 10 5) (w.extractLsb' 20 5) (w.extractLsb' 5 5)
  | 3 => .mzero (w.extractLsb' 15 5) (w.extractLsb' 20 5) (w.extractLsb' 5 10)
  | 4 => .meor (w.extractLsb' 15 5) (w.extractLsb' 10 5) (w.extractLsb' 20 5) (w.extractLsb' 5 5)
  | 5 => .mrd (w.extractLsb' 20 5) (w.extractLsb' 15 5) (w.extractLsb' 10 5) (w.extractLsb' 5 5)
  | _ => .illegalEncoding

/-- Major 0x2C, format A (R96). -/
def decodeMajor2C (w : Word32) : Instr :=
  match (w.extractLsb' 0 5).toNat with
  | 0 => .opw (w.extractLsb' 15 5) (w.extractLsb' 10 5) (w.extractLsb' 20 5) (w.extractLsb' 5 5)
  | 1 => .opr (w.extractLsb' 20 5) (w.extractLsb' 15 5) (w.extractLsb' 5 10)
  | 2 => .opsnap (w.extractLsb' 20 5) (w.extractLsb' 15 5) (w.extractLsb' 10 5) (w.extractLsb' 5 5)
  | _ => .illegalEncoding

/-- Major 0x2D, format X (R96). -/
def decodeMajor2D (w : Word32) : Instr :=
  match (w.extractLsb' 0 2).toNat with
  | 0 => .cpy (w.extractLsb' 15 5) (w.extractLsb' 10 5) (w.extractLsb' 2 8) (w.extractLsb' 20 5)
  | 1 => .cpyb (w.extractLsb' 20 5) (w.extractLsb' 15 5) (w.extractLsb' 10 5) (w.extractLsb' 2 8)
  | 2 => .ctarm (w.extractLsb' 20 5) (w.extractLsb' 15 5) (w.extractLsb' 10 5) (w.extractLsb' 2 8)
  | _ => .ctdis (w.extractLsb' 20 5) (w.extractLsb' 2 8) (w.extractLsb' 10 10)

/-- Major 0x2E, format X (R96). -/
def decodeMajor2E (w : Word32) : Instr :=
  match (w.extractLsb' 0 2).toNat with
  | 0 => .strmi (w.extractLsb' 20 5) (w.extractLsb' 15 5) (w.extractLsb' 2 8) (w.extractLsb' 10 5)
  | 1 => .strmo (w.extractLsb' 15 5) (w.extractLsb' 10 5) (w.extractLsb' 2 8) (w.extractLsb' 20 5)
  | 2 => .strms (w.extractLsb' 15 5) (w.extractLsb' 2 8) (w.extractLsb' 20 5) (w.extractLsb' 10 5)
  | _ => .strmb (w.extractLsb' 2 8) (w.extractLsb' 10 15)

/-- Major 0x2F, format A (R96). -/
def decodeMajor2F (w : Word32) : Instr :=
  match (w.extractLsb' 0 5).toNat with
  | 0 => .cwany (w.extractLsb' 20 5) (w.extractLsb' 15 5) (w.extractLsb' 5 10)
  | 1 => .cwall (w.extractLsb' 15 5) (w.extractLsb' 20 5) (w.extractLsb' 5 10)
  | 2 => .cffr (w.extractLsb' 20 5) (w.extractLsb' 15 5) (w.extractLsb' 5 10)
  | _ => .illegalEncoding

/-- Major 0x30, format A (R96). -/
def decodeMajor30 (w : Word32) : Instr :=
  match (w.extractLsb' 0 5).toNat with
  | 0 => .qpush (w.extractLsb' 20 5) (w.extractLsb' 15 5) (w.extractLsb' 10 5) (w.extractLsb' 5 1) (w.extractLsb' 6 4)
  | 1 => .qpop (w.extractLsb' 20 5) (w.extractLsb' 15 5) (w.extractLsb' 10 5) (w.extractLsb' 5 1) (w.extractLsb' 6 4)
  | 2 => .cont (w.extractLsb' 20 5) (w.extractLsb' 15 5) (w.extractLsb' 10 5) (w.extractLsb' 5 5)
  | 3 => .join (w.extractLsb' 20 5) (w.extractLsb' 15 5) (w.extractLsb' 5 10)
  | 4 => .steal (w.extractLsb' 20 5) (w.extractLsb' 15 5) (w.extractLsb' 10 5) (w.extractLsb' 5 5)
  | 5 => .qstat (w.extractLsb' 20 5) (w.extractLsb' 15 5) (w.extractLsb' 5 10)
  | _ => .illegalEncoding

/-- Major 0x32, format A (R96). -/
def decodeMajor32 (w : Word32) : Instr :=
  match (w.extractLsb' 0 5).toNat with
  | 0 => .binit (w.extractLsb' 15 5) (w.extractLsb' 10 5) (w.extractLsb' 20 5) (w.extractLsb' 5 5)
  | 1 => .barr (w.extractLsb' 20 5) (w.extractLsb' 15 5) (w.extractLsb' 10 5) (w.extractLsb' 5 5)
  | 2 => .barrx (w.extractLsb' 20 5) (w.extractLsb' 15 5) (w.extractLsb' 10 5) (w.extractLsb' 5 5)
  | 3 => .bwait (w.extractLsb' 20 5) (w.extractLsb' 15 5) (w.extractLsb' 10 5) (w.extractLsb' 5 5)
  | 4 => .bwaitp (w.extractLsb' 20 5) (w.extractLsb' 15 5) (w.extractLsb' 10 5) (w.extractLsb' 5 5)
  | 5 => .btest (w.extractLsb' 20 5) (w.extractLsb' 15 5) (w.extractLsb' 10 5) (w.extractLsb' 5 5)
  | 6 => .bsec (w.extractLsb' 15 5) (w.extractLsb' 10 5) (w.extractLsb' 20 5) (w.extractLsb' 5 5)
  | _ => .illegalEncoding

/-- Major 0x34, format A (R96). -/
def decodeMajor34 (w : Word32) : Instr :=
  match (w.extractLsb' 0 5).toNat with
  | 0 => .preq (w.extractLsb' 20 5) (w.extractLsb' 15 5) (w.extractLsb' 5 10)
  | 1 => .ppin (w.extractLsb' 20 5) (w.extractLsb' 15 5) (w.extractLsb' 5 10)
  | 2 => .punp (w.extractLsb' 20 5) (w.extractLsb' 15 5) (w.extractLsb' 5 10)
  | 3 => .pevt (w.extractLsb' 20 5) (w.extractLsb' 15 5) (w.extractLsb' 5 10)
  | 4 => .step (w.extractLsb' 20 5) (w.extractLsb' 15 5) (w.extractLsb' 10 5) (w.extractLsb' 5 5)
  | 5 => .frz (w.extractLsb' 20 5) (w.extractLsb' 15 5) (w.extractLsb' 5 10)
  | 6 => .thaw (w.extractLsb' 20 5) (w.extractLsb' 15 5) (w.extractLsb' 5 10)
  | 7 => .snap (w.extractLsb' 20 5) (w.extractLsb' 15 5) (w.extractLsb' 10 5) (w.extractLsb' 5 5)
  | 8 => .cfgw (w.extractLsb' 15 5) (w.extractLsb' 10 5) (w.extractLsb' 20 5) (w.extractLsb' 5 5)
  | 9 => .cfgc (w.extractLsb' 20 5) (w.extractLsb' 15 5) (w.extractLsb' 5 10)
  | 10 => .cfgk (w.extractLsb' 20 5) (w.extractLsb' 15 5) (w.extractLsb' 5 10)
  | 11 => .cfga (w.extractLsb' 20 5) (w.extractLsb' 15 5) (w.extractLsb' 5 10)
  | 12 => .place (w.extractLsb' 20 5) (w.extractLsb' 15 5) (w.extractLsb' 10 5) (w.extractLsb' 5 5)
  | _ => .illegalEncoding

/-- Major 0x38, format S (R96). -/
def decodeMajor38 (w : Word32) : Instr :=
  match (w.extractLsb' 0 3).toNat with
  | 0 => .srd (w.extractLsb' 20 5) (w.extractLsb' 3 12) (w.extractLsb' 15 5)
  | 1 => .swr (w.extractLsb' 15 5) (w.extractLsb' 3 12) (w.extractLsb' 20 5)
  | _ => .illegalEncoding

/-- Major 0x39, format I (R96). -/
def decodeMajor39 (w : Word32) : Instr :=
  match (w.extractLsb' 12 3).toNat with
  | 0 => .trap (w.extractLsb' 0 12) (w.extractLsb' 15 10)
  | 1 => .eret (w.extractLsb' 15 10) (w.extractLsb' 0 12)
  | 2 => .wfe (w.extractLsb' 15 10) (w.extractLsb' 0 12)
  | 3 => .sev (w.extractLsb' 15 10) (w.extractLsb' 0 12)
  | 4 => .brk (w.extractLsb' 0 12) (w.extractLsb' 15 10)
  | 5 => .cyc (w.extractLsb' 20 5) (w.extractLsb' 15 5) (w.extractLsb' 0 12)
  | 6 => .tlbi (w.extractLsb' 15 5) (w.extractLsb' 3 1) (w.extractLsb' 2 1) (w.extractLsb' 0 2) (w.extractLsb' 20 5) (w.extractLsb' 4 8)
  | _ => .sigv (w.extractLsb' 15 5) (w.extractLsb' 0 6) (w.extractLsb' 20 5) (w.extractLsb' 6 6)

/-- Major 0x3A, format A (R96). -/
def decodeMajor3A (w : Word32) : Instr :=
  match (w.extractLsb' 0 5).toNat with
  | 0 => .connStatus (w.extractLsb' 20 5) (w.extractLsb' 15 5) (w.extractLsb' 10 5) (w.extractLsb' 5 5)
  | 1 => .ctxs (w.extractLsb' 20 5) (w.extractLsb' 15 5) (w.extractLsb' 5 10)
  | 2 => .ctxl (w.extractLsb' 20 5) (w.extractLsb' 15 5) (w.extractLsb' 5 10)
  | _ => .illegalEncoding

/-- Major 0x3C, format H (R96). -/
def decodeMajor3C (w : Word32) : Instr :=
  .hint (w.extractLsb' 0 25)

/-- A 32-bit instruction word (R79, R96 to R98). The majors that R96 does not assign are illegal. -/
def decode32 (w : Word32) : Instr :=
  match (w.extractLsb' 25 6).toNat with
  | 1 => decodeMajor01 w
  | 2 => decodeMajor02 w
  | 3 => decodeMajor03 w
  | 4 => decodeMajor04 w
  | 5 => decodeMajor05 w
  | 6 => decodeMajor06 w
  | 8 => decodeMajor08 w
  | 9 => decodeMajor09 w
  | 10 => decodeMajor0A w
  | 12 => decodeMajor0C w
  | 13 => decodeMajor0D w
  | 16 => decodeMajor10 w
  | 17 => decodeMajor11 w
  | 18 => decodeMajor12 w
  | 19 => decodeMajor13 w
  | 20 => decodeMajor14 w
  | 21 => decodeMajor15 w
  | 22 => decodeMajor16 w
  | 23 => decodeMajor17 w
  | 32 => decodeMajor20 w
  | 33 => decodeMajor21 w
  | 34 => decodeMajor22 w
  | 36 => decodeMajor24 w
  | 40 => decodeMajor28 w
  | 41 => decodeMajor29 w
  | 44 => decodeMajor2C w
  | 45 => decodeMajor2D w
  | 46 => decodeMajor2E w
  | 47 => decodeMajor2F w
  | 48 => decodeMajor30 w
  | 50 => decodeMajor32 w
  | 52 => decodeMajor34 w
  | 56 => decodeMajor38 w
  | 57 => decodeMajor39 w
  | 58 => decodeMajor3A w
  | 60 => decodeMajor3C w
  | 61 => decodeMajor3C w
  | 62 => decodeMajor3C w
  | _ => .illegalEncoding

/-- A 16-bit instruction or prefix (R80, R81, R89, R90). -/
def decode16 (h : BitVec 16) : Instr :=
  match (h.extractLsb' 11 4).toNat with
  | 1 =>
    match (h.extractLsb' 10 1).toNat with
    | 0 => .liShort (h.extractLsb' 7 3) (h.extractLsb' 0 7)
    | _ => .movShort (h.extractLsb' 7 3) (h.extractLsb' 0 3) (h.extractLsb' 3 4)
  | 2 =>
    match (h.extractLsb' 0 2).toNat with
    | 0 => .addShort (h.extractLsb' 8 3) (h.extractLsb' 5 3) (h.extractLsb' 2 3)
    | 1 => .subShort (h.extractLsb' 8 3) (h.extractLsb' 5 3) (h.extractLsb' 2 3)
    | 2 => .addiShortPos (h.extractLsb' 8 3) (h.extractLsb' 5 3) (h.extractLsb' 2 3)
    | _ => .addiShortNeg (h.extractLsb' 8 3) (h.extractLsb' 5 3) (h.extractLsb' 2 3)
  | 3 =>
    match (h.extractLsb' 0 2).toNat with
    | 0 => .vaddF32Short (h.extractLsb' 8 3) (h.extractLsb' 5 3) (h.extractLsb' 2 3)
    | 1 => .vmulF32Short (h.extractLsb' 8 3) (h.extractLsb' 5 3) (h.extractLsb' 2 3)
    | 2 => .vfmaF32Short (h.extractLsb' 8 3) (h.extractLsb' 5 3) (h.extractLsb' 2 3)
    | _ => .vaddI32Short (h.extractLsb' 8 3) (h.extractLsb' 5 3) (h.extractLsb' 2 3)
  | 4 =>
    match (h.extractLsb' 10 1).toNat with
    | 0 => .sendShort (h.extractLsb' 7 3) (h.extractLsb' 4 3) (h.extractLsb' 0 4)
    | _ => .sendIncShort (h.extractLsb' 7 3) (h.extractLsb' 4 3) (h.extractLsb' 0 4)
  | 5 =>
    match (h.extractLsb' 10 1).toNat with
    | 0 => .ldsShort (h.extractLsb' 7 3) (h.extractLsb' 4 3) (h.extractLsb' 0 4)
    | _ => .stsShort (h.extractLsb' 7 3) (h.extractLsb' 4 3) (h.extractLsb' 0 4)
  | 6 =>
    match (h.extractLsb' 10 1).toNat with
    | 0 => .bzShort (h.extractLsb' 7 3) (h.extractLsb' 0 7)
    | _ => .bnzShort (h.extractLsb' 7 3) (h.extractLsb' 0 7)
  | 7 =>
    match (h.extractLsb' 0 2).toNat with
    | 0 => .seqShort (h.extractLsb' 8 3) (h.extractLsb' 5 3) (h.extractLsb' 2 3)
    | 1 => .sltShort (h.extractLsb' 8 3) (h.extractLsb' 5 3) (h.extractLsb' 2 3)
    | 2 => .sltnShort (h.extractLsb' 8 3) (h.extractLsb' 5 3) (h.extractLsb' 2 3)
    | _ => .selShort (h.extractLsb' 8 3) (h.extractLsb' 5 3) (h.extractLsb' 2 3)
  | 14 => if h = 0x7000#16 then .nop else .hintShort (h.extractLsb' 0 11)
  | 15 => .ext (h.extractLsb' 0 11)
  | _ => .illegalEncoding

/-- The 32-bit word of an instruction that has one (R85, R96). -/
def encode32 : Instr → Option Word32
  | .add d a b v0 => some (65#7 ++ d ++ a ++ b ++ v0 ++ 0#5)
  | .sub d a b v0 => some (65#7 ++ d ++ a ++ b ++ v0 ++ 1#5)
  | .mul d a b v0 => some (65#7 ++ d ++ a ++ b ++ v0 ++ 2#5)
  | .mulh d a b v0 => some (65#7 ++ d ++ a ++ b ++ v0 ++ 3#5)
  | .mulhn d a b v0 => some (65#7 ++ d ++ a ++ b ++ v0 ++ 4#5)
  | .div d a b v0 => some (65#7 ++ d ++ a ++ b ++ v0 ++ 5#5)
  | .divn d a b v0 => some (65#7 ++ d ++ a ++ b ++ v0 ++ 6#5)
  | .rem d a b v0 => some (65#7 ++ d ++ a ++ b ++ v0 ++ 7#5)
  | .remn d a b v0 => some (65#7 ++ d ++ a ++ b ++ v0 ++ 8#5)
  | .and d a b v0 => some (65#7 ++ d ++ a ++ b ++ v0 ++ 9#5)
  | .or d a b v0 => some (65#7 ++ d ++ a ++ b ++ v0 ++ 10#5)
  | .xor d a b v0 => some (65#7 ++ d ++ a ++ b ++ v0 ++ 11#5)
  | .shl d a b v0 => some (65#7 ++ d ++ a ++ b ++ v0 ++ 12#5)
  | .shr d a b v0 => some (65#7 ++ d ++ a ++ b ++ v0 ++ 13#5)
  | .sra d a b v0 => some (65#7 ++ d ++ a ++ b ++ v0 ++ 14#5)
  | .rotr d a b v0 => some (65#7 ++ d ++ a ++ b ++ v0 ++ 15#5)
  | .min d a b v0 => some (65#7 ++ d ++ a ++ b ++ v0 ++ 16#5)
  | .max d a b v0 => some (65#7 ++ d ++ a ++ b ++ v0 ++ 17#5)
  | .minn d a b v0 => some (65#7 ++ d ++ a ++ b ++ v0 ++ 18#5)
  | .maxn d a b v0 => some (65#7 ++ d ++ a ++ b ++ v0 ++ 19#5)
  | .seq d a b v0 => some (65#7 ++ d ++ a ++ b ++ v0 ++ 20#5)
  | .slt d a b v0 => some (65#7 ++ d ++ a ++ b ++ v0 ++ 21#5)
  | .sltn d a b v0 => some (65#7 ++ d ++ a ++ b ++ v0 ++ 22#5)
  | .sel d a b c => some (65#7 ++ d ++ a ++ b ++ c ++ 23#5)
  | .adds d a b v0 => some (65#7 ++ d ++ a ++ b ++ v0 ++ 24#5)
  | .neg d a v0 => some (66#7 ++ d ++ a ++ v0 ++ 0#5)
  | .clz d a v0 => some (66#7 ++ d ++ a ++ v0 ++ 1#5)
  | .ctz d a v0 => some (66#7 ++ d ++ a ++ v0 ++ 2#5)
  | .popc d a v0 => some (66#7 ++ d ++ a ++ v0 ++ 3#5)
  | .mov d a v0 => some (66#7 ++ d ++ a ++ v0 ++ 4#5)
  | .sext d a z v0 => some (66#7 ++ d ++ a ++ z ++ v0 ++ 5#5)
  | .zext d a z v0 => some (66#7 ++ d ++ a ++ z ++ v0 ++ 6#5)
  | .addi d a i => some (67#7 ++ d ++ a ++ 0#3 ++ i)
  | .andi d a i => some (67#7 ++ d ++ a ++ 1#3 ++ i)
  | .ori d a i => some (67#7 ++ d ++ a ++ 2#3 ++ i)
  | .xori d a i => some (67#7 ++ d ++ a ++ 3#3 ++ i)
  | .slti d a i => some (67#7 ++ d ++ a ++ 4#3 ++ i)
  | .shli d a n v0 => some (67#7 ++ d ++ a ++ 5#3 ++ v0 ++ n)
  | .shri d a n v0 => some (67#7 ++ d ++ a ++ 6#3 ++ v0 ++ n)
  | .srai d a n v0 => some (67#7 ++ d ++ a ++ 7#3 ++ v0 ++ n)
  | .bfx d a p l => some (68#7 ++ d ++ a ++ 0#3 ++ p ++ l)
  | .bfi d a p l => some (68#7 ++ d ++ a ++ 1#3 ++ p ++ l)
  | .li d i => some (69#7 ++ d ++ i)
  | .lih d i => some (70#7 ++ d ++ i)
  | .beq a b o => some (72#7 ++ a ++ b ++ 0#3 ++ o)
  | .bne a b o => some (72#7 ++ a ++ b ++ 1#3 ++ o)
  | .blt a b o => some (72#7 ++ a ++ b ++ 2#3 ++ o)
  | .bge a b o => some (72#7 ++ a ++ b ++ 3#3 ++ o)
  | .bltn a b o => some (72#7 ++ a ++ b ++ 4#3 ++ o)
  | .bgen a b o => some (72#7 ++ a ++ b ++ 5#3 ++ o)
  | .bz a o v0 => some (72#7 ++ a ++ v0 ++ 6#3 ++ o)
  | .bnz a o v0 => some (72#7 ++ a ++ v0 ++ 7#3 ++ o)
  | .jal d o => some (73#7 ++ d ++ o)
  | .jr d a i => some (74#7 ++ d ++ a ++ 0#3 ++ i)
  | .loop d a i => some (74#7 ++ d ++ a ++ 1#3 ++ i)
  | .halt v0 v1 => some (74#7 ++ v0 ++ 2#3 ++ v1)
  | .fadd d a b v0 => some (76#7 ++ d ++ a ++ b ++ v0 ++ 0#5)
  | .fsub d a b v0 => some (76#7 ++ d ++ a ++ b ++ v0 ++ 1#5)
  | .fmul d a b v0 => some (76#7 ++ d ++ a ++ b ++ v0 ++ 2#5)
  | .ffma d a b c => some (76#7 ++ d ++ a ++ b ++ c ++ 3#5)
  | .fdiv d a b v0 => some (76#7 ++ d ++ a ++ b ++ v0 ++ 4#5)
  | .fsqrt d a v0 => some (76#7 ++ d ++ a ++ v0 ++ 5#5)
  | .fmin d a b v0 => some (76#7 ++ d ++ a ++ b ++ v0 ++ 6#5)
  | .fmax d a b v0 => some (76#7 ++ d ++ a ++ b ++ v0 ++ 7#5)
  | .feq d a b v0 => some (76#7 ++ d ++ a ++ b ++ v0 ++ 8#5)
  | .flt d a b v0 => some (76#7 ++ d ++ a ++ b ++ v0 ++ 9#5)
  | .fle d a b v0 => some (76#7 ++ d ++ a ++ b ++ v0 ++ 10#5)
  | .fclass d a v0 => some (76#7 ++ d ++ a ++ v0 ++ 11#5)
  | .fmv d a v0 => some (76#7 ++ d ++ a ++ v0 ++ 12#5)
  | .fcvt d a s t v0 => some (77#7 ++ d ++ a ++ 0#3 ++ v0 ++ s ++ t)
  | .ld t a z o => some (80#7 ++ t ++ a ++ z ++ 0#1 ++ o)
  | .ldn t a z o => some (80#7 ++ t ++ a ++ z ++ 1#1 ++ o)
  | .st t a z o => some (81#7 ++ t ++ a ++ z ++ 0#1 ++ o)
  | .pref w a o v0 v1 => some (81#7 ++ v0 ++ w ++ a ++ v1 ++ 1#1 ++ o)
  | .lda t a z o => some (82#7 ++ t ++ a ++ z ++ 0#1 ++ o)
  | .stl t a z o => some (82#7 ++ t ++ a ++ z ++ 1#1 ++ o)
  | .amo d a b z o v0 => some (83#7 ++ d ++ a ++ b ++ v0 ++ z ++ o)
  | .cas d a b z v0 => some (83#7 ++ d ++ a ++ b ++ v0 ++ z ++ 9#5)
  | .lds t a z o => some (84#7 ++ t ++ a ++ z ++ 0#1 ++ o)
  | .sts t a z o => some (84#7 ++ t ++ a ++ z ++ 1#1 ++ o)
  | .amos d a b z o v0 => some (85#7 ++ d ++ a ++ b ++ v0 ++ z ++ o)
  | .tsb d a b v0 => some (85#7 ++ d ++ a ++ b ++ v0 ++ 9#5)
  | .tcb d a b v0 => some (85#7 ++ d ++ a ++ b ++ v0 ++ 10#5)
  | .fence k s v0 => some (85#7 ++ v0 ++ k ++ s ++ 11#5)
  | .ownDecl d a b v0 => some (85#7 ++ d ++ a ++ b ++ v0 ++ 12#7)
  | .ownGive d a b v0 => some (85#7 ++ d ++ a ++ b ++ v0 ++ 44#7)
  | .ownTake d a v0 => some (85#7 ++ d ++ a ++ v0 ++ 76#7)
  | .ownDrop d a v0 => some (85#7 ++ d ++ a ++ v0 ++ 108#7)
  | .vadd d a b q t => some (86#7 ++ d ++ a ++ b ++ q ++ t ++ 0#5)
  | .vsub d a b q t => some (86#7 ++ d ++ a ++ b ++ q ++ t ++ 1#5)
  | .vmul d a b q t => some (86#7 ++ d ++ a ++ b ++ q ++ t ++ 2#5)
  | .vfma d a b q t => some (86#7 ++ d ++ a ++ b ++ q ++ t ++ 3#5)
  | .vmin d a b q t => some (86#7 ++ d ++ a ++ b ++ q ++ t ++ 4#5)
  | .vmax d a b q t => some (86#7 ++ d ++ a ++ b ++ q ++ t ++ 5#5)
  | .vabs d a q t v0 => some (86#7 ++ d ++ a ++ v0 ++ q ++ t ++ 6#5)
  | .vneg d a q t v0 => some (86#7 ++ d ++ a ++ v0 ++ q ++ t ++ 7#5)
  | .vand d a b t v0 => some (86#7 ++ d ++ a ++ b ++ v0 ++ t ++ 8#5)
  | .vor d a b t v0 => some (86#7 ++ d ++ a ++ b ++ v0 ++ t ++ 9#5)
  | .vxor d a b t v0 => some (86#7 ++ d ++ a ++ b ++ v0 ++ t ++ 10#5)
  | .vshl d a b t v0 => some (86#7 ++ d ++ a ++ b ++ v0 ++ t ++ 11#5)
  | .vshr d a b t v0 => some (86#7 ++ d ++ a ++ b ++ v0 ++ t ++ 12#5)
  | .vsra d a b t v0 => some (86#7 ++ d ++ a ++ b ++ v0 ++ t ++ 13#5)
  | .vsel d a b t v0 => some (86#7 ++ d ++ a ++ b ++ v0 ++ t ++ 14#5)
  | .vred d a q t v0 => some (86#7 ++ d ++ a ++ v0 ++ q ++ t ++ 15#5)
  | .vrcp d a t v0 => some (86#7 ++ d ++ a ++ v0 ++ t ++ 16#5)
  | .vrsq d a t v0 => some (86#7 ++ d ++ a ++ v0 ++ t ++ 17#5)
  | .vexp2 d a t v0 => some (86#7 ++ d ++ a ++ v0 ++ t ++ 18#5)
  | .vlog2 d a t v0 => some (86#7 ++ d ++ a ++ v0 ++ t ++ 19#5)
  | .vcmp d a b q t r => some (86#7 ++ d ++ a ++ b ++ q ++ t ++ 3#2 ++ r)
  | .vcvt d a e t v0 v1 => some (87#7 ++ d ++ a ++ v0 ++ e ++ v1 ++ t ++ 0#5)
  | .vpack d a b t v0 => some (87#7 ++ d ++ a ++ b ++ v0 ++ t ++ 1#5)
  | .vunpk d a b t v0 => some (87#7 ++ d ++ a ++ b ++ v0 ++ t ++ 2#5)
  | .vperm d a b t v0 => some (87#7 ++ d ++ a ++ b ++ v0 ++ t ++ 3#5)
  | .vbcst d a b t v0 => some (87#7 ++ d ++ a ++ b ++ v0 ++ t ++ 4#5)
  | .vlen d a t v0 => some (87#7 ++ d ++ a ++ v0 ++ t ++ 5#5)
  | .vcat d a b t v0 => some (87#7 ++ d ++ a ++ b ++ v0 ++ t ++ 6#5)
  | .vspl d a t v0 => some (87#7 ++ d ++ a ++ v0 ++ t ++ 7#5)
  | .vidx d t v0 => some (87#7 ++ d ++ v0 ++ t ++ 8#5)
  | .send s r m l o => some (96#7 ++ s ++ r ++ m ++ l ++ o ++ 0#3)
  | .sende r m o v0 v1 => some (96#7 ++ v0 ++ r ++ m ++ v1 ++ o ++ 1#3)
  | .sendr s r m o v0 => some (96#7 ++ s ++ r ++ m ++ v0 ++ o ++ 2#3)
  | .sendm s r m o v0 => some (96#7 ++ s ++ r ++ m ++ v0 ++ o ++ 3#3)
  | .sendo r m o v0 v1 => some (96#7 ++ v0 ++ r ++ m ++ v1 ++ o ++ 4#3)
  | .hdr d a b v0 => some (97#7 ++ d ++ a ++ b ++ v0 ++ 0#5)
  | .tagx d a b v0 => some (97#7 ++ d ++ a ++ b ++ v0 ++ 1#5)
  | .falloc d v0 => some (97#7 ++ d ++ v0 ++ 2#5)
  | .ffree a v0 v1 => some (97#7 ++ v0 ++ a ++ v1 ++ 3#5)
  | .fsto n a b s v0 v1 => some (97#7 ++ v0 ++ n ++ a ++ b ++ v1 ++ s ++ 4#5)
  | .fldo d a s v0 => some (97#7 ++ d ++ a ++ v0 ++ s ++ 5#5)
  | .inj a b v0 v1 => some (98#7 ++ v0 ++ a ++ b ++ v1 ++ 0#5)
  | .sld d r v0 => some (100#7 ++ d ++ v0 ++ r ++ 0#4)
  | .sst d r v0 => some (100#7 ++ d ++ v0 ++ r ++ 1#4)
  | .sbind d r v0 => some (100#7 ++ d ++ v0 ++ r ++ 2#4)
  | .sunb d v0 => some (100#7 ++ d ++ v0 ++ 3#4)
  | .sadd d a r => some (100#7 ++ d ++ a ++ r ++ 4#4)
  | .smax d a r => some (100#7 ++ d ++ a ++ r ++ 5#4)
  | .smin d a r => some (100#7 ++ d ++ a ++ r ++ 6#4)
  | .smulv d a r => some (100#7 ++ d ++ a ++ r ++ 7#4)
  | .snorm d a v0 => some (100#7 ++ d ++ a ++ v0 ++ 8#4)
  | .scpy d a v0 => some (100#7 ++ d ++ a ++ v0 ++ 9#4)
  | .sgen d r v0 => some (100#7 ++ d ++ v0 ++ r ++ 10#4)
  | .szero d v0 => some (100#7 ++ d ++ v0 ++ 11#4)
  | .tfetch d a b n => some (104#7 ++ d ++ a ++ b ++ n ++ 0#2)
  | .trel a v0 v1 => some (104#7 ++ v0 ++ a ++ v1 ++ 1#2)
  | .mma a b c v0 => some (105#7 ++ v0 ++ a ++ b ++ c ++ 0#5)
  | .mmai a b c v0 => some (105#7 ++ v0 ++ a ++ b ++ c ++ 1#5)
  | .macc a b v0 v1 => some (105#7 ++ v0 ++ a ++ b ++ v1 ++ 2#5)
  | .mzero a v0 v1 => some (105#7 ++ v0 ++ a ++ v1 ++ 3#5)
  | .meor a b v0 v1 => some (105#7 ++ v0 ++ a ++ b ++ v1 ++ 4#5)
  | .mrd d a b v0 => some (105#7 ++ d ++ a ++ b ++ v0 ++ 5#5)
  | .opw a b v0 v1 => some (108#7 ++ v0 ++ a ++ b ++ v1 ++ 0#5)
  | .opr d a v0 => some (108#7 ++ d ++ a ++ v0 ++ 1#5)
  | .opsnap d a b v0 => some (108#7 ++ d ++ a ++ b ++ v0 ++ 2#5)
  | .cpy a b t v0 => some (109#7 ++ v0 ++ a ++ b ++ t ++ 0#2)
  | .cpyb d a b v0 => some (109#7 ++ d ++ a ++ b ++ v0 ++ 1#2)
  | .ctarm d a b q => some (109#7 ++ d ++ a ++ b ++ q ++ 2#2)
  | .ctdis d q v0 => some (109#7 ++ d ++ v0 ++ q ++ 3#2)
  | .strmi d a t v0 => some (110#7 ++ d ++ a ++ v0 ++ t ++ 0#2)
  | .strmo a b t v0 => some (110#7 ++ v0 ++ a ++ b ++ t ++ 1#2)
  | .strms a t v0 v1 => some (110#7 ++ v0 ++ a ++ v1 ++ t ++ 2#2)
  | .strmb t v0 => some (110#7 ++ v0 ++ t ++ 3#2)
  | .cwany d a v0 => some (111#7 ++ d ++ a ++ v0 ++ 0#5)
  | .cwall a v0 v1 => some (111#7 ++ v0 ++ a ++ v1 ++ 1#5)
  | .cffr d a v0 => some (111#7 ++ d ++ a ++ v0 ++ 2#5)
  | .qpush d a b t v0 => some (112#7 ++ d ++ a ++ b ++ v0 ++ t ++ 0#5)
  | .qpop d a b t v0 => some (112#7 ++ d ++ a ++ b ++ v0 ++ t ++ 1#5)
  | .cont d a b v0 => some (112#7 ++ d ++ a ++ b ++ v0 ++ 2#5)
  | .join d a v0 => some (112#7 ++ d ++ a ++ v0 ++ 3#5)
  | .steal d a b c => some (112#7 ++ d ++ a ++ b ++ c ++ 4#5)
  | .qstat d a v0 => some (112#7 ++ d ++ a ++ v0 ++ 5#5)
  | .binit a b v0 v1 => some (114#7 ++ v0 ++ a ++ b ++ v1 ++ 0#5)
  | .barr d a b v0 => some (114#7 ++ d ++ a ++ b ++ v0 ++ 1#5)
  | .barrx d a b c => some (114#7 ++ d ++ a ++ b ++ c ++ 2#5)
  | .bwait d a b c => some (114#7 ++ d ++ a ++ b ++ c ++ 3#5)
  | .bwaitp d a b c => some (114#7 ++ d ++ a ++ b ++ c ++ 4#5)
  | .btest d a b v0 => some (114#7 ++ d ++ a ++ b ++ v0 ++ 5#5)
  | .bsec a b v0 v1 => some (114#7 ++ v0 ++ a ++ b ++ v1 ++ 6#5)
  | .preq d a v0 => some (116#7 ++ d ++ a ++ v0 ++ 0#5)
  | .ppin d a v0 => some (116#7 ++ d ++ a ++ v0 ++ 1#5)
  | .punp d a v0 => some (116#7 ++ d ++ a ++ v0 ++ 2#5)
  | .pevt d a v0 => some (116#7 ++ d ++ a ++ v0 ++ 3#5)
  | .step d a b v0 => some (116#7 ++ d ++ a ++ b ++ v0 ++ 4#5)
  | .frz d a v0 => some (116#7 ++ d ++ a ++ v0 ++ 5#5)
  | .thaw d a v0 => some (116#7 ++ d ++ a ++ v0 ++ 6#5)
  | .snap d a b v0 => some (116#7 ++ d ++ a ++ b ++ v0 ++ 7#5)
  | .cfgw a b v0 v1 => some (116#7 ++ v0 ++ a ++ b ++ v1 ++ 8#5)
  | .cfgc d a v0 => some (116#7 ++ d ++ a ++ v0 ++ 9#5)
  | .cfgk d a v0 => some (116#7 ++ d ++ a ++ v0 ++ 10#5)
  | .cfga d a v0 => some (116#7 ++ d ++ a ++ v0 ++ 11#5)
  | .place d a b v0 => some (116#7 ++ d ++ a ++ b ++ v0 ++ 12#5)
  | .srd d r v0 => some (120#7 ++ d ++ v0 ++ r ++ 0#3)
  | .swr a r v0 => some (120#7 ++ v0 ++ a ++ r ++ 1#3)
  | .trap c v0 => some (121#7 ++ v0 ++ 0#3 ++ c)
  | .eret v0 v1 => some (121#7 ++ v0 ++ 1#3 ++ v1)
  | .wfe v0 v1 => some (121#7 ++ v0 ++ 2#3 ++ v1)
  | .sev v0 v1 => some (121#7 ++ v0 ++ 3#3 ++ v1)
  | .brk c v0 => some (121#7 ++ v0 ++ 4#3 ++ c)
  | .cyc d v0 v1 => some (121#7 ++ d ++ v0 ++ 5#3 ++ v1)
  | .tlbi a s g p v0 v1 => some (121#7 ++ v0 ++ a ++ 6#3 ++ v1 ++ s ++ g ++ p)
  | .sigv a t v0 v1 => some (121#7 ++ v0 ++ a ++ 7#3 ++ v1 ++ t)
  | .connStatus d a b v0 => some (122#7 ++ d ++ a ++ b ++ v0 ++ 0#5)
  | .connOpen d a b v0 => some (122#7 ++ d ++ a ++ b ++ v0 ++ 0#5)
  | .connClose d a b v0 => some (122#7 ++ d ++ a ++ b ++ v0 ++ 0#5)
  | .connReset d a b v0 => some (122#7 ++ d ++ a ++ b ++ v0 ++ 0#5)
  | .ctxs d a v0 => some (122#7 ++ d ++ a ++ v0 ++ 1#5)
  | .ctxl d a v0 => some (122#7 ++ d ++ a ++ v0 ++ 2#5)
  | .hint h => some (124#7 ++ h)
  | _ => none

/-- The halfword of a 16-bit instruction (R89, R90). -/
def encode16 : Instr → Option (BitVec 16)
  | .nop => some (28672#16)
  | .hintShort h => some (14#5 ++ h)
  | .ext p => some (15#5 ++ p)
  | .liShort d i => some (2#6 ++ d ++ i)
  | .movShort d a v0 => some (3#6 ++ d ++ v0 ++ a)
  | .addShort d a b => some (2#5 ++ d ++ a ++ b ++ 0#2)
  | .subShort d a b => some (2#5 ++ d ++ a ++ b ++ 1#2)
  | .addiShortPos d a k => some (2#5 ++ d ++ a ++ k ++ 2#2)
  | .addiShortNeg d a k => some (2#5 ++ d ++ a ++ k ++ 3#2)
  | .vaddF32Short d a b => some (3#5 ++ d ++ a ++ b ++ 0#2)
  | .vmulF32Short d a b => some (3#5 ++ d ++ a ++ b ++ 1#2)
  | .vfmaF32Short d a b => some (3#5 ++ d ++ a ++ b ++ 2#2)
  | .vaddI32Short d a b => some (3#5 ++ d ++ a ++ b ++ 3#2)
  | .sendShort s n o => some (8#6 ++ s ++ n ++ o)
  | .sendIncShort s n o => some (9#6 ++ s ++ n ++ o)
  | .ldsShort t a o => some (10#6 ++ t ++ a ++ o)
  | .stsShort t a o => some (11#6 ++ t ++ a ++ o)
  | .bzShort a o => some (12#6 ++ a ++ o)
  | .bnzShort a o => some (13#6 ++ a ++ o)
  | .seqShort d a b => some (7#5 ++ d ++ a ++ b ++ 0#2)
  | .sltShort d a b => some (7#5 ++ d ++ a ++ b ++ 1#2)
  | .sltnShort d a b => some (7#5 ++ d ++ a ++ b ++ 2#2)
  | .selShort d a b => some (7#5 ++ d ++ a ++ b ++ 3#2)
  | _ => none

/-- The halfwords of a word in memory order: bits [31:16] first (R79). -/
def halvesOf (w : Word32) : List (BitVec 16) := [w.extractLsb' 16 16, w.extractLsb' 0 16]

/-- The halfwords of an instruction in memory order; empty for a step that has no encoding. The STOP forms of STRMI and
STRMS are the unit of an EXT with P = 1 and the instruction (R253). -/
def encode (i : Instr) : List (BitVec 16) :=
  match i with
  | .strmiStop d a t v0 =>
    match encode32 (.strmi d a t v0) with
    | some w => 0x7801#16 :: halvesOf w
    | none => []
  | .strmsStop a t v0 v1 =>
    match encode32 (.strms a t v0 v1) with
    | some w => 0x7801#16 :: halvesOf w
    | none => []
  | _ =>
    match encode16 i, encode32 i with
    | some h, _ => [h]
    | none, some w => halvesOf w
    | none, none => []

/-- Whether the first halfword begins a 32-bit instruction (R78). -/
def isWide (h : BitVec 16) : Bool := h.getLsbD 15

/-- The instruction that begins with halfword `h0` and, if it is a 32-bit one, goes on with `h1` (R78, R79). -/
def decode (h0 h1 : BitVec 16) : Instr :=
  if isWide h0 then decode32 (h0 ++ h1) else decode16 h0

/-- The length in bytes of the instruction that begins with `h0` (R78). -/
def unitBytes (h0 : BitVec 16) : Nat := if isWide h0 then 4 else 2

/-- Decoding halfwords in memory order: the instruction and the halfwords after it. -/
def decodeHalves : List (BitVec 16) → Option (Instr × List (BitVec 16))
  | [] => none
  | h0 :: r =>
    if isWide h0 then
      match r with
      | [] => none
      | h1 :: r' => some (decode32 (h0 ++ h1), r')
    else some (decode16 h0, r)

/-- A halfword from its two bytes, low byte first (R10). -/
def halfOfBytes (b0 b1 : Byte) : BitVec 16 := b1 ++ b0

/-- Decoding bytes at ascending addresses: the instruction and the bytes after it. -/
def decodeBytes : List Byte → Option (Instr × List Byte)
  | b0 :: b1 :: r =>
    if isWide (halfOfBytes b0 b1) then
      match r with
      | b2 :: b3 :: r' => some (decode32 (halfOfBytes b0 b1 ++ halfOfBytes b2 b3), r')
      | _ => none
    else some (decode16 (halfOfBytes b0 b1), r)
  | _ => none

/-- The bytes of a table word as the hardware stores it: for 32 bits W[23:16], W[31:24], W[7:0], W[15:8] (R79), for 16
bits the halfword and a halfword of zeros. -/
def tableBytes (nbits w : Nat) : List Byte :=
  if nbits ≤ 16 then
    [BitVec.ofNat 8 w, BitVec.ofNat 8 (w / 256), 0, 0]
  else
    [BitVec.ofNat 8 (w / 2 ^ 16), BitVec.ofNat 8 (w / 2 ^ 24), BitVec.ofNat 8 w, BitVec.ofNat 8 (w / 256)]

/-- The instruction the decoder reads from the word `w` of a row of the opcode table. -/
def decodeTableWord (nbits w : Nat) : Option Instr :=
  (decodeBytes (tableBytes nbits w)).map (·.1)

end Sys2Proof
end

