-- ==== Sys2Proof/Machine/Fetch.lean ====
section
/-! DEFINITION. The fetch of a unit on a control core and in a cell (R78, R94, R95, R124, R153), EXT (R91 to R93), and
the choice of the instruction among rows that share a word (R253, R409). -/

namespace Sys2Proof.Machine

/-! ### Fetch on a control core -/

/-- The bytes that a fetch reads by kind: the home of a COH line, or the isle's view of a LOC line (R177, R219). -/
def fetchBytes (s : State) (k : Nat) (l : Loc) (n : Nat) : List Byte :=
  if l.kind = 1 then ((locLine s k (lineOf l.key)).drop (l.key % 64)).take n else Memory.readN s.mem l.key n

/-- A halfword that the core has stored since its last FENCE.ACQREL is the old or the new one (R95). -/
def fetchChoice (s : State) (k : Nat) (key : Nat) (l : List Byte) : List Byte × State :=
  let old := fun i => (s.core k).unfenced.find? (fun e => e.1 == key + i)
  if (old 0).isNone ∧ (old 1).isNone then (l, s)
  else
    let s1 := { s with free := s.free + 1 }
    if Config.fetchesOld s.free then
      ((List.range 2).map (fun i => ((old i).map (·.2)).getD (l.getD i 0)), s1)
    else (l, s1)

/-- The halfword at `va` as core `k` fetches it (R94 step 1, R189). -/
def fetchHalf (s : State) (k : Nat) (va : Word64) : Except (Cause × Word64) (BitVec 16 × State) :=
  match translate s (coreReq s k .fetch) va .fetch with
  | .error e => .error e
  | .ok (l, s1) =>
    match readFault s1 l.key 2 with
    | some c => .error (c, va)
    | none =>
      let (b, s2) := fetchChoice s1 k l.key (fetchBytes s1 k l 2)
      .ok (halfOfBytes (b.getD 0 0) (b.getD 1 0), s2)

/-- MCSTAT takes a MACHINE_CHECK report: level 0 job, 1 isle, 2 die (R432, R436). -/
def reportCheck (s : State) (level die isle : Nat) : State :=
  { s with mgmt := { s.mgmt with
      mcount := if s.mgmt.mcount = BitVec.allOnes 32 then s.mgmt.mcount else s.mgmt.mcount + 1,
      mlevel := BitVec.ofNat 3 level, mdie := BitVec.ofNat 3 die, misle := BitVec.ofNat 4 isle } }

/-- The core stops and its isle is fenced, as a fault at a Machine trap target does (R124). -/
def stopCore (s : State) (k : Nat) : State :=
  let s1 := s.updCore k (fun c => { c with stopped := true, pfx := none })
  reportCheck (fenceIsle s1 k (causeCode .machineCheck)) 1 (isleDie k) (k % 16)

/-- A fetch that faults at `va`: the fetch cause precisely, or DOUBLE_FAULT at a Supervisor trap target (R94, R124). -/
def fetchFault (s : State) (k : Nat) (c : Cause) (va : Word64) : State :=
  let cr := s.core k
  if cr.atVector then
    match cr.mode with
    | .machine => stopCore s k
    | _ => s.updCore k (fun cr => trapEntry cr .doubleFault cr.unitStart va false cr.pfx.isSome)
  else raiseCore s k c va

/-- What the next unit of a core is: an instruction and the state that its fetch leaves, or a fetch cause with the
halfword's address. -/
def fetchCore (s : State) (k : Nat) : Except (Cause × Word64) (Instr × State) :=
  match fetchHalf s k (s.core k).pc with
  | .error e => .error e
  | .ok (h0, s1) =>
    if isWide h0 then
      match fetchHalf s1 k ((s.core k).pc + 2) with
      | .error e => .error e
      | .ok (h1, s2) => .ok (decode h0 h1, s2)
    else .ok (decode h0 0, s1)

/-- What the next unit of cell `t` is; none where the routine ends within it (R153). -/
def fetchCell (s : State) (t : Nat) : Option Instr :=
  let k := s.task t
  let h0 := (s.tile t).store.get 0 k.pc
  if isWide h0 then
    if k.start + k.size ≤ k.pc + 1 then none else some (decode h0 ((s.tile t).store.get 0 (k.pc + 1)))
  else some (decode h0 0)

/-- A core that is not held, stopped or on a fenced die runs (R431, R436). -/
def coreRuns (s : State) (k : Nat) : Bool :=
  s.present (isleDie k) && !s.inReset k && !(s.core k).stopped && !(s.die (isleDie k)).fenced

/-- A cell with a task that no queue step holds runs (R325, R431). -/
def cellRuns (s : State) (t : Nat) : Bool :=
  s.present (tileDie t) && !(s.die (tileDie t)).fenced && (s.cell t).task.isSome && (s.task t).held.isNone

/-- The active runner has a prefix latched: its unit is not over (R93). -/
def midUnit (s : State) : Bool :=
  match s.active with
  | .core k => (s.core k).pfx.isSome && coreRuns s k
  | .cell t => cellRuns s t && (s.task t).pfx.isSome

/-! ### EXT (R91 to R93) -/

/-- EXT on a core: the payload is latched; an EXT after an EXT is an orphan (R92). -/
def extCore (p : BitVec 11) (k : Nat) (s : State) : State :=
  if (s.core k).pfx.isSome then raiseCore s k .prefixOrphan 0
  else s.updCore k (fun c => { c with pc := c.pc + 2, pfx := some p })

/-- EXT in a cell: the unit limit comes first; the last halfword of the routine is no place for it (R92, R153, R154). -/
def extCell (p : BitVec 11) (t : Nat) (s : State) : State :=
  match (s.cell t).task with
  | none => s
  | some k =>
    if k.pfx.isNone && decide (128 ≤ k.units) then abortTask s t .routineOverrun 0
    else
      let s1 := s.updTask t (fun k => { k with pc := k.pc + 1, pfx := some p })
      if k.pfx.isSome then abortTask s t .prefixOrphan 0
      else if k.start + k.size ≤ k.pc + 1 then abortTask s1 t .prefixOrphan 0
      else s1

/-- EXT latches its payload for the instruction after it (R91, R93). -/
def execExt (p : BitVec 11) (s : State) : Host.Outcome State Fault Refusal :=
  .next (match s.active with | .core k => extCore p k s | .cell t => extCell p t s)

/-! ### Illegal encodings and hints (R81, R97 to R100) -/

/-- A unit that is no instruction raises ILLEGAL_ENC and has no other effect (R99). -/
def illegalUnit (s : State) : State :=
  match s.active with
  | .core k => raiseCore s k .illegalEnc 0
  | .cell t =>
    match (s.cell t).task with
    | none => s
    | some x =>
      if x.pfx.isNone && decide (128 ≤ x.units) then abortTask s t .routineOverrun 0
      else abortTask s t .illegalEnc 0

/-- An encoding that is not an instruction (R81, R97, R98). -/
def execIllegalEncoding (s : State) : Host.Outcome State Fault Refusal := .next (illegalUnit s)

/-- A hint of `len` bytes: a NOP in both classes, also after an EXT (R92, R100). -/
def hintUnit (len : Nat) (s : State) : State :=
  unitCL len true ⟨.user, true, true, fun _ s => fall s⟩ ⟨false, true, true, true, 1, fun _ s => fall s⟩ s

/-- HINT: bits [24:0] are never checked (R100). -/
def execHint (_ : BitVec 25) (s : State) : Host.Outcome State Fault Refusal := .next (hintUnit 4 s)

/-- NOP, the halfword 0x7000 (R90, R100). -/
def execNop (s : State) : Host.Outcome State Fault Refusal := .next (hintUnit 2 s)

/-- A 16-bit hint (R90, R100). -/
def execHintShort (_ : BitVec 11) (s : State) : Host.Outcome State Fault Refusal := .next (hintUnit 2 s)

/-! ### The instruction of a unit -/

/-- The row that a decoded word stands for: CONN by the operation in ra (R409), STRMI and STRMS by the payload of
their prefix (R253). -/
def refine (s : State) (i : Instr) : Instr :=
  match s.active, i with
  | .core k, .connStatus d a b v0 =>
    match bits (gGet s k a) 1 0 with
    | 0 => .connStatus d a b v0
    | 1 => .connOpen d a b v0
    | 2 => .connClose d a b v0
    | _ => .connReset d a b v0
  | .core k, .strmi d a t v0 => if (s.core k).pfx = some 1 then .strmiStop d a t v0 else i
  | .core k, .strms a t v0 v1 => if (s.core k).pfx = some 1 then .strmsStop a t v0 v1 else i
  | _, _ => i

end Sys2Proof.Machine
end

