-- ==== Sys2Proof/Machine/Clock.lean ====
section
/-! DEFINITION. The time that passes in one step (R16, R114, R388, R439). -/

namespace Sys2Proof.Machine

/-- An agent 64 of whose loads have hit since its time last advanced by hits adds 1 to it (R213, log entry 79). -/
def hitTimes (s : State) : State :=
  (s.hits.filter (fun e => decide (64 ≤ e.2))).foldl (fun s e => advanceHits s e.1) s

/-- The cycles of one step pass on every C-die, stretched ones where its clock is (R16, R114, R439; log entry 4); agents
that hit advance (R213), and the stall timers of R388 count. -/
def tick (s : State) : State :=
  let one := fun (s : State) (d : Nat) =>
    s.updDie d (fun v =>
      let dt := (Config.elapsed (4 * s.free + d)).zeroExtend 64
      { v with cyc := v.cyc + dt, sfreq := if v.supply.stretched then v.sfreq + dt else v.sfreq })
  let s' := hitTimes (one (one (one (one s 0) 1) 2) 3)
  let dt := (Config.micros s.free).toNat
  { s' with free := s.free + 1, micros := s.micros + dt, stalls := stallTimers s dt }

/-- A unit one of whose accesses waits at a strait (R412): the runner stays at the unit's first halfword. -/
def stallUnit (s : State) : State :=
  match s.active with
  | .core k => s.updCore k (fun c => { c with pc := c.unitStart, pfx := none })
  | .cell t => s.updTask t (fun k => { k with pc := k.unitStart, pfx := none })

/-- What a step from `s` answers: with an access that waits at a strait, the step has not been performed yet (R412). -/
def unlessHeld (s : State) (r : Host.Outcome State Fault Refusal) : Host.Outcome State Fault Refusal :=
  match r with
  | .next s' => if s'.held then .next (if midUnit s then stallUnit s else s) else .next s'
  | .fault f => .fault f
  | .refused f => .refused f

end Sys2Proof.Machine
end

