-- ==== Sys2Proof/Machine/Branch.lean ====
section
/-! DEFINITION. Branches, jumps, hardware loops and HALT (R132 to R137). -/

namespace Sys2Proof.Machine

/-! ### Shared operations -/

/-- The target of an offset in halfwords from the branch word of core `k` (R86, R132). -/
def coreTarget (s : State) (k : Nat) (off : Int) : Nat := ((s.core k).pc + word64 (2 * off)).toNat

/-- The outcome of a branch on a core. -/
def branchCore (s : State) (k : Nat) (off : Int) (taken : Bool) : Done :=
  .ok (s, if taken then some (coreTarget s k off) else none)

/-- The outcome of a branch in a cell: the target is a routine offset (R132, R153). -/
def branchCell (s : State) (t : Nat) (off : Int) (taken : Bool) : Done :=
  .ok (s, if taken then some (((s.task t).pc : Int) + off).toNat else none)

/-- The cycles of a branch: 2 if taken, else 1 (R155). -/
def branchCost (c : Except Stop Bool) : Nat :=
  match c with
  | .ok true => 2
  | _ => 1

/-- The condition of a branch on two scalars in class L. -/
def condL (s : State) (t : Nat) (a b : BitVec 5) (f : Word64 → Word64 → Bool) : Except Stop Bool := do
  let x ← sGetL s t a
  let y ← sGetL s t b
  return f x y

/-- A branch that compares two scalars; in class L only forward (R101, R132). -/
def branch2 (a b : BitVec 5) (o : BitVec 12) (f : Word64 → Word64 → Bool) (s : State) : State :=
  let off := extImm (payload s s.active) o
  unitCL 4 true
    ⟨.user, true, true, fun k s => branchCore s k off (f (gGet s k a) (gGet s k b))⟩
    ⟨false, decide (0 < off), srcL a && srcL b, true,
      (match s.active with | .cell t => branchCost (condL s t a b f) | .core _ => 1), fun t s => do
        let c ← condL s t a b f
        branchCell s t off c⟩ s

/-- A branch that compares one scalar with zero. `ra` names a g register and `rt` a temporary or input. -/
def branch1 (len : Nat) (ext : Bool) (ra rt : BitVec 5) (off : Int) (rsv : Bool) (f : Word64 → Bool) (s : State) :
    State :=
  unitCL len ext
    ⟨.user, rsv, true, fun k s => branchCore s k off (f (gGet s k ra))⟩
    ⟨false, decide (0 < off), rsv && srcL rt, true,
      (match s.active with | .cell t => branchCost ((sGetL s t rt).map f) | .core _ => 1), fun t s => do
        let x ← sGetL s t rt
        branchCell s t off (f x)⟩ s

/-- The core with a loop level opened: S, E and the counter register (R134, R135). -/
def openLevel (cr : Core) (d : BitVec 5) (bodyStart bodyEnd : Word64) : Core :=
  let lend : Word64 := BitVec.ofNat 64
    (2 ^ 63 + d.toNat * 2 ^ 58 + bits cr.status 3 2 * 2 ^ 56 + bits bodyEnd 56 1)
  let lbeg : Word64 := BitVec.ofNat 64 (bits bodyStart 56 1)
  if bit cr.lend0 63 then { cr with lbeg1 := lbeg, lend1 := lend } else { cr with lbeg0 := lbeg, lend0 := lend }

/-! ### Major 0x08 (R132) -/

/-- BEQ: a = b (R132). -/
def execBeq (a : BitVec 5) (b : BitVec 5) (o : BitVec 12) (s : State) : Host.Outcome State Fault Refusal :=
  .next (branch2 a b o (fun x y => x == y) s)

/-- BNE: a ≠ b (R132). -/
def execBne (a : BitVec 5) (b : BitVec 5) (o : BitVec 12) (s : State) : Host.Outcome State Fault Refusal :=
  .next (branch2 a b o (fun x y => x != y) s)

/-- BLT: a < b (R132). -/
def execBlt (a : BitVec 5) (b : BitVec 5) (o : BitVec 12) (s : State) : Host.Outcome State Fault Refusal :=
  .next (branch2 a b o (fun x y => x.slt y) s)

/-- BGE: a ≥ b (R132). -/
def execBge (a : BitVec 5) (b : BitVec 5) (o : BitVec 12) (s : State) : Host.Outcome State Fault Refusal :=
  .next (branch2 a b o (fun x y => !x.slt y) s)

/-- BLTN: u(a) < u(b) (R132). -/
def execBltn (a : BitVec 5) (b : BitVec 5) (o : BitVec 12) (s : State) : Host.Outcome State Fault Refusal :=
  .next (branch2 a b o (fun x y => x.ult y) s)

/-- BGEN: u(a) ≥ u(b) (R132). -/
def execBgen (a : BitVec 5) (b : BitVec 5) (o : BitVec 12) (s : State) : Host.Outcome State Fault Refusal :=
  .next (branch2 a b o (fun x y => !x.ult y) s)

/-- BZ: a = 0; RB is reserved (R87, R132). -/
def execBz (a : BitVec 5) (o : BitVec 12) (v0 : BitVec 5) (s : State) : Host.Outcome State Fault Refusal :=
  .next (branch1 4 true a a (extImm (payload s s.active) o) (v0 == 0) (fun x => x == 0) s)

/-- BNZ: a ≠ 0; RB is reserved (R87, R132). -/
def execBnz (a : BitVec 5) (o : BitVec 12) (v0 : BitVec 5) (s : State) : Host.Outcome State Fault Refusal :=
  .next (branch1 4 true a a (extImm (payload s s.active) o) (v0 == 0) (fun x => x != 0) s)

/-- BZ with OFF = sext(IMM7) (R90). -/
def execBzShort (a : BitVec 3) (o : BitVec 7) (s : State) : Host.Outcome State Fault Refusal :=
  .next (branch1 2 false (short5 a) (shortT a) (sextInt o.toNat 7) true (fun x => x == 0) s)

/-- BNZ with OFF = sext(IMM7) (R90). -/
def execBnzShort (a : BitVec 3) (o : BitVec 7) (s : State) : Host.Outcome State Fault Refusal :=
  .next (branch1 2 false (short5 a) (shortT a) (sextInt o.toNat 7) true (fun x => x != 0) s)

/-! ### Jumps (R133) -/

/-- JAL: rd := B + 4 and pc := B + 2 × off (R133). -/
def execJal (d : BitVec 5) (o : BitVec 20) (s : State) : Host.Outcome State Fault Refusal :=
  .next (unitC 4 true ⟨.user, true, true, fun k s =>
    .ok (gSet s k d ((s.core k).pc + 4), some (coreTarget s k (extImm (s.core k).pfx o)))⟩ s)

/-- JR: the target is computed before rd is written; an odd one raises MISALIGN_PC (R78, R133). -/
def execJr (d : BitVec 5) (a : BitVec 5) (i : BitVec 12) (s : State) : Host.Outcome State Fault Refusal :=
  .next (unitC 4 true ⟨.user, true, true, fun k s =>
    let x := gGet s k a + word64 (extImm (s.core k).pfx i)
    if bit x 0 then raise s .misalignPc x
    else .ok (gSet s k d ((s.core k).pc + 4), some x.toNat)⟩ s)

/-! ### Loops and HALT (R134 to R137) -/

/-- LOOP: a count of 0 skips the body; otherwise a level opens (R134). -/
def execLoop (d : BitVec 5) (a : BitVec 5) (i : BitVec 12) (s : State) : Host.Outcome State Fault Refusal :=
  let off := extImm (payload s s.active) i
  .next (unitC 4 true ⟨.user, d != 0 && decide (2 < off), true, fun k s =>
    let cr := s.core k
    let n := gGet s k a
    let e := cr.pc + word64 (2 * off)
    if bit cr.lend1 63 then raise s .illegalEnc cr.pc
    else if n = 0 then .ok (s, some e.toNat)
    else if bit cr.lend0 63 ∧ 2 * bits cr.lend0 55 0 < bits e 56 0 then raise s .illegalEnc cr.pc
    else fall (s.updCore k (fun cr => (openLevel cr d (cr.pc + 4) e).setG d n))⟩ s)

/-- HALT completes and then stops issue (R137). -/
def execHalt (v0 : BitVec 10) (v1 : BitVec 12) (s : State) : Host.Outcome State Fault Refusal :=
  .next (unitC 4 false ⟨.supervisor, v0 == 0 && v1 == 0, true, fun k s =>
    fall (s.updCore k (fun cr => { cr with halted := true }))⟩ s)

end Sys2Proof.Machine
end

