-- ==== Sys2Proof/Machine/Link.lean ====
section
/-! DEFINITION. The connection table and CONN, the events of a circuit, the failure of a circuit and of a die, and the
flits of a strait (R406 to R413, R431). -/

namespace Sys2Proof.Machine

/-! ### Entries (R406, R407) -/

/-- Entry `e` of the connection table. -/
def State.circuit (s : State) (e : Nat) : Circuit := s.circuits.get Circuit.reset e

/-- Entry `e` replaced. -/
def State.setCircuit (s : State) (e : Nat) (c : Circuit) : State := { s with circuits := s.circuits.put e c }

/-- AEP of a specification. -/
def specA (w : Word64) : Nat := bits w 2 0

/-- BEP of a specification. -/
def specB (w : Word64) : Nat := bits w 6 4

/-- CH of a specification. -/
def specCh (w : Word64) : Nat := bits w 22 16

/-- FIB of a specification. -/
def specFib (w : Word64) : Bool := bit w 3

/-- The circuit uses local endpoint `x`: at a fibre circuit BEP lies on the other module. -/
def usesEnd (w : Word64) (x : Nat) : Bool := specA w == x || (!specFib w && specB w == x)

/-- Two specifications join the same pair of endpoints (R407). -/
def samePair (a b : Word64) : Bool :=
  if specFib a then specFib b && specA a == specA b && specB a == specB b && bits a 14 12 == bits b 14 12
  else !specFib b && ((specA a == specA b && specB a == specB b) || (specA a == specB b && specB a == specA b))

/-- The entries that are not IDLE. -/
def liveCircuits (s : State) : List Circuit := (s.circuits.map (·.2)).filter (fun c => c.st != .idle)

/-- The channels in use that satisfy `f`. -/
def channels (s : State) (f : Word64 → Bool) : Nat :=
  (((liveCircuits s).filter (fun c => f c.spec)).map (fun c => specCh c.spec)).foldl (· + ·) 0

/-- An endpoint of this module is there: the H-die, or a present C-die (R3, R406). -/
def endPresent (s : State) (x : Nat) : Bool := x == 4 || s.present x

/-- FIBMAP's entry for a fibre port (R406). -/
def fibMap (s : State) (p : Nat) : Nat := bits s.mgmt.fibmap (3 * p + 2) (3 * p)

/-- The specification is one that R409 accepts: result 4 of OPEN otherwise. -/
def specValid (s : State) (w : Word64) : Bool :=
  decide (specA w ≤ 4) && decide (specB w ≤ 4) && (specFib w || specA w != specB w) && endPresent s (specA w) &&
    decide (1 ≤ specCh w) && decide (specCh w ≤ if specFib w then 8 else 64) &&
    (if specFib w then bits w 14 12 != bits s.mgmt.modid 2 0 && fibMap s (bits w 11 8) == bits w 14 12
     else endPresent s (specB w))

/-- The budgets of the endpoints and the fibre port bear the specification (R406, R407). -/
def specFits (s : State) (w : Word64) : Bool :=
  decide (channels s (usesEnd · (specA w)) + specCh w ≤ 64) &&
    (if specFib w then decide (channels s (fun v => specFib v && bits v 11 8 == bits w 11 8) + specCh w ≤ 8)
     else decide (channels s (usesEnd · (specB w)) + specCh w ≤ 64))

/-! ### CONN (R409) -/

/-- The entry that an operation word names. -/
def connEntry (a : Word64) : Nat := bits a 7 2

/-- STATE of an entry (R409). -/
def circuitCode : CircuitState → Nat
  | .idle => 0 | .requested => 1 | .tuning => 2 | .up => 3 | .draining => 4 | .failed => 5

/-- The STATUS word of an entry (R409). -/
def connWord (c : Circuit) : Word64 :=
  BitVec.ofNat 64 (circuitCode c.st + c.fcause.toNat * 2 ^ 3 + bits c.spec 22 0 * 2 ^ 8)

/-- OPEN: its result and the entry it leaves. An invalid specification is answered before the pair and the budget. -/
def connOpened (s : State) (e : Nat) (w : Word64) : Nat × Circuit :=
  let c := s.circuit e
  if c.st ≠ .idle then (1, c)
  else if !specValid s w then (4, c)
  else if (liveCircuits s).any (fun v => samePair v.spec w) then (2, c)
  else if !specFits s w then (3, c)
  else (0, { c with st := .requested, fcause := 0, spec := w })

/-- CLOSE: its result and the entry it leaves (R408, R409). -/
def connClosed (c : Circuit) : Nat × Circuit :=
  match c.st with
  | .requested | .tuning => (0, { c with st := .idle })
  | .up => (0, { c with st := .draining })
  | _ => (1, c)

/-- RESET: its result and the entry it leaves. -/
def connCleared (c : Circuit) : Nat × Circuit := if c.st = .failed then (0, { c with st := .idle }) else (1, c)

/-- A CONN that changes an entry: the reserved bits of the operation word, then the effect. -/
def connBody (d a : BitVec 5) (k : Nat) (s : State) (f : Nat → Except Stop (Nat × Circuit)) : Done := do
  let w := gGet s k a
  check (bits w 63 8 == 0) s .reservedField w
  let (r, c) ← f (connEntry w)
  fall (gSet (s.setCircuit (connEntry w) c) k d (BitVec.ofNat 64 r))

/-- CONN STATUS (R409). -/
def execConnStatus (d : BitVec 5) (a : BitVec 5) (b : BitVec 5) (v0 : BitVec 5) (s : State) : Host.Outcome State Fault Refusal :=
  .next (unitC 4 false ⟨.machine, v0 == 0 && b == 0, true, fun k s => do
    let w := gGet s k a
    check (bits w 63 8 == 0) s .reservedField w
    fall (gSet s k d (connWord (s.circuit (connEntry w))))⟩ s)

/-- CONN OPEN (R409). -/
def execConnOpen (d : BitVec 5) (a : BitVec 5) (b : BitVec 5) (v0 : BitVec 5) (s : State) : Host.Outcome State Fault Refusal :=
  .next (unitC 4 false ⟨.machine, v0 == 0, true, fun k s => connBody d a k s (fun e => do
    let w := gGet s k b
    check (bits w 63 23 == 0 && !bit w 15 && !bit w 7) s .reservedField w
    return connOpened s e w)⟩ s)

/-- CONN CLOSE (R409). -/
def execConnClose (d : BitVec 5) (a : BitVec 5) (b : BitVec 5) (v0 : BitVec 5) (s : State) : Host.Outcome State Fault Refusal :=
  .next (unitC 4 false ⟨.machine, v0 == 0 && b == 0, true, fun k s =>
    connBody d a k s (fun e => .ok (connClosed (s.circuit e)))⟩ s)

/-- CONN RESET (R409). -/
def execConnReset (d : BitVec 5) (a : BitVec 5) (b : BitVec 5) (v0 : BitVec 5) (s : State) : Host.Outcome State Fault Refusal :=
  .next (unitC 4 false ⟨.machine, v0 == 0 && b == 0, true, fun k s =>
    connBody d a k s (fun e => .ok (connCleared (s.circuit e)))⟩ s)

/-! ### Failure (R408, R413, R431) -/

/-- A token under way belongs to job `num` of context `c` (R456). -/
def ofJob (s : State) (c num : Nat) (f : Flight) : Bool := (flightJob s f).any (fun j => j.ctx == c && j.num == num)

/-- The flight waits at the ingress of the circuit's strait. -/
def atIngress (c : Circuit) (f : Flight) : Bool :=
  f.strait && !specFib c.spec &&
    ((f.die == specA c.spec && destDie f == specB c.spec) || (f.die == specB c.spec && destDie f == specA c.spec))

/-- A gang of the job has pages on both ends of the circuit (R413). -/
def spansCircuit (s : State) (c : Circuit) (j : Job) : Bool :=
  let on := fun (g d : Nat) => (gangPages s j g).any (fun ix => (s.page j.ctx j.num ix).any (fun p => pagePlaced p && p.die == d))
  !specFib c.spec && (List.range (((s.kernelOf j).map (fun k => k.gangs.length)).getD 0)).any (fun g =>
    on g (specA c.spec) && on g (specB c.spec))

/-- The jobs that a failed circuit fences (R413). -/
def circuitJobs (s : State) (c : Circuit) : List (Nat × Nat) :=
  (s.jobs.filter (fun j => !jobFinal j && (spansCircuit s c j ||
    (c.retry.flatMap (·.toks)).any (ofJob s j.ctx j.num) ||
    (s.flights.filter (atIngress c)).any (ofJob s j.ctx j.num)))).map (fun j => (j.ctx, j.num))

/-- A job's traffic at a circuit is discarded (R413). -/
def dropTraffic (s : State) (e : Nat) (j : Nat × Nat) : State :=
  let c := s.circuit e
  { s with
    flights := s.flights.filter (fun f => !(atIngress c f && ofJob s j.1 j.2 f)),
    circuits := s.circuits.put e { c with
      retry := (c.retry.map (fun f => { f with toks := f.toks.filter (fun x => !ofJob s j.1 j.2 x) })).filter
        (fun f => !f.toks.isEmpty) } }

/-- A circuit becomes FAILED (R408, R413). -/
def failCircuit (s : State) (e : Nat) (cause : BitVec 2) : State :=
  let c := s.circuit e
  let s1 := s.setCircuit e { c with st := .failed, fcause := cause, fails := 0, resend := false }
  (circuitJobs s1 c).foldl (fun s j => fenceJob (dropTraffic s e j) j.1 j.2 (causeCode .linkDown)) s1

/-- The jobs with a page on a die (R431). -/
def jobsOnDie (s : State) (d : Nat) : List (Nat × Nat) :=
  ((s.pages.filter (fun p => pagePlaced p && p.die == d)).map (fun p => (p.ctx, p.job))).eraseDups

/-- A die is fenced until module reset (R428, R431). -/
def fenceDie (s : State) (d : Nat) : State :=
  let s1 := s.updDie d (fun v => { v with fenced := true })
  let s2 := (jobsOnDie s1 d).foldl (fun s j => fenceJob s j.1 j.2 (causeCode .remoteFenced)) s1
  ((s2.circuits.filter (fun e => e.2.st != .idle && usesEnd e.2.spec d)).map (·.1)).foldl (fun s e => failCircuit s e 3) s2

/-! ### The events of an entry (R408) -/

/-- An endpoint of this module is there and in service (R408, R431). -/
def endReady (s : State) (x : Nat) : Bool := endPresent s x && !(s.die x).fenced

/-- CIRCUIT_READY: both ends are present and ready; of a circuit that leaves the module, the local one. -/
def execCircuitReady (e : Nat) (s : State) : Host.Outcome State Fault Refusal :=
  let c := s.circuit e
  .next (if c.st = .requested ∧ endReady s (specA c.spec) ∧ (specFib c.spec ∨ endReady s (specB c.spec)) then s.setCircuit e { c with st := .tuning, since := s.micros } else s)

/-- The flits of other entries of the same pair, which the new circuit sends again (R413). -/
def waitingFlits (s : State) (e : Nat) : List Flit :=
  let c := s.circuit e
  (s.circuits.filter (fun x => x.1 != e && x.2.st != .up && x.2.st != .draining && samePair x.2.spec c.spec)).flatMap (fun x => x.2.retry)

/-- Flits numbered afresh per sender (R411). -/
def renumberFlits (l : List Flit) : List Flit × Tbl Nat :=
  l.foldl (fun (b : List Flit × Tbl Nat) f =>
    (b.1 ++ [{ f with seq := b.2.get 0 f.src }], b.2.put f.src ((b.2.get 0 f.src + 1) % 4096))) ([], [])

/-- CIRCUIT_LOCKED: the circuit is UP, its credits are initialised, and what waited for the pair is sent again (R413). -/
def execCircuitLocked (e : Nat) (s : State) : Host.Outcome State Fault Refusal :=
  let c := s.circuit e
  .next (if c.st = .tuning then
    let r := renumberFlits (waitingFlits s e ++ c.retry)
    let others := s.circuits.map (fun x =>
      if x.1 != e && x.2.st != .up && x.2.st != .draining && samePair x.2.spec c.spec then (x.1, { x.2 with retry := [] }) else x)
    ({ s with circuits := others }).setCircuit e
      { c with st := .up, retry := r.1, txSeq := r.2, rxSeq := [], fails := 0, resend := false }
    else s)

/-- TUNING_TIMEOUT: 100 µs without lock. -/
def execTuningTimeout (e : Nat) (s : State) : Host.Outcome State Fault Refusal :=
  let c := s.circuit e
  .next (if c.st = .tuning ∧ c.since + 100 ≤ s.micros then s.setCircuit e { c with st := .failed, fcause := 1 } else s)

/-- CIRCUIT_DRAINED: every retry buffer is empty. -/
def execCircuitDrained (e : Nat) (s : State) : Host.Outcome State Fault Refusal :=
  let c := s.circuit e
  .next (if c.st = .draining ∧ c.retry = [] then s.setCircuit e { c with st := .idle } else s)

/-- LINK_FAIL: light is lost (FCAUSE 2), or the far end is reset or lost (FCAUSE 3). -/
def execLinkFail (e : Nat) (w : BitVec 2) (s : State) : Host.Outcome State Fault Refusal :=
  let c := s.circuit e
  .next (if (c.st = .up ∨ c.st = .draining) ∧ 2 ≤ w.toNat then failCircuit s e w else s)

/-- X_DIE_RESET: every entry is cleared; the traffic of their straits waits at the ingress again. -/
def execXDieReset (s : State) : Host.Outcome State Fault Refusal :=
  .next { s with flights := s.circuits.flatMap (fun e => e.2.retry.flatMap (·.toks)) ++ s.flights, circuits := [] }

/-! ### Flits (R411) -/

/-- FLIT_RECEIVE: the eighth CRC failure of a flit in a row fails the circuit (R408). -/
def execFlitReceive (e : Nat) (good : Bool) (s : State) : Host.Outcome State Fault Refusal :=
  .next (match receiveFlit s e good with
    | none => s
    | some s1 => if 8 ≤ (s1.circuit e).fails then failCircuit s1 e 2 else s1)

/-- FLIT_RESEND: a flit whose CRC failed is sent again. -/
def execFlitResend (e : Nat) (s : State) : Host.Outcome State Fault Refusal :=
  let c := s.circuit e
  .next (if (c.st = .up ∨ c.st = .draining) ∧ c.resend then s.setCircuit e { c with resend := false } else s)

end Sys2Proof.Machine
end

