-- ==== Sys2Proof/Machine/Queue.lean ====
section
/-! DEFINITION. Queues: the queue table, doorbells and queue states, the queue instructions, dispatch ports and stealing
(R322 to R338). -/

namespace Sys2Proof.Machine

/-! ### Entries of the queue table (R322) -/

/-- An entry of a queue table as a step finds it: where it lies, BASE, CTL, HEAD and TAIL, and whether its reserved bits are zero
and its fields in range (R322). -/
structure QEnt where
  loc : Loc
  base : Nat
  ctl : Nat
  head : Nat
  tail : Nat
  clean : Bool
  deriving DecidableEq, Repr

/-- The bytes of an entry of a kind. -/
def qBytes (kind : Nat) : Nat := if kind = 1 then 32 else 64

/-- The address of ring entry `i`. -/
def QEnt.slot (e : QEnt) (i : Nat) : Nat := e.base + qBytes (qKind e.ctl) * (i % qSize e.ctl)

/-- The request of a queue step (R325): a core's own, or the isle's queue engine for a cell, performed at the home. -/
def queueReq (s : State) (x : Runner) : Req :=
  match x with
  | .core k => { coreReq s k .data with home := true }
  | .cell t => { engReq s (.cell t) .queue (tileCtx s t) with home := true }

/-- Queue `q` of a request's context as the home of its entry holds it (R322, R325). -/
def qPeek (s : State) (rq : Req) (q : Nat) (acc : Access) : Except (Cause × Word64) (QEnt × State) :=
  let va := BitVec.ofNat 64 (ctxWord s rq.ctx 0x30 + 64 * q)
  match translate s rq va acc with
  | .error e => .error e
  | .ok (l, s1) =>
    if l.dev ∨ (l.kind = 2 ∧ acc = .atomic) then .error (.atomicKind, va)
    else match readFault s1 l.key 64 with
      | some c => .error (c, va)
      | none =>
        let s2 := if l.kind = 1 then flushForAtomic s1 (agentIsle rq.agent) (lineOf l.key) else s1
        let f := fun (o : Nat) => numOf (Memory.readN s2.mem (l.key + o) 8)
        .ok (⟨l, f 0, f 8, f 0x10, f 0x18, ctlClean (f 8) && (List.range 4).all (fun i => f (0x20 + 8 * i) == 0)⟩, s2)

/-- A word of an entry written as the atomic that a step is (R209, R325). -/
def qStore (s : State) (rq : Req) (e : QEnt) (off v : Nat) : State :=
  homeStore s rq.agent { e.loc with key := e.loc.key + off } (bytesOf v 8)

/-- A step that writes nothing is a load of the entry at its home (R207, R209). -/
def qSeen (s : State) (rq : Req) (e : QEnt) : State := (homeLoad s rq.agent e.loc 8).2

/-- The hardware queue of a STREAM entry. -/
def streamOf (s : State) (e : QEnt) : HwQueue := (s.isle (qOwner e.ctl)).hw (qHwq e.ctl)

/-- The hardware queue of a STREAM entry replaced. -/
def setStream (s : State) (e : QEnt) (l : List Token) : State :=
  s.updIsle (qOwner e.ctl) (fun i => { i with hwq := i.hwq.put (qHwq e.ctl) { i.hw (qHwq e.ctl) with toks := l } })

/-- The queue holds no room for one more entry. -/
def qFull (s : State) (e : QEnt) : Bool :=
  if qKind e.ctl = 2 then hwFull s (qOwner e.ctl) (qHwq e.ctl)
  else decide (qSize e.ctl ≤ e.tail - e.head)

/-! ### Command queues (R327, R328) -/

/-- eff of R328 for a wait of `w` microseconds under a queue's CTL. -/
def effOf (s : State) (c ctl w : Nat) : Nat :=
  min (min (qPrio ctl + w / 4000) (qPrio ctl + 16)) (fieldOf (ctxWord s c 0) 6 0)

/-- The effective priority of a COMMAND queue's head (R328). -/
def qEff (s : State) (c q ctl : Nat) : Nat :=
  effOf s c ctl (match headJob s c q with | some j => s.micros - j.since | none => 0)

/-- A doorbell or command refused, journalled as event 2 (R329). -/
def refuseBell (s : State) (c q pos : Nat) : State := journal s c q 2 0 pos

/-- The context takes doorbells (R327). -/
def bellCtx (s : State) (c : Nat) : Bool :=
  let st := (s.ctx c).st
  st != .fenced && st != .closing && st != .free

/-- The launch scheduler's view of queue `q` of context `c`: CTL, HEAD, TAIL (R322). -/
def schedQueue (s : State) (c q : Nat) : Nat × Nat × Nat × Nat :=
  (schedWord s c (qEntry s c q), qCtl s c q, schedWord s c (qEntry s c q + 0x10), schedWord s c (qEntry s c q + 0x18))

/-- HEAD of a COMMAND queue: its first accepted command that is not carried out, else TAIL (R322, R339). -/
def moveHead (s : State) (c q : Nat) : State :=
  let head := match s.cmds.find? (fun e => e.1 == c && e.2.1 == q) with
    | some e => e.2.2
    | none => schedWord s c (qEntry s c q + 0x18)
  schedWrite s c (qEntry s c q + 0x10) (bytesOf head 8)

/-- A COMMAND entry holds an operation code, and its reserved bytes are zero (R339). LAUNCH's operands are checked when it
is carried out (R342). -/
def cmdOk (l : List Byte) : Bool :=
  let zero := fun (a n : Nat) => ((l.drop a).take n).all (· == 0)
  l.length == 64 && zero 1 7 &&
    (match (l.headD 0).toNat with
      | 1 => zero 40 24
      | 2 => true
      | 3 => zero 10 54
      | 4 => zero 9 55 && decide (bits (l.getD 8 0) 7 6 = 0)
      | _ => false)

/-- The 64 bytes of entry `i` of a COMMAND ring as the scheduler reads them; none where it cannot. -/
def cmdEntry (s : State) (c base ctl i : Nat) : List Byte :=
  match schedRead s c (base + 64 * (i % qSize ctl)) 64 with
  | .ok (l, _) => l
  | .error _ => []

/-- Entry `i` of a COMMAND queue is accepted, or refused at acceptance (R329, R339). -/
def acceptCmd (s : State) (c q base ctl i : Nat) : State :=
  let l := cmdEntry s c base ctl i
  if cmdOk l then
    let s1 := journal s c q 1 (l.headD 0).toNat i
    { s1 with cmds := s1.cmds ++ [(c, q, i)] }
  else refuseBell s c q i

/-- The scheduler accepts entries `tail` to `v` − 1 of a COMMAND queue in index order (R327). -/
def acceptNew (s : State) (c q base ctl tail v : Nat) : State :=
  moveHead ((List.range (v - tail)).foldl (fun s i => acceptCmd s c q base ctl (tail + i)) s) c q

/-- A doorbell write of value `v` (R327): TAIL moves and each new entry is accepted in index order. -/
def ringDoorbell (s : State) (c q v : Nat) : State :=
  let (base, ctl, head, tail) := schedQueue s c q
  if v < tail ∨ head + qSize ctl < v ∨ ¬ bellCtx s c ∨ ¬ qValid ctl ∨ ¬ ctlClean ctl ∨ ¬ restClean s c q ∨ qKind ctl ≠ 0 ∨
      qState ctl = 0 then refuseBell s c q v
  else acceptNew (schedWrite s c (qEntry s c q + 0x18) (bytesOf v 8)) c q base ctl tail v

/-- DOORBELL: the value written at the doorbell of queue `q` of context `c` (R327). -/
def execDoorbell (c q : Nat) (w : BitVec 64) (s : State) : Host.Outcome State Fault Refusal :=
  .next (ringDoorbell s (c % 256) (q % 256) w.toNat)

/-! ### Queue states (R324) -/

/-- QUEUE_ENABLE (R324): nothing while QCMD is BUSY. -/
def execQueueEnable (c q : Nat) (s : State) : Host.Outcome State Fault Refusal :=
  .next (if bit s.mgmt.qcmd 31 then s else queueCommand s 1 (c % 256) (q % 256))

/-- QUEUE_DISABLE (R324): nothing while QCMD is BUSY. -/
def execQueueDisable (c q : Nat) (s : State) : Host.Outcome State Fault Refusal :=
  .next (if bit s.mgmt.qcmd 31 then s else queueCommand s 2 (c % 256) (q % 256))

/-! ### Steps of cells that fault (R325) -/

/-- A cell's queue step faults: the queue engine writes a record and the task is held; REMOTE_FENCED aborts the task
and fences its job (R325, R431). -/
def holdTask (s : State) (t : Nat) (c : Cause) (v : Word64) : State :=
  let k := s.task t
  if c = .remoteFenced then
    fenceJob (abortTask s t c v) (tileCtx s t) (tileJob s t) (causeCode c)
  else
    let s1 := s.updTask t (fun x => { x with held := some (nextRing s (tileIsle t)) })
    writeRecord s1 (tileIsle t) { tileRecord s t 7 c v with
      cls := k.cls, offset := k.unitStart, pfx := k.pfx.isSome, hdr := k.hdr, in0 := k.i0, in1 := k.i1,
      pts := (s.cell t).pts }

/-- A fault of a queue step's own accesses: precise on a core, a held task in a cell (R325). -/
def liftQueue {α : Type} (s : State) (x : Runner) (r : Except (Cause × Word64) α) : Except Stop α :=
  match r with
  | .ok v => .ok v
  | .error (c, v) =>
    match x with
    | .core _ => raise s c v
    | .cell t => .error (.final (holdTask s t c v))

/-! ### The checks of R338 -/

/-- Checks 1 to 4 of R338 for a handle and the kinds that an instruction accepts. -/
def queueOperand (s : State) (x : Runner) (h : Word64) (kinds : List Nat) (acc : Access) : Except Stop (QEnt × State) := do
  check (decide (bits h 63 8 = 0)) s .reservedField 0
  let (e, s1) ← liftQueue s x (qPeek s (queueReq s x) h.toNat acc)
  check e.clean s .reservedField 0
  check (qValid e.ctl) s .descInvalid 0
  check (kinds.contains (qKind e.ctl)) s .descInvalid 0
  check ((s.ctx (ctxOf s x)).st != .fenced) s .remoteFenced 0
  return (e, s1)

/-- Bytes of the scratchpad of a runner's isle. -/
def spmBytes (s : State) (x : Runner) (a n : Nat) : List Byte := (s.isle (runnerIsle x)).spmRead a n

/-- Bytes written to the scratchpad of a runner's isle. -/
def spmPut (s : State) (x : Runner) (a : Nat) (l : List Byte) : State := s.updIsle (runnerIsle x) (fun i => i.spmWrite a l)

/-- An entry pushed to a ring, then TAIL (R325). -/
def ringPush (s : State) (rq : Req) (e : QEnt) (l : List Byte) : Except (Cause × Word64) State :=
  match writeVa s rq (e.slot e.tail) l (pieces l.length) with
  | .error x => .error x
  | .ok s1 => .ok (qStore s1 rq e 0x18 (e.tail + 1))

/-- A full or OFF queue: QUEUE_FULL under .T and on an OFF queue, else rd := 1 (R324, R338). -/
def pushRefused (s : State) (x : Runner) (d : BitVec 5) (e : QEnt) (t : Bool) : Done :=
  if qState e.ctl = 0 ∨ t then raise s .queueFull 0 else fall (sSet s x d 1)

/-- The token of a STREAM entry with the checks of R168; an ORD carries the agent's time. -/
def streamToken (s : State) (x : Runner) (l : List Byte) : Except Stop Token := do
  let h := BitVec.ofNat 64 (numOf (l.take 8))
  let c := ctxOf s x
  let kind := hKind h
  check (!(bit h 63) && decide (kind ≤ 6) && decide (kind ≠ kERR) && (kind == kDATA || hLen h == kindLen kind))
    s .reservedField h
  check (decide (kind ≠ kDATA) || !fmtReserved (hType h)) s .formatUnsupported 0
  check (destOk (declaringJob s c (hVreg h)) (hDest h)) s .routeInvalid h
  let h' := createHdr (putBits h 7 0 c)
  if kind = kORD then return ⟨h', (ordToken 0 0 0 0 (s.pts (runnerAgent x))).lanes⟩
  else
    let v := lanesOfBytes (l.drop 8)
    let tok : Token := ⟨h', Lanes.ofFn (fun i => if i ≤ hLen h then v.get i else 0)⟩
    check (!tokenReserved tok) s .reservedField 0
    return tok

/-! ### The instructions (R338) -/

/-- QPUSH. -/
def qpushBody (d a b : BitVec 5) (t : Bool) (s : State) (x : Runner) : Done := do
  let h ← sGet s x a
  let p ← sGet s x b
  let (e, s1) ← queueOperand s x h [0, 1, 2] .atomic
  let rq := queueReq s x
  let n := qBytes (qKind e.ctl)
  spmCheck s1 x p n 8 false true
  let l := spmBytes s1 x p.toNat n
  if qKind e.ctl = 2 then
    let tok ← streamToken s1 x l
    if qState e.ctl = 0 ∨ qFull s1 e then pushRefused (qSeen s1 rq e) x d e t
    else
      let s2 := qStore (setStream s1 e ((streamOf s1 e).toks ++ [tok])) rq e 0x18 (e.tail + 1)
      fall (sSet s2 x d 0)
  else if qState e.ctl = 0 ∨ qFull s1 e ∨ (qKind e.ctl = 0 ∧ ¬ bellCtx s1 (ctxOf s x)) then
    pushRefused (qSeen s1 rq e) x d e t
  else if qKind e.ctl = 0 then
    let s2 ← liftQueue s x (ringPush s1 rq e l)
    fall (sSet (acceptNew s2 (ctxOf s x) h.toNat e.base e.ctl e.tail (e.tail + 1)) x d 0)
  else
    let s2 ← liftQueue s x (ringPush s1 rq e l)
    fall (sSet s2 x d 0)

/-- The 64 bytes of a STREAM entry: header, eight lanes, zeros (R334). -/
def streamImage (tok : Token) : List Byte :=
  bytesOf tok.hdr.toNat 8 ++ bytesOfLanes tok.lanes 8 ++ List.replicate 24 0

/-- QPOP: an OFF queue raises QUEUE_EMPTY, and a HELD one gives nothing (R324). -/
def qpopBody (d a b : BitVec 5) (t : Bool) (s : State) (x : Runner) : Done := do
  let h ← sGet s x a
  let p ← sGet s x b
  let (e, s1) ← queueOperand s x h [1, 2] .atomic
  let rq := queueReq s x
  let n := qBytes (qKind e.ctl)
  spmCheck s1 x p n 8 true false
  let empty := if qKind e.ctl = 2 then (streamOf s1 e).toks.isEmpty else decide (e.tail ≤ e.head)
  if qState e.ctl = 0 ∨ ((empty ∨ qState e.ctl = 3) ∧ t) then raise (qSeen s1 rq e) .queueEmpty 0
  else if empty ∨ qState e.ctl = 3 then fall (sSet (qSeen s1 rq e) x d 0)
  else if qKind e.ctl = 2 then
    let l := ((streamOf s1 e).toks.head?.map streamImage).getD []
    let s2 := qStore (setStream s1 e ((streamOf s1 e).toks.drop 1)) rq e 0x10 (e.head + 1)
    fall (sSet (spmPut s2 x p.toNat l) x d 1)
  else
    let (l, s2) ← liftQueue s x (readVa s1 rq (e.slot e.head) n (pieces n))
    fall (sSet (spmPut (qStore s2 rq e 0x10 (e.head + 1)) x p.toNat l) x d 1)

/-- A join block's COUNT located for an atomic (R333). -/
def joinLoc (s : State) (rq : Req) (a : Word64) (n : Nat) : Except (Cause × Word64) (Loc × Nat × State) :=
  match translate s rq a .atomic with
  | .error e => .error e
  | .ok (l, s1) =>
    if l.dev ∨ l.kind = 2 then .error (.atomicKind, a)
    else match readFault s1 l.key n with
      | some c => .error (c, a)
      | none =>
        let s2 := if l.kind = 1 then flushForAtomic s1 (agentIsle rq.agent) (lineOf l.key) else s1
        .ok (l, numOf (Memory.readN s2.mem l.key n), s2)

/-- A COUNT written as an atomic. -/
def putCount (s : State) (rq : Req) (l : Loc) (v : Nat) : State := homeStore s rq.agent l (bytesOf (v % 2 ^ 64) 8)

/-- The COUNT step of this instruction has been performed already, before its push was held (R325, R338). -/
def counted (s : State) (x : Runner) : Bool :=
  match x with
  | .core _ => false
  | .cell t => (s.task t).part == 1

/-- The COUNT step of a cell's instruction is noted, so that RESUME of a held push does not perform it again. -/
def noteCount (s : State) (x : Runner) : State :=
  match x with
  | .core _ => s
  | .cell t => s.updTask t (fun k => { k with part := 1 })

/-- COUNT of the join block at `j` changed by `d` modulo 2^64. -/
def addCount (s : State) (rq : Req) (j : Word64) (d : Nat) : Except (Cause × Word64) State :=
  match joinLoc s rq j 8 with
  | .error e => .error e
  | .ok (l, n, s1) => .ok (putCount s1 rq l (n + d))

/-- The decrement with which CONT takes its increment back (R338). -/
def undoCount (s : State) (rq : Req) (j : Word64) : State :=
  if j = 0 then s
  else match addCount s rq j (2 ^ 64 - 1) with
    | .ok s1 => s1
    | .error _ => s

/-- CONT: COUNT += 1 on the record's join block, then the push; a full queue takes the increment back. A fault of the push
leaves the increment (R338). -/
def contBody (d a b : BitVec 5) (s : State) (x : Runner) : Done := do
  let h ← sGet s x a
  let p ← sGet s x b
  let (e, s1) ← queueOperand s x h [1] .atomic
  let rq := queueReq s x
  spmCheck s1 x p 32 8 false true
  let l := spmBytes s1 x p.toNat 32
  let j := BitVec.ofNat 64 (numOf ((l.drop 8).take 8))
  check (decide (j.toNat % 64 = 0)) s .misalignData j
  let s2 ← (if j = 0 ∨ counted s x then .ok s1 else do
    let s2 ← liftQueue s x (addCount s1 rq j 1)
    return noteCount s2 x : Except Stop State)
  if qState e.ctl = 0 then raise (qSeen s2 rq e) .queueFull 0
  else if qFull s2 e then fall (sSet (undoCount (qSeen s2 rq e) rq j) x d 1)
  else
    let s3 ← liftQueue s2 x (ringPush s2 rq e l)
    fall (sSet s3 x d 0)

/-- The end of a JOIN whose count is now 0: the parent is pushed to Q; the decrement stands whatever happens to the
push. `s1` is the state after it. -/
def joinPush (s1 : State) (x : Runner) (d : BitVec 5) (q : Nat) (parent : List Byte) : Done := do
  let rq := queueReq s1 x
  let (e, s2) ← liftQueue s1 x (qPeek s1 rq q .atomic)
  if ¬ e.clean then raise s2 .reservedField 0
  else if ¬ qValid e.ctl ∨ qKind e.ctl ≠ 1 then raise s2 .descInvalid (BitVec.ofNat 64 q)
  else if qState e.ctl = 0 ∨ qFull s2 e then raise (qSeen s2 rq e) .queueFull 0
  else
    let s3 ← liftQueue s1 x (ringPush s2 rq e parent)
    fall (sSet s3 x d 0)

/-- JOIN. -/
def joinBody (d a : BitVec 5) (s : State) (x : Runner) : Done := do
  let p ← sGet s x a
  check (decide (p.toNat % 64 = 0)) s .misalignData p
  let rq := queueReq s x
  let (loc, w, s1) ← liftQueue s x (joinLoc s rq p 64)
  check (decide (w / 2 ^ 72 % 2 ^ 56 = 0) && decide (w / 2 ^ 384 = 0)) s .reservedField 0
  let q := w / 2 ^ 64 % 256
  let parent := bytesOf (w / 2 ^ 128 % 2 ^ 256) 32
  let n := w % 2 ^ 64
  check ((n != 1 && !counted s x) || (s.ctx (ctxOf s x)).st != .fenced) s .remoteFenced 0
  if counted s x then joinPush s1 x d q parent
  else if n = 0 then raise (homeLoad s1 rq.agent loc 8).2 .joinUnderflow 0
  else if n = 1 then joinPush (noteCount (putCount s1 rq loc 0) x) x d q parent
  else fall (sSet (putCount s1 rq loc (n - 1)) x d (BitVec.ofNat 64 (n - 1)))

/-- Ring entries read, the one below TAIL first (R335). -/
def readTail (rq : Req) (e : QEnt) : (k i : Nat) → State → Except (Cause × Word64) (List Byte × State)
  | 0, _, s => .ok ([], s)
  | k + 1, i, s =>
    match readVa s rq (e.slot (e.tail - 1 - i)) 32 3 with
    | .error x => .error x
    | .ok (l, s1) =>
      match readTail rq e k (i + 1) s1 with
      | .error x => .error x
      | .ok (r, s2) => .ok (l ++ r, s2)

/-- The attempts of a STEAL that have been lost so far (R335). -/
def stealLost (s : State) (x : Runner) : Nat :=
  match x with
  | .core k => match (s.core k).waiting with
    | some (.steal n) => n
    | _ => 0
  | .cell t => (s.task t).part

/-- An attempt of a STEAL is lost: the thief tries again with its next step, and after the fourth it reports 0 (R335). -/
def stealAgain (s : State) (x : Runner) (d : BitVec 5) (n : Nat) : Done :=
  if 4 ≤ n then fall (sSet s x d 0)
  else match x with
    | .core _ => .error (.wait s (.steal n))
    | .cell t => .error (.wait (s.updTask t (fun k => { k with part := n })) (.steal n))

/-- STEAL: the thief observes TAIL with a load, and the step at the home takes records where TAIL still is what it observed
(R335, R336, log entry 47). -/
def stealBody (d a b c : BitVec 5) (s : State) (x : Runner) : Done := do
  let h ← sGet s x a
  let p ← sGet s x b
  let w ← sGet s x c
  let n := bits w 3 0
  check (decide (bits h 63 8 = 0)) s .reservedField 0
  check (decide (bits w 63 4 = 0) && decide (1 ≤ n) && decide (n ≤ 8)) s .reservedField 0
  let (e, s1) ← queueOperand s x h [0, 1, 2] .atomic
  let rq := queueReq s x
  spmCheck s1 x p (32 * n) 8 true false
  let k := runnerIsle x
  let home := e.loc.key / 2 ^ 40
  check (qKind e.ctl == 1 && fieldOf e.ctl 15 15 == 1 && qOwner e.ctl != k && (home == isleDie k || (upCircuit s (isleDie k) home).isSome))
    s .stealDenied 0
  let (seen, s1) := loadLoc s1 rq.agent { e.loc with key := e.loc.key + 0x18 } 8
  let got := min n (e.tail - e.head)
  if qState e.ctl ≠ 2 then fall (sSet (qSeen s1 rq e) x d 0)
  else if numOf seen ≠ e.tail then stealAgain (qSeen s1 rq e) x d (stealLost s x + 1)
  else if got = 0 then fall (sSet (qSeen s1 rq e) x d 0)
  else
    let (l, s2) ← liftQueue s x (readTail rq e got 0 s1)
    fall (sSet (spmPut (qStore s2 rq e 0x18 (e.tail - got)) x p.toNat l) x d (BitVec.ofNat 64 got))

/-- QSTAT. -/
def qstatBody (d a : BitVec 5) (s : State) (x : Runner) : Done := do
  let h ← sGet s x a
  let (e, s1) ← queueOperand s x h [0, 1, 2] .load
  let n := e.tail - e.head
  let p := if qKind e.ctl = 0 then qEff s (ctxOf s x) h.toNat e.ctl else qPrio e.ctl
  fall (sSet (qSeen s1 (queueReq s x) e) x d
    (BitVec.ofNat 64 (min n 65535 + qState e.ctl * 2 ^ 16 + qKind e.ctl * 2 ^ 18 + p % 128 * 2 ^ 20)))

/-- The frame of a queue instruction: `srcs` says that its class L register fields are legal (R337). -/
def queueUnit (rsv srcs : Bool) (cost : Nat) (f : State → Runner → Done) (s : State) : State :=
  unitCL 4 false ⟨.user, rsv, true, fun k s => f s (.core k)⟩ ⟨false, true, rsv && srcs, true, cost, fun t s => f s (.cell t)⟩ s

/-- QPUSH (R337, R338). -/
def execQpush (d : BitVec 5) (a : BitVec 5) (b : BitVec 5) (t : BitVec 1) (v0 : BitVec 4) (s : State) : Host.Outcome State Fault Refusal :=
  .next (queueUnit (v0 == 0) (dstL d && srcL a && srcL b) 16 (qpushBody d a b (t == 1)) s)

/-- QPOP (R337, R338). -/
def execQpop (d : BitVec 5) (a : BitVec 5) (b : BitVec 5) (t : BitVec 1) (v0 : BitVec 4) (s : State) : Host.Outcome State Fault Refusal :=
  .next (queueUnit (v0 == 0) (dstL d && srcL a && srcL b) 16 (qpopBody d a b (t == 1)) s)

/-- CONT (R337, R338). -/
def execCont (d : BitVec 5) (a : BitVec 5) (b : BitVec 5) (v0 : BitVec 5) (s : State) : Host.Outcome State Fault Refusal :=
  .next (queueUnit (v0 == 0) (dstL d && srcL a && srcL b) 24 (contBody d a b) s)

/-- JOIN (R337, R338). -/
def execJoin (d : BitVec 5) (a : BitVec 5) (v0 : BitVec 10) (s : State) : Host.Outcome State Fault Refusal :=
  .next (queueUnit (v0 == 0) (dstL d && srcL a) 24 (joinBody d a) s)

/-- STEAL (R337, R338). -/
def execSteal (d : BitVec 5) (a : BitVec 5) (b : BitVec 5) (c : BitVec 5) (s : State) : Host.Outcome State Fault Refusal :=
  .next (queueUnit true (dstL d && srcL a && srcL b && srcL c) 24 (stealBody d a b c) s)

/-- QSTAT (R337, R338). -/
def execQstat (d : BitVec 5) (a : BitVec 5) (v0 : BitVec 10) (s : State) : Host.Outcome State Fault Refusal :=
  .next (queueUnit (v0 == 0) (dstL d && srcL a) 16 (qstatBody d a) s)

/-! ### Dispatch ports (R332) -/

/-- The tile that dispatch port word `w` of isle `k` names. -/
def portTile (k : Nat) (w : Word64) : Nat := isleTile k (bits w 12 9) (bits w 15 13)

/-- What a dispatch port may pop: the queue's entry, with the state that its translation leaves (R332). -/
def portReady (s : State) (k p : Nat) : Option (QEnt × State) :=
  let w := (s.isle k).ports.get 0 p
  let t := portTile k w
  let ce := (s.tile t).classes.get 0 (bits w 5 0)
  if bit w 63 ∧ (s.tile t).base.isSome ∧ tileCtx s t = (s.isle k).ctx ∧ ¬ (s.tile t).frozen ∧ isleRuns s k ∧
      bits ce 21 20 = 0 ∧ bits ce 19 10 ≠ 0 ∧ (s.cell t).ready.length < 16 then
    match qPeek s (queueReq s (.cell t)) (bits w 23 16) .atomic with
    | .error _ => none
    | .ok (e, s1) =>
      if e.clean ∧ qValid e.ctl ∧ qKind e.ctl = 1 ∧ qOwner e.ctl = k ∧ (qState e.ctl = 1 ∨ qState e.ctl = 2) ∧ e.head < e.tail then
        some (e, s1) else none
  else none

/-- Port `p` goes before port `r` of the same cell: higher PRIO, then lower number (R332). -/
def portFirst (s : State) (k p : Nat) (e : QEnt) : Bool :=
  (List.range 16).all (fun r =>
    r == p || portTile k ((s.isle k).ports.get 0 r) != portTile k ((s.isle k).ports.get 0 p) ||
      (match portReady s k r with
        | none => true
        | some (x, _) => decide (qPrio x.ctl < qPrio e.ctl) || (qPrio x.ctl == qPrio e.ctl && decide (p < r))))

/-- DISPATCH_POP: port `p` of isle `k` pops a record, which starts a task of its class, or raises ROUTE_INVALID where the
record names another (R332); the reserved bits of CODE are checked by the cell that reads it (R12, R331). -/
def dispatchStep (s : State) (k p : Nat) : State :=
  match portReady s k p with
  | none => s
  | some (e, s1) =>
    if portFirst s k p e then
      let w := (s.isle k).ports.get 0 p
      let t := portTile k w
      let rq := queueReq s (.cell t)
      match readVa s1 rq (e.slot e.head) 32 3 with
      | .error _ => s
      | .ok (l, s2) =>
        let s3 := qStore s2 rq e 0x10 (e.head + 1)
        let cls := bits w 5 0
        let v := lanesOfBytes l
        let h := mkHdr kDATA 1 7 0 0 (ownDest s t + 2 ^ 13 * cls) (tileCtx s t) false false false
        if numOf l / 2 ^ 44 % 2 ^ 20 ≠ 0 then tokenRecord s3 t ⟨h, v⟩ .reservedField 0
        else if numOf l / 2 ^ 13 % 64 = cls then
          s3.setCell t { s3.cell t with ready := (s3.cell t).ready ++ [⟨cls, h, v, Lanes.zero, none, 0⟩] }
        else tokenRecord s3 t ⟨h, v⟩ .routeInvalid 0
    else s

/-- DISPATCH_POP (R332). -/
def execDispatchPop (k p : Nat) (s : State) : Host.Outcome State Fault Refusal := .next (dispatchStep s k p)

end Sys2Proof.Machine
end

