-- ==== Sys2Proof/Machine/Sysreg.lean ====
section
/-! DEFINITION. System registers and system instructions: SRD, SWR, TRAP, ERET, WFE, SEV, BRK, CYC, TLBI, SIGV (R114 to R119,
R135, R143 to R149). -/

namespace Sys2Proof.Machine

/-! ### System registers (R114 to R119) -/

/-- The lowest mode that may read a system register; none for a number that names no register (R114, R115). -/
def srMode (n : Nat) : Option Mode :=
  match n with
  | 0x000 => some .user | 0x001 => some .user | 0x002 => some .user | 0x003 => some .user | 0x004 => some .user
  | 0x010 => some .user | 0x011 => some .user | 0x012 => some .user | 0x013 => some .user
  | 0x100 => some .supervisor | 0x101 => some .supervisor | 0x102 => some .supervisor | 0x103 => some .supervisor
  | 0x104 => some .supervisor | 0x105 => some .supervisor | 0x106 => some .supervisor | 0x107 => some .supervisor
  | 0x301 => some .machine | 0x302 => some .machine | 0x303 => some .machine | 0x304 => some .machine
  | _ => none

/-- The value of a system register of core `k` (R114, R119). -/
def srRead (s : State) (k n : Nat) : Word64 :=
  let c := s.core k
  match n with
  | 0x000 => (s.die (isleDie k)).cyc
  | 0x001 => (s.die (isleDie k)).sfreq
  | 0x002 => c.fcsr
  | 0x003 => (s.isle k).ctb
  | 0x004 => BitVec.ofNat 64 ((s.isle k).tenant % 256 * 256 + (s.isle k).ctx % 256)
  | 0x010 => c.lbeg0
  | 0x011 => c.lend0
  | 0x012 => c.lbeg1
  | 0x013 => c.lend1
  | 0x100 => c.status
  | 0x101 => c.epc
  | 0x102 => c.cause
  | 0x103 => c.tval
  | 0x104 => c.tvec
  | 0x105 => c.ptroot
  | 0x106 => c.lease
  | 0x107 => c.capbase
  | 0x301 => c.mepc
  | 0x302 => c.mcause
  | 0x303 => c.mtval
  | 0x304 => c.mtvec
  | _ => 0

/-- A register with the bits of `mask` taken from `v`. -/
def maskIn (old v mask : Word64) : Word64 := (old &&& ~~~ mask) ||| (v &&& mask)

/-- fcsr written (R31). -/
def putFcsr (old v : Word64) : Word64 := maskIn old v 0x7033F

/-- A loop end register written: MODE 0b10 is reserved and leaves MODE unchanged (R115, R135). -/
def putLend (old v : Word64) : Word64 :=
  maskIn old v (if bits v 57 56 = 2 then 0xFCFFFFFFFFFFFFFF else 0xFFFFFFFFFFFFFFFF)

/-- A trap vector written: VMODE 0b10 and 0b11 are reserved (R115, R118). -/
def putTvec (old v : Word64) : Word64 := maskIn old v (if 2 ≤ bits v 1 0 then 0x1FFFFFFFFFFFFFC else 0x1FFFFFFFFFFFFFF)

/-- status written (R115, R116): a Supervisor write leaves the Machine fields; MPM 0b10 is reserved. -/
def putSr (m : Mode) (old v : Word64) : Word64 :=
  maskIn old v (if m = .machine then (if bits v 9 8 = 2 then 0xCB3 else 0xFB3) else 0xC31)

/-- lease written: a LEN of 0 leaves it unchanged (R119). -/
def putLease (old v : Word64) : Word64 := if bits v 15 0 = 0 then old else maskIn old v 0xFFFF

/-- ptroot written (R187). -/
def putRoot (old v : Word64) : Word64 := maskIn old v 0xFFFFFFFFFF001

/-- A system register of a core written with `v` (R115 to R119, R135). -/
def srWrite (c : Core) (n : Nat) (v : Word64) : Core :=
  match n with
  | 0x002 => { c with fcsr := putFcsr c.fcsr v }
  | 0x010 => { c with lbeg0 := maskIn c.lbeg0 v 0xFFFFFFFFFFFFFF }
  | 0x011 => { c with lend0 := putLend c.lend0 v }
  | 0x012 => { c with lbeg1 := maskIn c.lbeg1 v 0xFFFFFFFFFFFFFF }
  | 0x013 => { c with lend1 := putLend c.lend1 v }
  | 0x100 => { c with status := putSr c.mode c.status v }
  | 0x101 => { c with epc := v }
  | 0x102 => { c with cause := maskIn c.cause v 0x1BF }
  | 0x103 => { c with tval := v }
  | 0x104 => { c with tvec := putTvec c.tvec v }
  | 0x105 => { c with ptroot := putRoot c.ptroot v }
  | 0x106 => { c with lease := putLease c.lease v }
  | 0x301 => { c with mepc := v }
  | 0x302 => { c with mcause := maskIn c.mcause v 0x1BF }
  | 0x303 => { c with mtval := v }
  | 0x304 => { c with mtvec := putTvec c.mtvec v }
  | _ => c

/-- The frame of SRD and SWR: a number that names no register is an illegal encoding before all else (R86, R94, R115). -/
def srUnit (n : Nat) (rsv : Bool) (f : Nat → State → Done) (s : State) : State :=
  match srMode n with
  | none => illegalUnit s
  | some m => unitC 4 false ⟨m, rsv, true, f⟩ s

/-- SRD (R114, R115, R143). -/
def execSrd (d : BitVec 5) (r : BitVec 12) (v0 : BitVec 5) (s : State) : Host.Outcome State Fault Refusal :=
  .next (srUnit r.toNat (v0 == 0) (fun k s => fall (gSet s k d (srRead s k r.toNat))) s)

/-- SWR (R115, R143). -/
def execSwr (a : BitVec 5) (r : BitVec 12) (v0 : BitVec 5) (s : State) : Host.Outcome State Fault Refusal :=
  .next (srUnit r.toNat (v0 == 0) (fun k s => fall (s.updCore k (fun c => srWrite c r.toNat (gGet s k a)))) s)

/-- CYC (R147). -/
def execCyc (d : BitVec 5) (v0 : BitVec 5) (v1 : BitVec 12) (s : State) : Host.Outcome State Fault Refusal :=
  .next (unitC 4 false ⟨.user, v0 == 0 && v1 == 0, true, fun k s => fall (gSet s k d (srRead s k 0))⟩ s)

/-! ### TRAP, BRK, ERET (R144, R145) -/

/-- TRAP: SOFTWARE at the address that the completed TRAP leaves; a cell's task is aborted (R122, R144). -/
def execTrap (c : BitVec 12) (v0 : BitVec 10) (s : State) : Host.Outcome State Fault Refusal :=
  .next (unitCL 4 false
    ⟨.user, v0 == 0, true, fun _ s => .error (.after s .software (c.zeroExtend 64))⟩
    ⟨false, true, v0 == 0, true, 1, fun _ s => raise s .software (c.zeroExtend 64)⟩ s)

/-- BRK (R144). -/
def execBrk (c : BitVec 12) (v0 : BitVec 10) (s : State) : Host.Outcome State Fault Refusal :=
  .next (unitCL 4 false
    ⟨.user, v0 == 0, true, fun _ s => raise s .breakpoint (c.zeroExtend 64)⟩
    ⟨false, true, v0 == 0, true, 1, fun _ s => raise s .breakpoint (c.zeroExtend 64)⟩ s)

/-- ERET: an odd target is misaligned (R145). -/
def eretBody (k : Nat) (s : State) : Done :=
  let c := s.core k
  let target := if c.mode = .machine then c.mepc else c.epc
  if bit target 0 then raise s .misalignPc target
  else .error (.final (s.updCore k trapReturn))

/-- ERET (R145). -/
def execEret (v0 : BitVec 10) (v1 : BitVec 12) (s : State) : Host.Outcome State Fault Refusal :=
  .next (unitC 4 false ⟨.supervisor, v0 == 0 && v1 == 0, true, eretBody⟩ s)

/-! ### WFE and SEV (R146) -/

/-- WFE: the event bit, or a pending cause, enabled or not. -/
def wfeBody (k : Nat) (s : State) : Done :=
  if (s.core k).event || !(pendingAsync s k).isEmpty then fall (takeEvent s k) else .error (.wait s .event)

/-- WFE (R146). -/
def execWfe (v0 : BitVec 10) (v1 : BitVec 12) (s : State) : Host.Outcome State Fault Refusal :=
  .next (unitC 4 false ⟨.user, v0 == 0 && v1 == 0, true, wfeBody⟩ s)

/-- SEV: every core of the module with the same context loaded. -/
def sevBody (k : Nat) (s : State) : Done :=
  let c := (s.isle k).ctx
  fall (((List.range 64).filter (fun j => (s.isle j).ctx == c && s.present (isleDie j))).foldl (fun s j => setEvent s j 0) s)

/-- SEV (R146). -/
def execSev (v0 : BitVec 10) (v1 : BitVec 12) (s : State) : Host.Outcome State Fault Refusal :=
  .next (unitC 4 false ⟨.user, v0 == 0 && v1 == 0, true, sevBody⟩ s)

/-! ### TLBI (R148) -/

/-- A TLB entry that a stage-1 TLBI of scope `p` selects: context `c`, address `a`. -/
def tlbiHits (p c : Nat) (a : Word64) (e : TlbEntry) : Bool :=
  match p with
  | 0 => e.ctx == c
  | 1 => e.ctx == c && decide (e.base ≤ a.toNat) && decide (a.toNat < e.base + e.size)
  | _ => true

/-- A stage-2 entry that a TLBI of scope `p` selects: tenant `t`, guest-physical address `a`. -/
def tlbiHits2 (p t : Nat) (a : Word64) (e : S2Entry) : Bool :=
  match p with
  | 0 => e.tenant == t
  | 1 => decide (e.base ≤ a.toNat) && decide (a.toNat < e.base + e.size)
  | _ => true

/-- TLBI: stage-1 entries of this isle or of the module, or stage-2 entries of the isle's die or of every die. -/
def tlbiBody (a : Word64) (s2 g : Bool) (p k : Nat) (s : State) : Done :=
  if s2 then
    let keep := fun e => !tlbiHits2 p (s.isle k).tenant a e
    let ds := if g then List.range 4 else [isleDie k]
    fall (ds.foldl (fun s d => s.updDie d (fun v => { v with s2cache := v.s2cache.filter keep })) s)
  else
    let keep := fun e => !tlbiHits p (s.isle k).ctx a e
    let ks := if g then s.isles.map (·.1) else [k]
    fall (ks.foldl (fun s j => s.updIsle j (fun i => { i with tlb := i.tlb.filter keep })) s)

/-- TLBI (R148): S2 and SCOPE 0b10 need Machine mode. -/
def execTlbi (a : BitVec 5) (s0 : BitVec 1) (g : BitVec 1) (p : BitVec 2) (v0 : BitVec 5) (v1 : BitVec 8) (s : State) :
    Host.Outcome State Fault Refusal :=
  .next (unitC 4 false ⟨if s0 = 1 ∨ p = 2 then .machine else .supervisor, v0 == 0 && v1 == 0 && p != 3, true,
    fun k s => tlbiBody (gGet s k a) (s0 == 1) (g == 1) p.toNat k s⟩ s)

/-! ### SIGV (R149) -/

/-- The request of the security engine for a SIGV of core `k`: its accesses are at that core's time (R205). -/
def sigReqOf (s : State) (k c : Nat) : Req := engReq s (.core k) .data c

/-- What a verification of core `k` reads: the descriptor, then the signature and the signed bytes, empty where a read
faults. -/
def sigBytes (s : State) (k c addr : Nat) : List Byte :=
  let get := fun (a n : Nat) => match readVa s (sigReqOf s k c) a n (pieces n) with | .ok (l, _) => l | .error _ => []
  let d := get addr 24
  d ++ get (addr + 28) 4 ++ get (numOf ((d.drop 16).take 8)) 392 ++ get (numOf (d.take 8)) (numOf ((d.drop 8).take 8))

/-- SIGV: accepted once fewer than eight requests of the isle are outstanding. -/
def sigvBody (a : Word64) (tag k : Nat) (s : State) : Done := do
  check (!tagPending s k tag) s .tagBusy (BitVec.ofNat 64 tag)
  check (decide (a.toNat % 32 = 0)) s .misalignData a
  let (_, s1) ← liftCause s (translate s (coreReq s k .data) a .load)
  if 8 ≤ (s.isle k).sigs.length then .error (.wait s .reissue)
  else
    let c := (s.isle k).ctx
    let x : SigReq := ⟨tag, a.toNat, c, s.pts (.core k), sigBytes s k c a.toNat⟩
    fall ((startTag s1 k tag).updIsle k (fun i => { i with sigs := i.sigs ++ [x] }))

/-- SIGV (R149). -/
def execSigv (a : BitVec 5) (t : BitVec 6) (v0 : BitVec 5) (v1 : BitVec 6) (s : State) : Host.Outcome State Fault Refusal :=
  .next (unitC 4 false ⟨.supervisor, v0 == 0 && v1 == 0, true, fun k s => sigvBody (gGet s k a) t.toNat k s⟩ s)

/-- Steps 4 and 5 of a verification (R149): signed bytes `[base, base + len)` and the signature at `sig`. -/
def sigVerify (s : State) (rq : Req) (base len sig : Nat) : Nat × State :=
  match readVa s rq sig 8 2 with
  | .error _ => (4, s)
  | .ok (id, s1) =>
    if (s.keys.find? (fun e => e.1 == numOf id && !e.2.2)).isNone then (3, s1)
    else match readVa s1 rq base len (pieces len) with
      | .error _ => (4, s1)
      | .ok (m, s2) =>
        match readVa s2 rq sig 392 8 with
        | .error _ => (4, s2)
        | .ok (g, s3) => (if signatureOk s3 m g then 1 else 2, s3)

/-- The RESULT of a verification (R149): none where its descriptor cannot be read. Where the descriptor, the signed bytes or
the signature changed under it, RESULT is 1 or 2 unpredictably. -/
def sigResult (s : State) (k : Nat) (x : SigReq) : Option Nat × State :=
  let rq := sigReqOf s k x.ctx
  match readVa s rq x.addr 32 2 with
  | .error _ => (none, s)
  | .ok (d, s1) =>
    let len := numOf ((d.drop 8).take 8)
    let (r, s2) := if len = 0 ∨ 2 ^ 40 < len ∨ numOf ((d.drop 28).take 4) ≠ 0 then (5, s1)
      else sigVerify s1 rq (numOf (d.take 8)) len (numOf ((d.drop 16).take 8))
    if sigBytes s k x.ctx x.addr ≠ x.seen then
      (some (if Config.freeBit s2.free then 1 else 2), { s2 with free := s2.free + 1 })
    else (some r, s2)

/-- SIGV_RESULT: request `n` of isle `k` ends; a descriptor that cannot be read, or a RESULT that cannot be written, ends
the tag in error (R149). -/
def sigvDone (s : State) (k n : Nat) : State :=
  match (s.isle k).sigs[n]? with
  | none => s
  | some x =>
    let s0 := (s.mergePts (.core k) x.pts).updIsle k (fun i => { i with sigs := dropAt i.sigs n })
    let (s1, err) := match sigResult s0 k x with
      | (none, s1) => (s1, true)
      | (some r, s1) =>
        match writeVa s1 (sigReqOf s1 k x.ctx) (x.addr + 0x18) (bytesOf r 4) 2 with
        | .ok s2 => (s2, false)
        | .error _ => (s1, true)
    endTag s1 k x.tag (s1.pts (.core k)) err

/-- SIGV_RESULT (R149). -/
def execSigvResult (k n : Nat) (s : State) : Host.Outcome State Fault Refusal := .next (sigvDone s k n)

end Sys2Proof.Machine
end

