-- ==== Sys2Proof/Machine/Contain.lean ====
section
/-! DEFINITION. Acting on trap records (R426, R427), the fences that an action or a soft error takes (R428, R432), and the
two steps of a control core that no instruction is: an asynchronous cause and the end of a wait (R123, R255). -/

namespace Sys2Proof.Machine

/-! ### The records of the ring (R426) -/

/-- Slot `n` of the ring of isle `k` is held. -/
def slotHeld (i : Isle) (n : Nat) : Bool := decide (n < 64) && decide ((n + 64 - i.trHead % 64) % 64 < i.ringCount)

/-- The record's job is final (R427). -/
def recordFinal (s : State) (x : TrapRec) : Bool :=
  x.dead || (s.findJob x.ctx x.job).isNone && s.jobs.any (fun j => j.ctx == x.ctx && j.num == x.job)

/-- The records that wait for room enter the ring, in order (R426). -/
def flushRecords (i : Isle) : (l : List TrapRec) → Isle
  | [] => { i with waitRecs := [] }
  | x :: r =>
    if i.ringCount = 64 then { i with waitRecs := x :: r }
    else flushRecords { i with ring := i.ring.put (i.trTail % 64) x, trTail := (i.trTail + 1) % 128 } r

/-! ### RESUME (R242, R272, R288, R427) -/

/-- The job of the tile's page is the record's. -/
def tileOf (s : State) (x : TrapRec) : Bool := (s.tile x.tile).base.any (fun b => b.ctx == x.ctx && b.job == x.job) && !(s.tile x.tile).ending

/-- A resumed task becomes ready on its tile, bypassing matching (R150, R427; log entry 21). -/
def resumeTask (s : State) (x : TrapRec) : State :=
  if tileOf s x then
    let two := bits ((s.tile x.tile).classes.get 0 x.cls) 21 20 == 2
    let c := s.cell x.tile
    { s.setCell x.tile { c with
        ready := c.ready ++ [⟨x.cls, x.hdr, x.in0, x.in1, none, if two then (Config.resumedLen s.free).toNat + 1 else 0⟩] } with
      free := s.free + 1 }
  else s

/-- A resumed operator fires its head token again; MEMORY reads its descriptor first (R288, R302). REDUCE counts a partial token
that was added with an overflow, and makes the releases that are due (R277, R278). -/
def resumeOp (s : State) (x : TrapRec) (n : Nat) : State :=
  if (s.op x.tile x.slot).record = some n then
    let s1 := s.updOp x.tile x.slot (fun o => { o with record := none, added := false })
    if x.slot = slotMEMORY then loadDesc s1 x.tile
    else if x.slot = slotREDUCE then
      let o := s.op x.tile x.slot
      settleReduce (if o.added then o.rins.foldl (fun s i => countPartial s x.tile i) s1 else s1) x.tile
    else s1
  else s

/-- The operation of the copy engine or the prefetch that a record names, changed by `f` and `g`. -/
def onEngine (s : State) (k n id : Nat) (f : State → CopyOp → State) (g : State → Nat → Prefetch → State) : State :=
  match (s.isle k).ops.find? (fun o => o.id == id && o.record == some n) with
  | some o => f s o
  | none =>
    match (List.range (s.isle k).prefetches.length).find? (fun j =>
        ((s.isle k).prefetches[j]?).any (fun p => p.id == id && p.record == some n)) with
    | some j => match (s.isle k).prefetches[j]? with
      | some p => g s j p
      | none => s
    | none => s

/-- A resumed copy continues from POS (R242), a prefetch starts again. -/
def resumeCopy (s : State) (k n : Nat) (x : TrapRec) : State :=
  onEngine s k n x.opid (fun s o => putOp s k { o with record := none })
    (fun s j p => s.updIsle k (fun i => { i with prefetches := setAt i.prefetches j { p with record := none } }))

/-- A resumed fetch slot goes to FETCHING (R272). -/
def resumeFetch (s : State) (n : Nat) (x : TrapRec) : State :=
  if ((s.tile x.tile).slot (x.opid - 1)).record = some n then
    s.updSlot x.tile (x.opid - 1) (fun v =>
      { v with record := none, st := if v.st = .faulted then SlotState.fetching else v.st })
  else s

/-- The binding that a record names. -/
def boundAt (s : State) (n : Nat) (x : TrapRec) : Option Nat :=
  if 8192 ≤ x.tile ∧ ((s.die (x.tile - 8192)).port.binding.any (fun b => b.record == some n)) then some (x.tile - 8192) else none

/-- A resumed binding goes on with the line at its head (R427). -/
def resumeBinding (s : State) (n : Nat) (x : TrapRec) : State :=
  match boundAt s n x with
  | some d => s.updBinding d (fun b => { b with record := none })
  | none => s

/-- The queue step of a held task is performed again (R325, R427). -/
def resumeHeld (s : State) (n : Nat) (x : TrapRec) : State :=
  if (s.cell x.tile).task.any (fun k => k.held == some n) then s.updTask x.tile (fun k => { k with held := none }) else s

/-- RESUME of record `n` of isle `k` by its agent (R427). -/
def resumeRecord (s : State) (k n : Nat) (x : TrapRec) : State :=
  match x.agent with
  | 1 => sendTokens s (.resend k) (isleDie k) (some x.job) [⟨x.hdr, x.in0⟩]
  | 2 => resumeOp s x n
  | 3 => resumeCopy s k n x
  | 4 => resumeFetch s n x
  | 5 => resumeBinding s n x
  | 7 => resumeHeld s n x
  | _ => resumeTask s x

/-! ### DISCARD (R244, R272, R427) -/

/-- The head tokens of the faulting firing are dropped and firing continues; a PORT operator's line goes. DISCARD of an
overflow that a step brought acts as RESUME (R277); of a release whose route fails R63 it drops the released tokens (log
entry 66). -/
def discardOp (s : State) (x : TrapRec) (n : Nat) : State :=
  let o := s.op x.tile x.slot
  if o.record = some n then
    let s1 := o.rins.foldl (fun s i => popIn s x.tile x.slot i) s
    let s2 := s1.updOp x.tile x.slot (fun o => { o with record := none, rins := [], added := false })
    if x.slot = slotMEMORY then
      let s3 := s2.updMem x.tile (fun o => { o with elem := 0, elems := [], sat := false })
      if memMode o = 5 ∧ o.held.isNone then popPort s3 (tileDie x.tile) else s3
    else if x.slot = slotREDUCE then
      if o.rins.isEmpty ∧ x.code = causeCode .routeInvalid then
        (List.range 2).foldl (fun s a => if releaseDue ((s.tile x.tile).eng.acc a) then clearReleased s x.tile a else s) s2
      else settleReduce s2 x.tile
    else s2
  else s

/-- DISCARD of record `n` of isle `k` by its agent (R427); of a fetch slot that a queued step names it fences the job
(R285). -/
def discardRecord (s : State) (k n : Nat) (x : TrapRec) : State :=
  match x.agent with
  | 2 => discardOp s x n
  | 3 => onEngine s k n x.opid (fun s o => cancelCopy s k o)
      (fun s j _ => s.updIsle k (fun i => { i with prefetches := dropAt i.prefetches j }))
  | 4 =>
    let v := (s.tile x.tile).slot (x.opid - 1)
    if v.record = some n then
      if v.queued = 0 then releaseSlot s x.tile (x.opid - 1) else Sys2Proof.Machine.fenceJob s x.ctx x.job x.code
    else s
  | 5 => match boundAt s n x with
      | some d => (popPort s d).updBinding d (fun b => { b with record := none })
      | none => s
  | 7 => if (s.cell x.tile).task.any (fun k => k.held == some n) then abortTask s x.tile (causeOf x.code) x.tval else s
  | _ => s

/-! ### The actions (R427, R428) -/

/-- The gang of a page is frozen in place, and its open windows close (R283, R428). -/
def freezeGang (s : State) (p : Page) : State :=
  let s1 := fenceGangOf s p
  settlePages s1 (s1.pages.filter (fun q => q.ctx == p.ctx && q.job == p.job && q.frz && q.st == .resident))

/-- The gang of a record: its tile's page's, or for an engine or binding the job's current one. -/
def fenceGangRecord (s : State) (x : TrapRec) : State :=
  match (if tileOf s x then pageOf s x.tile else none) with
  | some p => freezeGang s p
  | none =>
    match s.findJob x.ctx x.job with
    | none => s
    | some j =>
      match (curGang j).bind (fun g => (gangPages s j g)[0]?) with
      | some ix => match s.page x.ctx x.job ix with
        | some p => freezeGang s p
        | none => s
      | none => s

/-- Action `act` on record `n` of isle `k`; its ACTED is set (R427). -/
def actOn (s : State) (k act n : Nat) : State :=
  let x := (s.isle k).ringAt n
  if slotHeld (s.isle k) n && !x.acted && !recordFinal s x then
    let s1 := s.updIsle k (fun i => { i with ring := i.ring.put n { x with acted := true } })
    match act with
    | 1 => resumeRecord s1 k n x
    | 2 => discardRecord s1 k n x
    | 3 => fenceGangRecord s1 x
    | 4 => Sys2Proof.Machine.fenceJob s1 x.ctx x.job x.code
    | _ => Sys2Proof.Machine.fenceCtx s1 x.ctx x.code
  else s

/-- A write of TRACT: values 0, 6 and 7 of ACT leave it unchanged, any other performs its action once (R426, R427). -/
def writeTract (s : State) (k : Nat) (w : Word64) : State :=
  let act := bits w 10 8
  if 1 ≤ act ∧ act ≤ 5 then actOn (s.updIsle k (fun i => { i with trAct := w &&& 0x73F })) k act (bits w 5 0) else s

/-- What HEAD does to an unacted record that it passes: DISCARD for a task, token or held step, and otherwise FENCE_JOB
(R427). -/
def retireRecord (k : Nat) (s : State) (n : Nat) : State :=
  let a := ((s.isle k).ringAt n).agent
  actOn s k (if a = 0 ∨ a = 1 ∨ a = 6 ∨ a = 7 then 2 else 4) n

/-- A write of TRHEAD: one that would pass TAIL leaves it unchanged (R426). -/
def writeTrhead (s : State) (k : Nat) (w : Word64) : State :=
  let i := s.isle k
  let n := (bits w 6 0 + 128 - i.trHead) % 128
  if n ≤ i.ringCount then
    let s1 := ((List.range n).map (fun j => (i.trHead + j) % 64)).foldl (retireRecord k) s
    s1.updIsle k (fun v => flushRecords { v with trHead := bits w 6 0 } v.waitRecs)
  else s

/-- TRHEAD_WRITE (R426). -/
def execTrheadWrite (k : Nat) (w : BitVec 64) (s : State) : Host.Outcome State Fault Refusal := .next (writeTrhead s k w)

/-- TRACT RESUME (R427). -/
def execResume (k n : Nat) (s : State) : Host.Outcome State Fault Refusal :=
  .next (writeTract s k (BitVec.ofNat 64 (0x100 + n % 64)))

/-- TRACT DISCARD (R427). -/
def execDiscard (k n : Nat) (s : State) : Host.Outcome State Fault Refusal :=
  .next (writeTract s k (BitVec.ofNat 64 (0x200 + n % 64)))

/-- TRACT FENCE_GANG (R427, R428). -/
def execFenceGang (k n : Nat) (s : State) : Host.Outcome State Fault Refusal :=
  .next (writeTract s k (BitVec.ofNat 64 (0x300 + n % 64)))

/-- TRACT FENCE_JOB (R346, R427). -/
def execFenceJob (k n : Nat) (s : State) : Host.Outcome State Fault Refusal :=
  .next (writeTract s k (BitVec.ofNat 64 (0x400 + n % 64)))

/-- TRACT FENCE_CTX (R316, R427). -/
def execFenceCtx (k n : Nat) (s : State) : Host.Outcome State Fault Refusal :=
  .next (writeTract s k (BitVec.ofNat 64 (0x500 + n % 64)))

/-! ### Soft errors (R432) -/

/-- SOFT_ERROR_DETECT: the job, isle or die is fenced, and the check reported; an isle's core takes MACHINE_CHECK. -/
def execSoftErrorDetect (u : ErrUnit) (s : State) : Host.Outcome State Fault Refusal :=
  let mc := causeCode .machineCheck
  .next (match u with
    | .job c j => reportCheck (Sys2Proof.Machine.fenceJob s c j mc) 0 0 0
    | .isle k => reportCheck ((fenceIsle s k mc).updCore k (fun c => { c with check := true })) 1 (isleDie k) (k % 16)
    | .die d => reportCheck (fenceDie s d) 2 d 0)

/-- A line of memory that GDDR 7 cannot correct is poisoned (R432). -/
def lineLost (s : State) (key : Nat) : State := { s with poison := insertOnce s.poison (lineOf key) }

/-- A double-bit error of a byte of memory that SRAM holds: its consumer meets MEM_UE (R432). -/
def byteLost (s : State) (key : Nat) : State := { s with memUe := insertOnce s.memUe key }

/-- A double-bit error of a byte of isle `k`'s scratchpad (R432). -/
def scratchLost (s : State) (k a : Nat) : State := s.updIsle k (fun i => { i with spmUe := insertOnce i.spmUe a })

/-- The capture or readout of a DRAINING page meets MEM_UE, or poison where `line`: the page is FAILED, and its job fenced with
that cause (R383). -/
def saveLost (s : State) (c j ix : Nat) (line : Bool) : State :=
  match s.page c j ix with
  | some p =>
    if p.st = .draining then
      Sys2Proof.Machine.fenceJob s c j (causeCode (if line then .poisonConsumed else .memUe))
    else s
  | none => s

/-! ### Asynchronous causes and waits (R123, R255) -/

/-- A WFE that waits completes when a cause becomes pending, before the cause is taken (R146). -/
def completeWfe (k : Nat) (s : State) : State :=
  if (s.core k).waiting = some .event ∧ ¬ (pendingAsync s k).isEmpty then settleCore k 4 (wfeBody k s) else s

/-- The pending and enabled cause of the highest code is taken, between units (R123). -/
def takePending (k : Nat) (s : State) : State :=
  let s1 := completeWfe k s
  match nextAsync s1 k with
  | some x => takeAsync s1 k x
  | none => s1

/-- ASYNC_CAUSE_TAKEN: the pending and enabled cause of the highest code, between units. -/
def execAsyncCauseTaken (k : Nat) (s : State) : Host.Outcome State Fault Refusal :=
  .next (if coreRuns s k && (s.core k).pfx.isNone && (nextAsync s k).isSome then takePending k s else s)

/-- WAIT_COMPLETE: an instruction that waits completes once its condition holds, and waits on otherwise (R146, R255, R365).
One that waits for room is issued again by the core's next step. -/
def execWaitComplete (k : Nat) (s : State) : Host.Outcome State Fault Refusal :=
  .next (if coreRuns s k then
    match (s.core k).waiting with
    | some .event => settleCore k 4 (wfeBody k s)
    | some (.anyTag d m) => settleCore k 4 (cwanyBody d m k s)
    | some (.allTags m) => settleCore k 4 (cwallBody m k s)
    | some (.barrier d a b low) => settleCore k 4 (bwaitCore d a b low k s)
    | some .reissue => s
    | some (.steal _) => s
    | none => s
  else s)

end Sys2Proof.Machine
end

