-- ==== Sys2Proof/Machine/Sched.lean ====
section
/-! DEFINITION. The launch scheduler: commands, the Gorif image, launch, admission, STEP, quiescence and the watchdog
(R106, R111, R328, R339 to R350, R430). -/

namespace Sys2Proof.Machine

/-! ### Commands (R339) -/

/-- The opcodes of R339. -/
def opLOAD : Nat := 1
/-- LAUNCH. -/
def opLAUNCH : Nat := 2
/-- CANCEL. -/
def opCANCEL : Nat := 3
/-- UNLOAD. -/
def opUNLOAD : Nat := 4

/-- A command waits while its queue is HELD or its context is not OPEN or ACTIVE (R313, R324). -/
def cmdMay (s : State) (e : Nat × Nat × Nat) : Bool :=
  qState (qCtl s e.1 e.2.1) != 3 && ((s.ctx e.1).st == .opened || (s.ctx e.1).st == .active)

/-- The command that the scheduler carries out next (R339): the first accepted one that need not wait. -/
def nextCmd (s : State) : Option (Nat × Nat × Nat) := s.cmds.find? (cmdMay s)

/-- The next command, of queue `q` of context `c` and of operation `op`, is carried out by `f`, which is given its 64
bytes; HEAD then moves past it. -/
def carryOut (s : State) (c q op : Nat) (f : State → List Byte → State) : State :=
  match nextCmd s with
  | none => s
  | some e =>
    let (base, ctl, _, _) := schedQueue s c q
    let l := cmdEntry s c base ctl e.2.2
    if e.1 = c ∧ e.2.1 = q ∧ (l.headD 0).toNat = op then
      moveHead (f { s with cmds := s.cmds.filter (· != e) } l) c q
    else s

/-- A 64-bit operand of a command at byte `o`. -/
def operand (l : List Byte) (o : Nat) : Nat := numOf ((l.drop o).take 8)

/-- The result word: HANDLE and STATUS (R339). -/
def putResult (s : State) (c a handle status : Nat) : State :=
  schedWrite s c a (bytesOf (handle % 2 ^ 16 + status % 2 ^ 8 * 2 ^ 16) 8)

/-! ### The image (R111) -/

/-- `n` bytes of an image from `o` as a number. -/
def imgNum (m : List Byte) (o n : Nat) : Nat := numOf ((m.drop o).take n)

/-- Section table entry `i`: kind, length and offset. -/
def imgSec (m : List Byte) (i : Nat) : Nat × Nat × Nat :=
  let o := imgNum m 0x10 8 + 16 * i
  (imgNum m o 2, imgNum m (o + 4) 4, imgNum m (o + 8) 8)

/-- Offset of the section of kind `n`. -/
def secOff (m : List Byte) (n : Nat) : Nat := (imgSec m (n - 1)).2.2

/-- Length of the section of kind `n`. -/
def secLen (m : List Byte) (n : Nat) : Nat := (imgSec m (n - 1)).2.1

/-- The bytes of the section of kind `n`. -/
def secBytes (m : List Byte) (n : Nat) : List Byte := (m.drop (secOff m n)).take (secLen m n)

/-- The header check of R340 on the first 64 bytes. DESIGN CHOICE (log entry 74): nonzero reserved fields of the image are
ignored. -/
def headerOk (m : List Byte) (len : Nat) : Bool :=
  decide (64 ≤ len) && imgNum m 0 4 == 0x46524F47 && imgNum m 4 2 == 1 && imgNum m 6 2 == 1 && imgNum m 8 4 == len

/-- The section table check of R111 and R340: it follows the header; ten entries of kinds 1 to 10 in order, each section aligned
on 64 bytes, after the table, in that order in the image and within LENGTH. -/
def sectionsOk (m : List Byte) : Bool :=
  let tab := imgNum m 0x10 8
  imgNum m 0xC 2 == 10 && decide (64 ≤ tab) && decide (tab + 160 ≤ m.length) &&
    (List.range 10).all (fun i =>
      let (kind, len, off) := imgSec m i
      kind == i + 1 && off % 64 == 0 && decide (off + len ≤ m.length) &&
        decide ((if i = 0 then tab + 160 else (imgSec m (i - 1)).2.2 + (imgSec m (i - 1)).2.1) ≤ off))

/-- The image's signature covers every byte before the SIGNATURE section (R111). -/
def imgSigned (s : State) (m : List Byte) : Bool :=
  decide (392 ≤ secLen m 10) && signatureOk s (m.take (secOff m 10)) (secBytes m 10)

/-- Tile records from offset `p`, `n` of them: their offsets, and where the next page header stands. -/
def imgRecords (m : List Byte) : (n p : Nat) → List Nat → List Nat × Nat
  | 0, p, l => (l, p)
  | n + 1, p, l => imgRecords m n (p + (recLen (BitVec.ofNat 32 (imgNum m p 4)) + 7) / 8 * 8) (l ++ [p])

/-- The pages of the PAGES section from offset `p` to `stop`; record addresses are counted from the image. DESIGN CHOICE (log entry
74): a REGION of 64 or more is taken modulo 64. -/
def imgPages (m : List Byte) (stop : Nat) : (fuel p : Nat) → List ImgPage
  | 0, _ => []
  | n + 1, p =>
    if stop ≤ p then []
    else
      let (recs, next) := imgRecords m (imgNum m (p + 6) 2) (p + 16) []
      { region := imgNum m (p + 2) 1 % 64, w := imgNum m (p + 3) 1, h := imgNum m (p + 4) 1,
        pinned := imgNum m (p + 5) 1 % 2 == 1, recs := recs } :: imgPages m stop n next

/-- The gangs of the GANGS section: page indices of each. DESIGN CHOICE (log entry 74): a COUNT above 32 names 32 pages. -/
def imgGangs (m : List Byte) : List (List Nat) :=
  (List.range (secLen m 2 / 68)).map (fun g =>
    let o := secOff m 2 + 68 * g
    (List.range (min (imgNum m o 2) 32)).map (fun i => imgNum m (o + 4 + 2 * i) 2))

/-- The regions of the REGIONS section: declared, width, height. -/
def imgRegions (m : List Byte) : List (Bool × Nat × Nat) :=
  (List.range (min 64 (secLen m 3 / 4))).map (fun v =>
    let o := secOff m 3 + 4 * v
    (imgNum m o 1 % 2 == 1, imgNum m (o + 1) 1, imgNum m (o + 2) 1))

/-- The pages of an image keep the limits of R107 and their section, and each gang names pages that exist. DESIGN CHOICE (log
entry 74): an image that breaks this fails with status 1. -/
def imgShape (m : List Byte) : Bool :=
  let ps := imgPages m (secOff m 1 + secLen m 1) (secLen m 1) (secOff m 1)
  ps.all (fun p => decide (1 ≤ p.w) && decide (p.w ≤ 16) && (p.h == 4 || p.h == 8)) &&
    (imgGangs m).all (fun g => !g.isEmpty && g.all (fun i => decide (i < ps.length)))

/-! ### Relocation (R106, R340) -/

/-- The next multiple of 64. -/
def align64 (a : Nat) : Nat := (a + 63) / 64 * 64

/-- The address at which LOAD places the section of kind 5, 6 or 7 (R340). -/
def secAddr (m : List Byte) (base : Nat) : Nat → Nat
  | 5 => align64 base
  | 6 => align64 (align64 base + secLen m 5)
  | _ => align64 (align64 (align64 base + secLen m 5) + secLen m 6)

/-- The load address of symbol `i`; none where there is no such entry or its KIND is neither 0 nor 1 (R111). -/
def symAddr (m : List Byte) (base i : Nat) : Option Nat :=
  let o := secOff m 9 + 8 + 16 * i
  let kind := imgNum m (o + 4) 1
  let sec := imgNum m (o + 5) 1
  if i < imgNum m (secOff m 9) 8 ∧ kind ≤ 1 ∧ 5 ≤ sec ∧ sec ≤ 7 then
    some (secAddr m base sec + imgNum m (o + 8) 8)
  else none

/-- The 32-bit word of four bytes as instructions are stored, its high halfword first (R79). -/
def unitWord (l : List Byte) : Nat := numOf (l.take 2) * 2 ^ 16 + numOf ((l.drop 2).take 2)

/-- The bytes of a 32-bit unit as stored (R79). -/
def unitBytes (w : Nat) : List Byte := bytesOf (w / 2 ^ 16) 2 ++ bytesOf w 2

/-- The field of an EXT unit `l` (R91): the prefix's payload above the low `n` bits of the governed word, sign-extended. -/
def extField (l : List Byte) (n : Nat) : Int :=
  sextInt (numOf (l.take 2) % 2 ^ 11 * 2 ^ n + unitWord (l.drop 2) % 2 ^ n) (n + 11)

/-- The bytes of an EXT unit with that field replaced. -/
def putExtField (l : List Byte) (n : Nat) (v : Int) : List Byte :=
  let p := wrapPat v (n + 11)
  let e := numOf (l.take 2)
  let w := unitWord (l.drop 2)
  bytesOf (e / 2 ^ 11 * 2 ^ 11 + p / 2 ^ n) 2 ++ unitBytes (w / 2 ^ n * 2 ^ n + p % 2 ^ n)

/-- An integer is a signed number of `n` bits. -/
def fitsSigned (v : Int) (n : Nat) : Bool := decide (-(2 ^ (n - 1) : Int) ≤ v) && decide (v < (2 ^ (n - 1) : Int))

/-- The bytes of a relocated item (R106): `old` are its bytes, `a` its address, `sym` the load address of its symbol; none
where the value does not fit. -/
def relocated (kind a sym : Nat) (old : List Byte) : Option (List Byte) :=
  let s64 := sextInt sym 64
  match kind with
  | 1 => let v := sym + numOf old; if v < 2 ^ 32 then some (bytesOf v 4) else none
  | 2 => let v := sym + numOf old; if v < 2 ^ 16 then some (bytesOf v 2) else none
  | 3 => let v := s64 + extField old 12; if fitsSigned v 23 then some (putExtField old 12 v) else none
  | 4 => let v := s64 + extField old 20; if fitsSigned v 31 then some (putExtField old 20 v) else none
  | 5 =>
    let v := s64 + 2 * extField old 20 - sextInt (a + 2) 64
    if v % 2 = 0 ∧ fitsSigned (v / 2) 31 then some (putExtField old 20 (v / 2)) else none
  | _ => none

/-- The bytes of an item of a relocation kind. -/
def relocSize (kind : Nat) : Nat := if kind = 1 then 4 else if kind = 2 then 2 else 6

/-- A read of LOAD by the scheduler: R is needed, and U is not checked (R189, R340). -/
def loadRead (s : State) (c va n : Nat) : Except (Cause × Word64) (List Byte × State) :=
  readVa s { engReq s .sched .data c with user := false } va n (pieces n)

/-- Relocation entry `i` applied in memory (R106, R340): its status where it fails. DESIGN CHOICE (log entry 74): an entry of an
unknown kind, one for another section, and one past its section fail with status 3 as a misfit does. -/
def relocOne (s : State) (c : Nat) (m : List Byte) (base i : Nat) : Except Nat State :=
  let o := secOff m 8 + 16 * i
  let kind := imgNum m (o + 8) 2
  let sec := imgNum m (o + 10) 2
  let off := imgNum m o 8
  if kind = 0 ∨ 5 < kind ∨ sec < 5 ∨ 7 < sec ∨ secLen m sec < off + relocSize kind then .error 3
  else
    let a := secAddr m base sec + off
    match symAddr m base (imgNum m (o + 12) 4) with
    | none => .error 3
    | some sym =>
      match loadRead s c a (relocSize kind) with
      | .error _ => .error 5
      | .ok (old, s1) =>
        match relocated kind a sym old with
        | none => .error 3
        | some l =>
          match writeVa s1 (engReq s1 .sched .data c) a l 3 with
          | .ok s2 => .ok s2
          | .error _ => .error 5

/-- Sections and relocations placed one after the other, until one fails: the state they leave and a status. -/
def placeAll (f : State → Nat → Except Nat State) : List Nat → State → State × Option Nat
  | [], s => (s, none)
  | i :: r, s =>
    match f s i with
    | .ok s1 => placeAll f r s1
    | .error st => (s, some st)

/-- CODE, DATA or CONST copied to its place (R340). -/
def copySection (c : Nat) (m : List Byte) (base : Nat) (s : State) (kind : Nat) : Except Nat State :=
  match writeVa s (engReq s .sched .data c) (secAddr m base kind) (secBytes m kind) (pieces (secLen m kind)) with
  | .ok s1 => .ok s1
  | .error _ => .error 5

/-- The kernel that LOAD records (R340). -/
def imgKernel (m : List Byte) (c handle image : Nat) : Kernel where
  ctx := c
  handle := handle
  pages := (imgPages m (secOff m 1 + secLen m 1) (secLen m 1) (secOff m 1)).map (fun p =>
    { p with recs := p.recs.map (image + ·) })
  gangs := imgGangs m
  regions := imgRegions m
  digest := sha256 (m.take (secOff m 10))

/-- The lowest free kernel handle of a context (R340). -/
def freeHandle (s : State) (c : Nat) : Option Nat :=
  (List.range 64).find? (fun h => !s.kernels.any (fun k => k.ctx == c && k.handle == h))

/-- Kernel `h` of a context. -/
def State.kernel (s : State) (c h : Nat) : Option Kernel := s.kernels.find? (fun k => k.ctx == c && k.handle == h)

/-- Steps 3 and 4 of LOAD (R340): the status and the handle. -/
def loadPlace (s : State) (c image base : Nat) (m : List Byte) : State × Nat × Nat :=
  match placeAll (copySection c m base) [5, 6, 7] s with
  | (s1, some st) => (s1, st, 0)
  | (s1, none) =>
    match placeAll (fun s i => relocOne s c m base i) (List.range (secLen m 8 / 16)) s1 with
    | (s2, some st) => (s2, st, 0)
    | (s2, none) =>
      match freeHandle s2 c with
      | none => (s2, 4, 0)
      | some h => ({ s2 with kernels := s2.kernels ++ [imgKernel m c h image] }, 0, h)

/-- LOAD (R340): the status and the handle. -/
def loadImage (s : State) (c image len base : Nat) : State × Nat × Nat :=
  if image % 64 ≠ 0 then (s, 1, 0)
  else match loadRead s c image 64 with
    | .error _ => (s, 5, 0)
    | .ok (h, s1) =>
      if headerOk h len then
        match loadRead s1 c image len with
        | .error _ => (s1, 5, 0)
        | .ok (m, s2) =>
          if !sectionsOk m || !imgShape m then (s2, 1, 0)
          else if !imgSigned s2 m then (s2, 2, 0)
          else loadPlace s2 c image base m
      else (s1, 1, 0)

/-- LOAD carried out. -/
def loadCmd (c : Nat) (s : State) (l : List Byte) : State :=
  let (s1, st, h) := loadImage s c (operand l 8) (operand l 16) (operand l 32)
  putResult s1 c (operand l 24) h st

/-- LOAD (R339, R340). -/
def execLoad (c q : Nat) (s : State) : Host.Outcome State Fault Refusal := .next (carryOut s c q opLOAD (loadCmd c))

/-! ### UNLOAD and CANCEL (R341, R346) -/

/-- UNLOAD carried out: refused while a job of the kernel is not final (R341). -/
def unloadCmd (c : Nat) (s : State) (l : List Byte) : State :=
  let h := bits (l.getD 8 0) 5 0
  if (s.liveJobs c).any (fun j => j.kernel == h) then s
  else { s with kernels := s.kernels.filter (fun k => !(k.ctx == c && k.handle == h)) }

/-- CANCEL carried out: a number of no non-final job has no effect (R346). -/
def cancelCmd (c : Nat) (s : State) (l : List Byte) : State := endJob s c (operand l 8 % 2 ^ 16) .cancelled 0

/-- UNLOAD (R339, R341). -/
def execUnload (c q : Nat) (s : State) : Host.Outcome State Fault Refusal := .next (carryOut s c q opUNLOAD (unloadCmd c))

/-- CANCEL (R339, R346). -/
def execCancel (c q : Nat) (s : State) : Host.Outcome State Fault Refusal := .next (carryOut s c q opCANCEL (cancelCmd c))

/-! ### Launch (R342, R343) -/

/-- A step list entry from its 16 bytes. -/
def stepEntry (l : List Byte) : StepEntry :=
  ⟨imgNum l 0 4, imgNum l 4 2, imgNum l 6 2 % 2 == 1, imgNum l 8 4 % 2 ^ 19⟩

/-- The 16 bytes of a step list entry keep R343. -/
def stepOk (k : Kernel) (l : List Byte) : Bool :=
  decide (imgNum l 6 2 ≤ 1) && decide (imgNum l 8 4 < 2 ^ 19) && imgNum l 12 4 == 0 &&
    (match k.gangs[imgNum l 4 2]? with
      | none => false
      | some g => g.any (fun i => ((k.pages[i]?).map (·.region)) == some (imgNum l 8 4 % 64)))

/-- The relocation entry of a declared region at launch (R379). -/
def launchEntry (r : Bool × Nat × Nat) (die : Nat) : Reloc :=
  ⟨r.1, false, false, false, die, 0, 0, r.2.1 - 1, r.2.2 == 8, 0, 0, [0, 1, 2, 3]⟩

/-- Die of region `v` in a DIEMAP. -/
def mapDie (dm v : Nat) : Nat := dm / 2 ^ (2 * v) % 4

/-- The page of image page `p` at launch: ABSENT (R379). -/
def launchPage (c num ix dm : Nat) (p : ImgPage) : Page where
  ctx := c
  job := num
  ix := ix
  region := p.region
  w := p.w
  h := p.h
  st := .absent
  pinned := p.pinned
  frz := false
  die := mapDie dm p.region
  bx := 0
  byy := 0
  skip := 0
  records := []
  retried := []
  save := none
  reserved := false
  load := none
  evicting := false
  drained := false
  stamp := 0
  attempt := false

/-- The job that a LAUNCH makes (R342, R356). -/
def launchJob (s : State) (c q num h : Nat) (steps : List StepEntry) (jrec done dm : Nat) (k : Kernel) : Job where
  ctx := c
  num := num
  kernel := h
  queue := q
  st := .queued
  cause := 0
  steps := steps
  cstep := skipSteps steps 0 steps.length
  its := 0
  first := true
  jrec := jrec
  doneCtr := done
  gangs := steps.foldl (fun t e => t.put e.gang GangState.declared) []
  reloc := k.regions.mapIdx (fun v r => (v, launchEntry r (mapDie dm v)))
  snap := none
  order := 0
  since := s.micros
  act := s.micros

/-- The lowest job number that no non-final job of a context holds (R342). -/
def freeJobNum (s : State) (c : Nat) : Nat :=
  ((List.range 65536).find? (fun n => n != 0 && (s.findJob c n).isNone)).getD 0

/-- A DIEMAP names an absent die for a declared region (R342). -/
def mapAbsent (s : State) (k : Kernel) (dm : Nat) : Bool :=
  (List.range k.regions.length).any (fun v => ((k.regions[v]?).map (·.1)) == some true && !s.present (mapDie dm v))

/-- The checks of a LAUNCH in the order of R342: the kernel and the step list, or a status. -/
def launchCheck (s : State) (c : Nat) (l : List Byte) : Except Nat (Kernel × List StepEntry × State) :=
  let w := operand l 8
  match s.kernel c (w % 64) with
  | none => .error 7
  | some k =>
    let n := w / 2 ^ 16 % 2 ^ 16
    if n = 0 ∨ operand l 24 % 64 ≠ 0 ∨ w / 64 % 2 ^ 10 ≠ 0 ∨ w / 2 ^ 32 ≠ 0 then .error 1
    else if mapAbsent s k (numOf ((l.drop 48).take 16)) then .error 8
    else match schedRead s c (operand l 16) (16 * n) with
      | .error _ => .error 5
      | .ok (b, s1) =>
        let es := (List.range n).map (fun i => (b.drop (16 * i)).take 16)
        if !es.all (stepOk k) then .error 9
        else if 1024 ≤ s1.jobs.countP (fun j => !jobFinal j) then .error 10
        else .ok (k, es.map stepEntry, s1)

/-- LAUNCH carried out: the job with its pages in state QUEUED (R342). -/
def launchCmd (c q : Nat) (s : State) (l : List Byte) : State :=
  let res := operand l 32
  let report := fun (s : State) (h st : Nat) => if res = 0 then s else putResult s c res h st
  match launchCheck s c l with
  | .error st => report s 0 st
  | .ok (k, steps, s1) =>
    let num := freeJobNum s1 c
    let dm := numOf ((l.drop 48).take 16)
    let j := launchJob s1 c q num (operand l 8 % 64) steps (operand l 24) (operand l 40) dm k
    let s2 := { s1 with
      jobs := s1.jobs.filter (fun x => !(x.ctx == c && x.num == num)) ++ [j],
      pages := s1.pages ++ k.pages.mapIdx (fun ix p => launchPage c num ix dm p) }
    report (setJobState s2 c num .queued 0) num 0

/-- LAUNCH (R339, R342). -/
def execLaunch (c q : Nat) (s : State) : Host.Outcome State Fault Refusal := .next (carryOut s c q opLAUNCH (launchCmd c q))

/-! ### Admission (R328, R346, R347) -/

/-- eff of a job: of its wait while it counts as queued, and without one while it is resident (R328, R347). -/
def jobEff (s : State) (j : Job) : Nat :=
  effOf s j.ctx (qCtl s j.ctx j.queue) (if j.st = .queued ∨ j.st = .preempted then s.micros - j.since else 0)

/-- The jobs that an admission decision may take (R328): the head of each queue, of context 0 or of the tenant that has the
fabric (R314). -/
def heads (s : State) : List Job :=
  s.jobs.filter (fun j => (j.st == .queued || j.st == .preempted) &&
    ((headJob s j.ctx j.queue).map (·.num)) == some j.num && ((s.ctx j.ctx).st == .opened || (s.ctx j.ctx).st == .active) &&
    (j.ctx == 0 || (s.ctx j.ctx).tenant == s.tenant))

/-- How far queue (c, q) stands behind the one last served at a level (R328). -/
def turnOf (s : State) (level c q : Nat) : Nat :=
  let last := match s.served.find? (fun e => e.1 == level) with
    | some e => 256 * e.2.1 + e.2.2
    | none => 65535
  (256 * c + q + 65535 - last) % 65536

/-- Head `a` goes before head `b` (R328). -/
def headFirst (s : State) (a b : Job) : Bool :=
  decide (jobEff s b < jobEff s a) ||
    (jobEff s a == jobEff s b && decide (turnOf s (jobEff s a) a.ctx a.queue < turnOf s (jobEff s b) b.ctx b.queue))

/-- A head put in its place among others. -/
def insertHead (s : State) (j : Job) : List Job → List Job
  | [] => [j]
  | x :: r => if headFirst s j x then j :: x :: r else x :: insertHead s j r

/-- The heads in the order in which they are taken. -/
def headOrder (s : State) : List Job := (heads s).foldl (fun l j => insertHead s j l) []

/-- The tiles of a job's current gang (R354). -/
def curTiles (s : State) (j : Job) : Nat := match curGang j with | some g => gangTiles s j g | none => 0

/-- The head fits its context's quota now (R328, R346). -/
def fitsNow (s : State) (j : Job) : Bool := decide (curTiles s j + residentTiles s j.ctx ≤ quotaTiles s j.ctx)

/-- The fabric is full for a page (R347): no position, even with the pages that leave and the unpinned pages of its own
context away. -/
def noPlace (s : State) (p : Page) : Bool :=
  (findPosition s p false (fun t => !(s.isle (tileIsle t)).fenced &&
    s.pages.all (fun q => !inPage q t || q.st == .draining || (q.ctx == p.ctx && !pagePinned s q))) (fun _ _ _ => true)).isNone

/-- The fabric is full for a job's current gang (R347). -/
def fabricFull (s : State) (j : Job) : Bool :=
  match curGang j with
  | none => false
  | some g => (gangPages s j g).any (fun ix =>
      match s.page j.ctx j.num ix with
      | some p => !pagePlaced p && noPlace s p
      | none => false)

/-- A job holds pages in the fabric (R347). -/
def holdsPages (s : State) (j : Job) : Bool :=
  (j.st == .placing || j.st == .pageWait || j.st == .running) &&
    s.pages.any (fun p => p.ctx == j.ctx && p.job == j.num && pagePlaced p)

/-- The job that gives way to a head (R347): the lowest eff, and the one admitted last among equals. -/
def givesWay (s : State) (j : Job) : Option Job :=
  (s.jobs.filter (fun x => holdsPages s x && x.ctx != j.ctx && decide (jobEff s x < jobEff s j))).foldl (fun b x =>
    match b with
    | none => some x
    | some y => if jobEff s x < jobEff s y ∨ (jobEff s x = jobEff s y ∧ y.order < x.order) then some x else some y) none

/-- A QUEUED job is admitted, and a PREEMPTED one chosen again (R313, R346, R356). -/
def admitJob (s : State) (j : Job) : State :=
  let s0 := { s with served := s.served.put (jobEff s j) (j.ctx, j.queue) }
  if j.st = .preempted then
    if j.steps.length ≤ j.cstep then setJobState s0 j.ctx j.num .draining 0
    else requestGang (setJobState s0 j.ctx j.num .placing 0) j.ctx j.num
  else
    let s1 := { s0.updJob j.ctx j.num (fun x => { x with order := s0.orders }) with orders := s0.orders + 1 }
    let s2 := setJobState s1 j.ctx j.num .admitted 0
    enterConfig (if (s2.ctx j.ctx).st = .opened then setCtxState s2 j.ctx .active else s2) j.ctx j.num

/-- One admission decision (R328, R346, R347): the first head in order that fits its quota, or a head whose gang exceeds the
context's whole TILES quota, which faults. -/
def admissionStep (s : State) : State :=
  if s.tslot.isSome then s
  else match (headOrder s).find? (fun j => decide (quotaTiles s j.ctx < curTiles s j) || fitsNow s j) with
    | none => s
    | some j =>
      if quotaTiles s j.ctx < curTiles s j then fenceJob s j.ctx j.num (causeCode .quota)
      else
        let s1 := if fabricFull s j then
            (match givesWay s j with
              | some x => preemptJob s x.ctx x.num
              | none => s)
          else s
        admitJob s1 j

/-- ADMISSION_DECISION (R328, R346, R347). -/
def execAdmissionDecision (s : State) : Host.Outcome State Fault Refusal := .next (admissionStep s)

/-! ### Quiescence and the watchdog (R349, R430) -/

/-- A tile holds work of its page: a task, tokens, an operation or a command (R349). -/
def tileBusy (v : Tile) : Bool :=
  v.cell.task.isSome || !v.cell.ready.isEmpty || !v.cell.latch.isEmpty || !v.captured.isEmpty ||
    v.ops.any (fun e => e.2.inputs.any (fun i => !i.2.isEmpty)) ||
    v.slots.any (fun e => e.2.st != .free) || !v.eng.queue.isEmpty

/-- A token is addressed to a job: its relocation table resolves it (R349, R456). -/
def tokenOf (s : State) (c num : Nat) (f : Flight) : Bool :=
  match flightJob s f with
  | some j => j.ctx == c && j.num == num
  | none => false

/-- A job's tile on the module. -/
def tileOfJob (v : Tile) (c num : Nat) : Bool :=
  match v.base with
  | some b => b.ctx == c && b.job == num && !v.ending
  | none => false

/-- Tokens of a saved page wait in its checkpoint buffer or frames (R391, R392). -/
def saveBusy (v : PageSave) : Bool :=
  v.tiles.any (fun e => tileBusy e.2) || v.frames.any (fun f => f.2.slots.any (fun e => e.2.isSome))

/-- What R349 asks of a DRAINING job. -/
def quiescent (s : State) (c num : Nat) : Bool :=
  let mine := s.tiles.filter (fun e => tileOfJob e.2 c num)
  let own := fun (a b : Nat) => a == c && b == num
  mine.all (fun e => !tileBusy e.2) &&
    (s.flights ++ s.circuits.flatMap (fun e => e.2.retry.flatMap (·.toks))).all (fun f => !tokenOf s c num f) &&
    s.lagoons.all (fun e => !(own e.1.1 e.1.2.1) || e.2.isEmpty) &&
    s.isles.all (fun e => e.2.ops.all (fun o => !own o.ctx o.job) &&
      e.2.templates.all (fun t => !(t.2.armed && own t.2.ctx t.2.job)) &&
      e.2.frames.all (fun f => f.2.st == .free || f.2.ctx != c || !mine.any (fun t => t.1 == f.2.tile) ||
        f.2.slots.all (fun x => x.2.isNone))) &&
    s.dies.all (fun e => match e.2.port.binding with | some b => !own b.ctx b.job | none => true) &&
    s.pages.all (fun p => !own p.ctx p.job || (match p.save with | some v => !saveBusy v | none => true))

/-- JOB_QUIESCENT: a DRAINING job that is quiescent is COMPLETE, and its pages are freed (R346, R349). -/
def execJobQuiescent (c : Nat) (j : Nat) (s : State) : Host.Outcome State Fault Refusal :=
  .next (match s.findJob c j with
    | some x => if x.st = .draining ∧ quiescent s c j then endJob s c j .complete 0 else s
    | none => s)

/-- JOB_WATCHDOG (R430): RUNNING or PAGE_WAIT for WDTO milliseconds with no delivery and no STEP. -/
def execJobWatchdog (c : Nat) (j : Nat) (s : State) : Host.Outcome State Fault Refusal :=
  .next (match s.findJob c j with
    | some x =>
      if (x.st = .running ∨ x.st = .pageWait) ∧ s.mgmt.wdto ≠ 0 ∧ x.act + 1000 * s.mgmt.wdto.toNat ≤ s.micros then
        fenceJob s c j (causeCode .watchdog)
      else s
    | none => s)

/-! ### STEP (R350) -/

/-- Job `n` of a context, final or not. -/
def State.anyJob (s : State) (c n : Nat) : Option Job :=
  match s.findJob c n with
  | some j => some j
  | none => s.jobs.find? (fun j => j.ctx == c && j.num == n)

/-- The program counter of a job as STEP reports it (R344, R350). -/
def jobPc (j : Job) : Nat := j.its % 2 ^ 32 + j.cstep % 2 ^ 16 * 2 ^ 32

/-- The step that a STEP performs on a job that is running or waits (R350, R356): the state after it. The gang that it leaves is
DONE, also where the job is PREEMPTED (log entry 70). -/
def stepJob (s : State) (j : Job) (pts : Nat) : State :=
  let c := j.ctx
  let n := j.num
  let count := ((j.steps[j.cstep]?).map (·.count)).getD 0
  if j.its + 1 < count then
    let j1 := { j with its := j.its + 1 }
    sendStep (s.updJob c n (fun x => { x with its := j.its + 1 })) j1 (some pts)
  else
    let s1 := match curGang j with
      | some g => setGang s c n g .done
      | none => s
    enterConfig (s1.updJob c n (fun x => { x with its := 0, cstep := j.cstep + 1 })) c n

/-- STEP; a lost one has named the job too (R430). A job that is DRAINING has no step left, so no counter but its own can be named, and nothing moves. -/
def stepBody (d : BitVec 5) (a b : Word64) (k : Nat) (s : State) : Done := do
  check (decide (bits a 63 16 = 0)) s .reservedField a
  check (decide (bits b 63 48 = 0)) s .reservedField b
  let c := (s.isle k).ctx
  match s.anyJob c (bits a 15 0) with
  | none => raise s .descInvalid a
  | some j =>
    let pc := jobPc j
    let done := fun (s : State) (v : Nat) => fall (gSet s k d (BitVec.ofNat 64 v))
    let named := s.updJob c j.num (fun x => { x with act := s.micros })
    if jobFinal j then done s (pc + 2 ^ 62)
    else if j.st = .queued ∨ j.st = .admitted then done named (pc + 2 ^ 61)
    else if pc ≠ b.toNat then done named (pc + 2 ^ 63)
    else if j.st = .draining then done named pc
    else
      let s1 := stepJob named j (s.pts (.core k))
      done s1 (((s1.anyJob c (bits a 15 0)).map jobPc).getD pc)

/-- STEP (R101, R350). -/
def execStep (d : BitVec 5) (a : BitVec 5) (b : BitVec 5) (v0 : BitVec 5) (s : State) : Host.Outcome State Fault Refusal :=
  .next (unitC 4 false ⟨.user, v0 == 0, true, fun k s => stepBody d (gGet s k a) (gGet s k b) k s⟩ s)

end Sys2Proof.Machine
end

