-- ==== Sys2Proof/Machine/Context.lean ====
section
/-! DEFINITION. Contexts: their commands and release, the start of a tenant switch, and the save and load of an isle (R308 to
R321). -/

namespace Sys2Proof.Machine

/-! ### Commands (R312, R313) -/

/-- Everything a CLOSING context held has been returned (R313): every job, page, lagoon and task, and on every isle its
scratchpad and FIFO banks, frames, copy operations, templates, bindings and scale registers. Its queues are returned with its
release (log entry 82). -/
def ctxReturned (s : State) (c : Nat) : Bool :=
  (s.liveJobs c).isEmpty && s.pages.all (fun p => p.ctx != c) && s.lagoons.all (fun e => e.1.1 != c) &&
    s.tiles.all (fun e => !e.2.ending || tileCtx s e.1 != c) &&
    s.dies.all (fun e => match e.2.port.binding with | some b => b.ctx != c | none => true) &&
    s.isles.all (fun e =>
      e.2.banks.all (fun b => !(ownedMode b.2.mode && b.2.ctx == c)) &&
        e.2.frames.all (fun f => f.2.st == .free || f.2.ctx != c) && e.2.ops.all (fun o => o.ctx != c) &&
        e.2.templates.all (fun t => !t.2.armed || t.2.ctx != c) &&
        e.2.scales.all (fun r => r.2.st == .free || r.2.ctx != c))

/-- A CLOSING context becomes FREE, its queues OFF and its translations invalid everywhere (R313, R324). -/
def releaseCtx (s : State) (c : Nat) : State :=
  let s1 := moveQueues s c (fun q => q != 0) 0
  let s2 := (s1.isles.map (·.1)).foldl (fun s k =>
    s.updIsle k (fun i => { i with tlb := i.tlb.filter (fun e => e.ctx != c) })) s1
  setCtxState s2 c .free

/-- A command reaches CTXCMD: nothing while BUSY (R312). -/
def contextCommand (s : State) (f : State → State) : State := if bit s.mgmt.ctxcmd 31 then s else f s

/-- CONTEXT_OPEN (R312, R313). -/
def execContextOpen (c : Nat) (s : State) : Host.Outcome State Fault Refusal :=
  .next (contextCommand s (fun s => openStep s (c % 256)))

/-- CONTEXT_CLOSE (R313, R317). -/
def execContextClose (c : Nat) (s : State) : Host.Outcome State Fault Refusal :=
  .next (contextCommand s (fun s => closeStep s (c % 256)))

/-- CONTEXT_KILL (R313, R317). -/
def execContextKill (c : Nat) (s : State) : Host.Outcome State Fault Refusal :=
  .next (contextCommand s (fun s => killStep s (c % 256)))

/-- CONTEXT_RELEASED (R313). -/
def execContextReleased (c : Nat) (s : State) : Host.Outcome State Fault Refusal :=
  .next (if (s.ctx c).st = .closing ∧ ctxReturned s c then releaseCtx s c else s)

/-! ### Tenant switches (R314, R315) -/

/-- The isles that a switch saves (R315). -/
def savingIsles (s : State) (out inc : Nat) : List Nat :=
  (List.range 64).filter (fun k => s.present (isleDie k) &&
    (ofTenant s out (s.isle k).ctx || ((s.isle k).ctx == 0 && incoming s inc k != 0)))

/-- Every resident gang of a tenant is evicted, pinned pages included (R314, R347). -/
def evictTenant (s : State) (t : Nat) : State :=
  let s1 := (s.jobs.filter (fun j => ofTenant s t j.ctx && !jobFinal j)).foldl (fun s j => preemptJob s j.ctx j.num) s
  (s1.pages.filter (fun p => ofTenant s t p.ctx && p.st == .resident)).foldl (fun s p =>
    match s.page p.ctx p.job p.ix with
    | some q => evictPage s q
    | none => s) s1

/-- A switch from one tenant to another starts (R314, R315, R369). -/
def startSwitch (s : State) (inc : Nat) : State :=
  let out := s.tenant
  let s1 := skipRecords (evictTenant s out) (ofTenant s out)
  let s2 := moveTenant s1 out .active .slicedOut (fun q => q == 1 || q == 2) 3
  let ks := savingIsles s2 out inc
  let s3 := ks.foldl (fun s k => nameStep s k 1 (s.isle k).ctx) s2
  let drop := fun (s : State) (c : Nat) => s.updCtx c (fun x => { x with savedOn := [] })
  let s4 := ((s3.ctxs.filter (fun e => ofTenant s3 out e.1)).map (·.1)).foldl drop s3
  let w : Switch := ⟨out, inc, ks, ks⟩
  if ks.isEmpty then startLoads s4 w else { s4 with tslot := some w }

/-- The tenant of the highest head that waits behind another tenant (R314, R328). -/
def nextTenant (s : State) : Option Nat :=
  let waits := s.jobs.filter (fun j => (j.st == .queued || j.st == .preempted) && j.ctx != 0 &&
    (s.ctx j.ctx).tenant != s.tenant &&
    ((s.ctx j.ctx).st == .opened || (s.ctx j.ctx).st == .active || (s.ctx j.ctx).st == .slicedOut))
  ((waits.foldl (fun l j => insertHead s j l) []).head?).map (fun j => (s.ctx j.ctx).tenant)

/-- TENANT_SLICE_END (R314): with no other tenant's job queued the tenant keeps the fabric. -/
def execTenantSliceEnd (s : State) : Host.Outcome State Fault Refusal :=
  .next (if s.tslot.isSome ∨ s.micros < s.slice + s.mgmt.tslice.toNat then s
    else match nextTenant s with
      | none => { s with slice := s.micros }
      | some t => startSwitch s t)

/-- A supervisor reports the step of isle `k` done (R315); a SAVE records where the context's state lies, unless the context has
been fenced or closed since (R313). -/
def tswDone (s : State) (k : Nat) : State :=
  let i := s.isle k
  if tswOp i = 0 then s
  else
    let c := tswCtx i
    let s1 := clearTsw s k
    let live := (s.ctx c).st = .opened ∨ (s.ctx c).st = .active ∨ (s.ctx c).st = .slicedOut
    let s2 := if tswOp i = 1 ∧ c ≠ 0 ∧ live then s1.updCtx c (fun x => { x with savedOn := insertOnce x.savedOn k }) else s1
    stepOver s2 k

/-- TSW_DONE (R315). -/
def execTswDone (k : Nat) (s : State) : Host.Outcome State Fault Refusal := .next (tswDone s k)

/-- The step of isle `k` has not been reported in WDTO milliseconds (R315). -/
def tswExpired (s : State) (k : Nat) : Bool :=
  s.mgmt.wdto != 0 && decide ((s.isle k).tswAt + 1000 * s.mgmt.wdto.toNat ≤ s.micros)

/-- TSW_TIMEOUT (R315): the context is fenced with WATCHDOG; a save is discarded and the switch goes on, and a load names context
0 instead. The fence of another context than 0 ends its saves itself. -/
def execTswTimeout (k : Nat) (s : State) : Host.Outcome State Fault Refusal :=
  .next (
    let i := s.isle k
    if tswOp i = 0 ∨ ¬ tswExpired s k then s
    else
      let s1 := fenceCtx s (tswCtx i) (causeCode .watchdog)
      if tswOp i = 1 then (if tswOp (s1.isle k) = 1 then stepOver (clearTsw s1 k) k else s1) else nameStep s1 k 2 0)

/-! ### The save area (R319) -/

/-- The bytes before the scale registers of an area. -/
def areaFixed : Nat := 0x27C0

/-- Where the bank images begin: 128 KiB aligned in the area. -/
def areaBanks (n : Nat) : Nat := (areaFixed + 576 * n + 0x1FFFF) / 0x20000 * 0x20000

/-- The length of an area. -/
def areaLen (nscale nbank : Nat) : Nat := if nbank = 0 then areaFixed + 576 * nscale else areaBanks nscale + 0x20000 * nbank

/-- The scale registers of a context on an isle, ascending. -/
def heldScales (i : Isle) (c : Nat) : List Nat :=
  (List.range 256).filter (fun r => (i.scale r).st != .free && (i.scale r).ctx == c)

/-- The SCRATCH and FIFO banks of a context on an isle, ascending. -/
def heldBanks (i : Isle) (c : Nat) : List Nat :=
  (List.range 256).filter (fun n => ownedMode (i.bank n).mode && (i.bank n).ctx == c)

/-- The position of a register among the saved ones. -/
def ordinalOf (l : List Nat) (r : Nat) : Option Nat := (List.range l.length).find? (fun i => l[i]? == some r)

/-- The buffers in a context's banks. -/
def heldBuffers (i : Isle) (c : Nat) : List BufEntry := (i.dir.filter (fun e => (i.bank (bankOf e.base)).ctx == c)).take 512

/-- A directory entry as it is saved: base, then valid [9], CUR [8] and the saved ordinal [7:0] (R284, R319). -/
def saveBuffer (i : Isle) (c : Nat) (regs : List Nat) (e : BufEntry) : List Byte :=
  let h := i.header e.base
  let r := fieldOf h 47 40
  let cur := fieldOf h 35 35 == 1 && tagCurrent i c (some (r, fieldOf h 39 36))
  bytesOf e.base 8 ++ bytesOf (2 ^ 9 + (if cur then 2 ^ 8 + (ordinalOf regs r).getD 0 else 0)) 8

/-- A list of bytes filled up with zeros. -/
def padTo (l : List Byte) (n : Nat) : List Byte := l ++ List.replicate (n - l.length) 0

/-- A scale register as it is saved. -/
def saveScale (v : ScaleReg) : List Byte :=
  padTo ((List.range 256).flatMap (fun w => bytesOf (v.word w).toNat 2) ++ bytesOf (b2n (v.st == .named)) 1) 576

/-- The entries that a context's STREAM queues of an isle store in its FIFO banks: hardware queues in order, the oldest first
(R334, log entry 20). -/
def storedStreams (i : Isle) (c : Nat) : List Token :=
  (i.hwq.filter (fun e => (e.2.bound.map (·.1)) == some c)).flatMap (fun e => e.2.toks)

/-- A bank as it is saved: a SCRATCH bank's bytes, or a FIFO bank's 2,048 entries of 64 bytes. -/
def saveBank (i : Isle) (n : Nat) : List Byte :=
  if (i.bank n).mode = .scratch then i.spmRead (2 ^ 17 * n) (2 ^ 17)
  else
    let m := ((heldBanks i i.ctx).filter (fun b => b < n && (i.bank b).mode == .fifo)).length
    padTo ((((storedStreams i i.ctx).drop (2048 * m)).take 2048).flatMap streamImage) (2 ^ 17)

/-- The fixed part of an area (R319). -/
def saveFixed (i : Isle) : List Byte :=
  let c := i.ctx
  let regs := heldScales i c
  let banks := heldBanks i c
  let k := i.core
  bytesOf (c % 256 + i.tenant % 256 * 2 ^ 8 + banks.length * 2 ^ 16 + regs.length * 2 ^ 25) 8 ++
    [k.fcsr, k.lease, k.ptroot, k.tvec, i.ctb, i.cerr].flatMap (fun w => bytesOf w.toNat 8) ++
    bytesOf (b2n k.event) 8 ++ (List.range 64).flatMap (fun t => bytesOf (i.tagTime.get 0 t) 8) ++
    List.replicate 512 (0 : Byte) ++
    (List.range 256).flatMap (fun n => bytesOf (match (i.scaleName c n).bind (ordinalOf regs) with
      | some o => 2 ^ 15 + o
      | none => 0) 2) ++
    (List.range 256).flatMap (fun n => bytesOf (if banks.contains n then 2 ^ 7 + bankCode (i.bank n).mode else 0) 1) ++
    padTo ((heldBuffers i c).flatMap (saveBuffer i c regs)) 8192 ++
    (List.range 16).flatMap (fun p => bytesOf (i.ports.get 0 p).toNat 8)

/-- The whole area of an isle's loaded context. -/
def saveArea (i : Isle) : List Byte :=
  let regs := heldScales i i.ctx
  let banks := heldBanks i i.ctx
  let l := saveFixed i ++ regs.flatMap (fun r => saveScale (i.scale r))
  if banks.isEmpty then l else padTo l (areaBanks regs.length) ++ banks.flatMap (saveBank i)

/-- The addresses at which the translation of an area is checked: each 4 KiB of it, which have one home (R191). -/
def areaPages (a n : Nat) : List Nat := (List.range ((n + 4095) / 4096)).map (fun i => a + 4096 * i)

/-- The translation of an area under R195: a kind other than COH raises S1_PERM (R320). -/
def areaCheck (rq : Req) (acc : Access) : List Nat → State → Except (Cause × Word64) State
  | [], s => .ok s
  | a :: r, s =>
    match translate s rq (BitVec.ofNat 64 a) acc with
    | .error e => .error e
    | .ok (l, s1) => if l.kind = 0 ∧ ¬ l.dev then areaCheck rq acc r s1 else .error (.s1Perm, BitVec.ofNat 64 a)

/-- What of the loaded context keeps isle `k` from being saved (R320). -/
def isleBusy (s : State) (k : Nat) : Bool :=
  let i := s.isle k
  let c := i.ctx
  s.pages.any (fun p => p.ctx == c && (p.st == .resident || p.st == .draining) && (pageTileList p).any (fun t => tileIsle t == k)) ||
    i.frames.any (fun f => f.2.st != .free && f.2.ctx == c) || i.ctb != BitVec.allOnes 64 ||
    (isleTiles k).any (fun t => tileCtx s t == c && (s.tile t).base.isSome &&
      ((s.cell t).task.isSome || (s.tile t).slots.any (fun e => e.2.st != .free))) ||
    i.templates.any (fun e => e.2.armed && e.2.ctx == c) ||
    (match (s.die (isleDie k)).port.binding with | some b => b.isle == k && b.ctx == c | none => false)

/-- The isle after its context has been saved (R320). -/
def savedIsle (i : Isle) : Isle :=
  let c := i.ctx
  let banks := heldBanks i c
  let gone := fun (a : Nat) => banks.contains (bankOf a)
  let i1 := freeScales i c
  { i1 with
    banks := banks.foldl (fun b n => b.put n Bank.reset) i1.banks,
    spm := i1.spm.filter (fun e => !gone e.1), spmUe := i1.spmUe.filter (fun a => !gone a),
    dir := i1.dir.filter (fun e => !gone e.base),
    hwq := i1.hwq.map (fun (q, h) => (q, if (h.bound.map (·.1)) = some c then { h with toks := [] } else h)),
    ctb := BitVec.allOnes 64, cerr := 0, ports := [], saved := true, core := { i1.core with event := false, eventPts := 0 } }

/-- CTXS: the wake entries of the context fire with PASSED = 0 (R366), and the area is written before the isle changes. -/
def ctxsBody (d : BitVec 5) (a : Word64) (k : Nat) (s : State) : Done := do
  check (decide (a.toNat % 4096 = 0)) s .misalignData a
  let i := s.isle k
  let rq := coreReq s k .data
  let n := areaLen (heldScales i i.ctx).length (heldBanks i i.ctx).length
  let s1 ← liftCause s (areaCheck rq .store (areaPages a.toNat n) s)
  if isleBusy s k then fall (gSet s k d 1)
  else
    let s2 ← liftCause s (writeVa s1 rq a.toNat (saveArea i) (pieces n))
    let s3 := fireWakes s2 k (fun e => e.ctx == i.ctx) false
    fall (gSet (s3.updIsle k savedIsle) k d 0)

/-- CTXS (R318, R320). -/
def execCtxs (d : BitVec 5) (a : BitVec 5) (v0 : BitVec 10) (s : State) : Host.Outcome State Fault Refusal :=
  .next (unitC 4 false ⟨.supervisor, v0 == 0, true, fun k s => ctxsBody d (gGet s k a) k s⟩ s)

/-! ### CTXL (R285, R321) -/

/-- `n` bytes of an area from `o` as a number. -/
def areaNum (l : List Byte) (o n : Nat) : Nat := numOf ((l.drop o).take n)

/-- The saved name of register ordinal `i` of an area. -/
def areaName (l : List Byte) (i : Nat) : Option Nat :=
  if areaNum l (areaFixed + 576 * i + 512) 1 % 2 = 0 then none
  else (List.range 256).find? (fun n => areaNum l (0x440 + 2 * n) 2 == 2 ^ 15 + i)

/-- The words of register ordinal `i` of an area. -/
def areaWords (l : List Byte) (i : Nat) : Tbl (BitVec 16) :=
  wordsOf (fun w => BitVec.ofNat 16 (areaNum l (areaFixed + 576 * i + 2 * w) 2))

/-- The saved registers come back in order (R285): the registers they take. -/
def loadScales (l : List Byte) (k c n : Nat) (s : State) : List Nat × State :=
  let (regs, s1) := restoreScale s k c ((List.range n).map (fun i => (i, areaName l i, areaWords l i)))
  (regs.map (·.2), s1)

/-- Directory entry `n` of an area comes back: its tag is current and becomes (new register, 0), or it has none (R285). -/
def loadBuffer (l : List Byte) (regs : List Nat) (i : Isle) (n : Nat) : Isle :=
  let base := areaNum l (0x740 + 16 * n) 8
  let w := areaNum l (0x740 + 16 * n + 8) 8
  if w / 2 ^ 9 % 2 = 0 then i
  else
    let h := withField (i.header base) 35 35 0
    let e : BufEntry := ⟨base, fieldOf h 127 96, 0, false, false⟩
    let i1 := { i with dir := i.dir ++ [e] }
    match (if w / 2 ^ 8 % 2 = 1 then regs[w % 2 ^ 8]? else none) with
    | some r => addLive (i1.setHeader base (withField (withField h 47 36 (tagCode r 0)) 35 35 1)) r
    | none => i1.setHeader base h

/-- The mode of bank `n` in an area's bank map. -/
def areaMode (l : List Byte) (n : Nat) : BankMode := bankModeOf (areaNum l (0x640 + n) 1 % 4)

/-- The image of saved bank `j` in an area. -/
def areaBank (l : List Byte) (nscale j : Nat) : List Byte := (l.drop (areaBanks nscale + 0x20000 * j)).take 0x20000

/-- Bank `e.1` switches to its saved mode and owner, and a SCRATCH bank takes its saved contents; `e.2` is its place among the
saved banks (R180, R321). -/
def loadBank (l : List Byte) (nscale c k : Nat) (s : State) (e : Nat × Nat) : State :=
  let m := areaMode l e.1
  let s1 := switchBank s k e.1 m c
  if m = .scratch then s1.updIsle k (fun i => i.spmWrite (2 ^ 17 * e.1) (areaBank l nscale e.2)) else s1

/-- A token of its stored image (R334). -/
def imageToken (l : List Byte) : Token := ⟨BitVec.ofNat 64 (numOf (l.take 8)), lanesOfBytes ((l.drop 8).take 32)⟩

/-- The entries of the saved FIFO banks of an area, in order. -/
def areaEntries (l : List Byte) (nscale : Nat) (banks : List Nat) : List Token :=
  (banks.mapIdx (fun j n => (n, j))).flatMap (fun e =>
    if areaMode l e.1 = .fifo then
      (List.range 2048).map (fun i => imageToken ((areaBank l nscale e.2).drop (64 * i)))
    else [])

/-- The context's STREAM queues take their entries back, hardware queues in order: TAIL − HEAD of each (R322, R334, log entry
20). -/
def loadStreams (k c : Nat) : List (Nat × HwQueue) → List Token → State → State
  | [], _, s => s
  | (q, h) :: r, l, s =>
    match h.bound with
    | some (b, n) =>
      if b = c then
        let e := qEntry s c n
        let m := schedWord s c (e + 0x18) - schedWord s c (e + 0x10)
        loadStreams k c r (l.drop m) (s.updIsle k (fun i => { i with hwq := i.hwq.put q { h with toks := l.take m } }))
      else loadStreams k c r l s
    | none => loadStreams k c r l s

/-- The registers of an area loaded into a core (R319). -/
def loadCore (l : List Byte) (k : Core) : Core :=
  let w := fun o => BitVec.ofNat 64 (areaNum l o 8)
  { k with
    fcsr := putFcsr k.fcsr (w 8), lease := putLease k.lease (w 0x10), ptroot := putRoot k.ptroot (w 0x18),
    tvec := putTvec k.tvec (w 0x20), event := bit (w 0x38) 0, eventPts := 0 }

/-- The isle with an area loaded into it (R321). -/
def loadArea (s : State) (k : Nat) (l : List Byte) (banks : List Nat) : State :=
  let c := areaNum l 0 1
  let nscale := areaNum l 0 8 / 2 ^ 25 % 2 ^ 9
  let s0 := (banks.mapIdx (fun j n => (n, j))).foldl (loadBank l nscale c k) s
  let s1 := loadStreams k c (s0.isle k).hwq (areaEntries l nscale banks) s0
  let (regs, s2) := loadScales l k c nscale s1
  s2.updIsle k (fun i =>
    let i1 := (List.range 512).foldl (loadBuffer l regs) i
    { i1 with
      core := loadCore l i1.core, ctb := BitVec.ofNat 64 (areaNum l 0x28 8), cerr := BitVec.ofNat 64 (areaNum l 0x30 8),
      tagTime := (List.range 64).map (fun t => (t, areaNum l (0x40 + 8 * t) 8 % 2 ^ 48)),
      ports := (List.range 16).map (fun p => (p, BitVec.ofNat 64 (areaNum l (0x2740 + 8 * p) 8) &&& 0x8000000000FFFE3F)),
      ctx := c, tenant := areaNum l 1 1, saved := false })

/-- The reserved bits of an area of `n` scale registers that software must leave 0 (R12, R319). -/
def areaClean (l : List Byte) (n : Nat) : Bool :=
  decide (areaNum l 0x38 8 < 2) && (List.range n).all (fun i => decide (areaNum l (areaFixed + 576 * i + 512) 64 < 2))

/-- Bank `n` of isle `k` holds pinned lines, so that it cannot leave CACHE yet (R180, R269). -/
def bankPinned (i : Isle) (n : Nat) : Bool := i.l2.any (fun e => e.2.bank == n && e.2.pins != 0)

/-- CTXL: PTROOT is read through the current root, and the rest through PTROOT (R318, R321). A fenced isle takes none
(R428). -/
def ctxlBody (d : BitVec 5) (a : Word64) (k : Nat) (s : State) : Done := do
  if ¬ (s.isle k).saved ∨ (s.isle k).fenced then fall (gSet s k d 1)
  else
    check (decide (a.toNat % 4096 = 0)) s .misalignData a
    let (r, s1) ← liftCause s (readVa s (coreReq s k .data) (a.toNat + 0x18) 8 2)
    let (w, s2) ← liftCause s (readVa s1 { coreReq s k .data with root := BitVec.ofNat 64 (numOf r) } a.toNat 8 2)
    let h := numOf w
    check (decide (h / 2 ^ 34 = 0)) s .reservedField 0
    let rq : Req := { coreReq s k .data with
      root := BitVec.ofNat 64 (numOf r), ctx := h % 256, tenant := h / 2 ^ 8 % 256, direct := false }
    let n := areaLen (h / 2 ^ 25 % 2 ^ 9) (h / 2 ^ 16 % 2 ^ 9)
    let s3 ← liftCause s (areaCheck rq .load (areaPages a.toNat n) s2)
    let (l, s4) ← liftCause s (readVa s3 rq a.toNat n (pieces n))
    check (areaClean l (h / 2 ^ 25 % 2 ^ 9)) s .reservedField 0
    let banks := (List.range 256).filter (fun b => areaNum l (0x640 + b) 1 / 2 ^ 7 % 2 == 1)
    if banks.any (fun b => ((s.isle k).bank b).mode != .cache || ((s.isle k).bank b).busy) then fall (gSet s4 k d 2)
    else
      let ns := h / 2 ^ 25 % 2 ^ 9
      check (decide (ns ≤ (List.range 256).countP (fun r => ((s.isle k).scale r).st == .free)) &&
        decide (ctxScales s k (h % 256) + ns ≤ quotaSreg s (h % 256))) s .quota 0
      if banks.any (bankPinned (s.isle k)) then .error (.wait s .reissue)
      else fall (gSet (loadArea s4 k l banks) k d 0)

/-- CTXL (R318, R321). -/
def execCtxl (d : BitVec 5) (a : BitVec 5) (v0 : BitVec 10) (s : State) : Host.Outcome State Fault Refusal :=
  .next (unitC 4 false ⟨.supervisor, v0 == 0, true, fun k s => ctxlBody d (gGet s k a) k s⟩ s)

end Sys2Proof.Machine
end

