-- ==== Sys2Proof/Machine/Stream.lean ====
section
/-! DEFINITION. Sensor stream ports and their bindings to memory and to the fabric (R250, R251, R253, R415 to R420). -/

namespace Sys2Proof.Machine

/-! ### Binding (R250, R251, R253) -/

/-- The payload of the prefix of STRMI or STRMS (R253). -/
def streamPayload (s : State) (k : Nat) : Nat := extPayload (s.core k).pfx

/-- STOP: the binding that isle `k` made with a tag ends and its tag completes; without one it has no effect (R253). -/
def stopBinding (tag k : Nat) (s : State) : State :=
  match (s.die (isleDie k)).port.binding with
  | some b => if b.isle = k ∧ b.tag = some tag then endBinding s (isleDie k) false else s
  | none => s

/-- The port is free to be bound with a tag (R237 step 1, R253). -/
def bindTags (s : State) (k tag : Nat) : Except Stop Unit := do
  check (!tagPending s k tag) s .tagBusy (BitVec.ofNat 64 tag)
  check ((s.die (isleDie k)).port.binding.isNone) s .tagBusy 0x100

/-- The end of a binding's checks: the port is UP (R253), and the engine has room (R237 step 7). -/
def bindPort (s : State) (k tag : Nat) (b : Binding) : Done := do
  let d := isleDie k
  check ((s.die d).port.st == .up) s .linkDown 0
  if 8 ≤ acceptedOps (s.isle k) then .error (.wait s .reissue)
  else
    let s1 := match b.buf with
      | some a => s.updIsle k (fun i => takeRef i a false)
      | none => s
    fall (startTag (({ s1 with opIds := s1.opIds + 1 } : State).updPort d (fun p => { p with
      bound := p.nslot, binding := some { b with seq := s1.opIds } })) k tag)

/-- A binding of isle `k` for its loaded context. -/
def newBinding (s : State) (k tag : Nat) (kind : BindKind) (w : Word64) (desc : Option Desc) (ring : Nat) : Binding :=
  let c := (s.isle k).ctx
  { kind := kind, isle := k, tag := some tag, ctx := c, job := isleJob s c k, desc := desc, ring := ring, tok := bit w 51,
    tdest := wordDest w, buf := desc.bind (fun d => if d.spm then some d.base else none), ending := false, record := none,
    gapNext := false, seq := 0 }

/-- The shape that DST of STRMI must have (R250). -/
def ringShape (d : Desc) : Bool := d.rank == 2 && d.strides.headD 0 == (fmtBytes d.fmt : Int)

/-- STRMI (R250). -/
def strmiBody (ring w : Word64) (tag k : Nat) (s : State) : Done := do
  bindTags s k tag
  check (wordOk w false true false false) s .reservedField w
  let c := (s.isle k).ctx
  let (d, s1) ← liftCause s (readDesc s (engReq s (.core k) .copy c) (bits w 7 0) (fun f => !fmtIsBlock f))
  check (ringShape d) s .descInvalid (BitVec.ofNat 64 d.tid)
  check (!routeBad s c w) s .routeInvalid 0
  raiseSome s (spmOperand s1 k c d (origins 0 2) d.extents 0 false)
  check (decide (ring.toNat % 16 = 0)) s .misalignData ring
  bindPort s1 k tag (newBinding s1 k tag .memory w (some d) ring.toNat)

/-- STRMS (R251). -/
def strmsBody (w : Word64) (tag k : Nat) (s : State) : Done := do
  bindTags s k tag
  check (wordOk w false false false true) s .reservedField w
  check (!routeBad s (s.isle k).ctx w) s .routeInvalid 0
  bindPort s k tag (newBinding s k tag .fabric w none 0)

/-- STRMI (R245, R250, R253). -/
def execStrmi (d : BitVec 5) (a : BitVec 5) (t : BitVec 8) (v0 : BitVec 5) (s : State) : Host.Outcome State Fault Refusal :=
  .next (unitC 4 true ⟨.user, v0 == 0 && decide (t.toNat < 64), true, fun k s => do
    let p := streamPayload s k
    check (decide (p = 0)) s .reservedField (BitVec.ofNat 64 p)
    strmiBody (gGet s k d) (gGet s k a) t.toNat k s⟩ s)

/-- STRMI.STOP, STRMI under an EXT of payload 1 (R253). -/
def execStrmiStop (d : BitVec 5) (a : BitVec 5) (t : BitVec 8) (v0 : BitVec 5) (s : State) : Host.Outcome State Fault Refusal :=
  .next (unitC 4 true ⟨.user, d == 0 && a == 0 && v0 == 0 && decide (t.toNat < 64), true, fun k s =>
    fall (stopBinding t.toNat k s)⟩ s)

/-- STRMS (R245, R251, R253). -/
def execStrms (a : BitVec 5) (t : BitVec 8) (v0 : BitVec 5) (v1 : BitVec 5) (s : State) : Host.Outcome State Fault Refusal :=
  .next (unitC 4 true ⟨.user, v0 == 0 && v1 == 0 && decide (t.toNat < 64), true, fun k s => do
    let p := streamPayload s k
    check (decide (p = 0)) s .reservedField (BitVec.ofNat 64 p)
    strmsBody (gGet s k a) t.toNat k s⟩ s)

/-- STRMS.STOP (R253). -/
def execStrmsStop (a : BitVec 5) (t : BitVec 8) (v0 : BitVec 5) (v1 : BitVec 5) (s : State) : Host.Outcome State Fault Refusal :=
  .next (unitC 4 true ⟨.user, a == 0 && v0 == 0 && v1 == 0 && decide (t.toNat < 64), true, fun k s =>
    fall (stopBinding t.toNat k s)⟩ s)

/-! ### Lines taken (R250, R251) -/

/-- Tokens of a binding leave the port of die `d`. -/
def bindSend (s : State) (d : Nat) (b : Binding) (l : List Token) : State :=
  if b.tok then sendTokens s (.stream d) d none (l.map (fun t => { t with hdr := reHdr t.hdr b.tdest b.ctx })) else s

/-- A binding stops with a fault record (R14, R425). -/
def bindFault (s : State) (d : Nat) (b : Binding) (c : Cause) (v : Word64) : State :=
  let s1 := s.updBinding d (fun b => { b with record := some (nextRing s b.isle) })
  faultRecord s1 b.isle { TrapRec.zero with
    job := b.job, ctx := b.ctx, agent := 5, code := causeCode c, tval := v, pts := (s.die d).port.pts, tile := 8192 + d }

/-- The binding is over once its lines are delivered: EOS, then its tag (R420). -/
def finishBinding (s : State) (d : Nat) (b : Binding) : State :=
  if b.ending then endBinding (bindSend s d b [endToken]) d false else s

/-- Some of the `n` bytes of a row at `off` are LOC memory (R250). -/
def rowLoc (s : State) (rq : Req) (v : Desc) (off : Int) (n : Nat) : Bool :=
  !v.spm && (List.range n).any (fun j =>
    (j == 0 || (word64 (byteAt v false off j)).toNat % 64 == 0) &&
      (match translate s rq (word64 (byteAt v false off j)) .store with
        | .ok (l, _) => !l.dev && l.kind == 1
        | .error _ => false))

/-- What a binding's line store ends with: the line is stored, it waits, or it meets a cause after some of its writes. -/
inductive LineStop where
  | stored (s : State)
  | full
  | fault (s : State) (c : Cause) (v : Word64)

/-- A line written, from byte 0 upward, into row PRODUCED mod E1 and published (R250); it waits while the ring is full. The
first row after a GAP token carries GAP in its completion token (R62). -/
def storeLine (s : State) (d : Nat) (b : Binding) (v : Desc) (seq : Nat) (bytes : List Byte) : LineStop :=
  let k := b.isle
  let rq := engReq s (.binding k) (.port d) b.ctx
  match readVa s rq b.ring 16 2 with
  | .error (c, x) => .fault s c x
  | .ok (l, s1) =>
    let produced := numOf (l.take 8)
    let e1 := v.extents.getD 1 0
    if (produced + 2 ^ 64 - numOf (l.drop 8)) % 2 ^ 64 < e1 then
      let off := dataOff v [0, ((produced % e1 : Nat) : Int)]
      let room := v.extents.headD 0 * fmtBytes v.fmt
      let row := bytes.take room
      let (s2, bad) := itemWriteUpTo s1 k rq v false off row
      let s3 := if v.spm ∧ 0 < row.length then
          s2.updIsle k (fun i => i.updBuffer v.base (fun e => { e with wrote := true })) else s2
      match bad with
      | some (c, x) => .fault s3 c x
      | none =>
        let s4 := if rowLoc s rq v off row.length then writeBackAll s3 k else s3
        match writeVa s4 rq b.ring (bytesOf (produced + 1) 8) 2 with
        | .error (c, x) => .fault s4 c x
        | .ok s5 =>
          .stored (popPort (bindSend (s5.updBinding d (fun b => { b with gapNext := false })) d b
            [ordToken 0 0 b.tdest b.ctx (s5.die d).port.pts,
             ⟨mkHdr kDATA 1 1 0 0 b.tdest b.ctx b.gapNext (decide (room < bytes.length)) false,
              Lanes.ofList [BitVec.ofNat 32 seq, BitVec.ofNat 32 bytes.length]⟩]) d)
    else .full

/-- No mark that isle `k`'s engine accepted before a scratchpad binding is open (R254). -/
def marksPassed (s : State) (b : Binding) : Bool :=
  b.buf.isNone || (s.isle b.isle).ops.all (fun o => o.kind != .mark || decide (b.seq < o.id))

/-- The binding of die `d`'s port that may go on; one that feeds a held page stops (R390). -/
def liveBinding (s : State) (d : Nat) : Option Binding :=
  match (s.die d).port.binding with
  | some b =>
    if b.record.isNone ∧ isleRuns s b.isle ∧ marksPassed s b ∧ ingressOn s b.ctx b.feeds b.tdest then some b else none
  | none => none

/-- STREAM_LINE_STORE: a STRMI binding takes the next of its port's lines, or its GAP, or ends (R250, R420). A fault stops it
after the bytes written before it. -/
def execStreamLineStore (d : Nat) (s : State) : Host.Outcome State Fault Refusal :=
  .next (withCredit s (match liveBinding s d with
    | none => s
    | some b =>
      match b.kind, b.desc with
      | .memory, some v =>
        match (s.die d).port.queue with
        | [] => finishBinding s d b
        | .gap f l :: _ => bindSend ((popPort s d).updBinding d (fun b => { b with gapNext := true })) d b [gapToken f l]
        | .line seq bytes :: _ =>
          match storeLine s d b v seq bytes with
          | .stored s1 => s1
          | .full => s
          | .fault s1 c x => bindFault s1 d b c x
      | _, _ => s))

/-- STREAM_LINE_TOKENS: a STRMS binding sends the next of its port's lines or its GAP as tokens, or ends (R251, R420). -/
def execStreamLineTokens (d : Nat) (s : State) : Host.Outcome State Fault Refusal :=
  .next (withCredit s (match liveBinding s d with
    | none => s
    | some b =>
      match b.kind with
      | .fabric =>
        match (s.die d).port.queue with
        | [] => finishBinding s d b
        | .gap f l :: _ => bindSend ((popPort s d).updBinding d (fun b => { b with gapNext := true })) d b [gapToken f l]
        | .line seq bytes :: _ =>
          bindSend ((popPort s d).updBinding d (fun b => { b with gapNext := false })) d b (lineTokens seq bytes b.gapNext)
      | _ => s))

/-! ### The port (R416 to R420) -/

/-- A saturating 32-bit counter. -/
def satCount (n : Nat) : Nat := min (n + 1) (2 ^ 32 - 1)

/-- What a received frame is (R416): a line, another good frame, or one that is discarded and counted. -/
inductive Frame416 where
  | line (seq : Nat) (bytes : List Byte)
  | other
  | bad
  deriving DecidableEq, Repr

/-- The parts of a frame (R416): SYNC, header CRC, TYPE, LEN and payload CRC. -/
def parseFrame (f : List Byte) : Frame416 :=
  let num := fun (o n : Nat) => numOf ((f.drop o).take n)
  let ty := num 2 1
  let len := num 8 4
  let pad := (len + 7) / 8 * 8
  if f.length < 16 ∨ num 0 2 ≠ 0xD0F1 ∨ num 12 4 ≠ (crc32c (f.take 12)).toNat then .bad
  else if ty = 3 ∨ (ty = 2 ∧ len < 512) then .other
  else if ty ≠ 1 ∨ len = 0 ∨ 16384 < len then .bad
  else if f.length ≠ 16 + pad + 8 ∨ num (16 + pad) 8 ≠ (crc32c ((f.drop 16).take pad)).toNat then .bad
  else .line (num 4 4) ((f.drop 16).take len)

/-- The missing run extended to sequence `l`, or begun at `f` (R418). -/
def addMissing (p : StreamPort) (f l : Nat) : StreamPort :=
  { p with missing := some (match p.missing with | some (a, _) => (a, l) | none => (f, l)) }

/-- ERRSUM.STREAM of the context that bound the port (R310, R418). -/
def streamError (s : State) (d : Nat) : State :=
  match (s.die d).port.binding with
  | some b => orErrsum s b.ctx 2
  | none => s

/-- STREAM_OVERFLOW pending on the control core of the binding's isle, with the first sequence dropped (R418). -/
def raiseOverflow (s : State) (d seq : Nat) : State :=
  match (s.die d).port.binding with
  | some b =>
    if (s.die d).port.ove then
      s.updCore b.isle (fun c => { c with overflow := some (c.overflow.getD seq) })
    else s
  | none => s

/-- A line that passes R416 (R418). -/
def takeLine (s : State) (d seq : Nat) (bytes : List Byte) : State :=
  let p := (s.die d).port
  let n := match p.exp with
    | some e => (seq + 2 ^ 32 - e) % 2 ^ 32
    | none => 0
  if 2 ^ 31 ≤ n then s.updPort d (fun p => { p with dups := satCount p.dups })
  else
    let p1 := if 0 < n then addMissing p ((p.exp).getD 0) ((seq + 2 ^ 32 - 1) % 2 ^ 32) else p
    let p2 := { p1 with exp := some ((seq + 1) % 2 ^ 32) }
    if p.free = 0 then
      raiseOverflow (streamError (s.updPort d (fun _ => { addMissing p2 seq seq with drops := satCount p2.drops })) d) d seq
    else
      match p2.missing with
      | some (a, b) =>
        streamError (s.updPort d (fun _ => { p2 with
          queue := p2.queue ++ [.gap a b, .line seq bytes], missing := none, last := seq })) d
      | none => s.updPort d (fun _ => { p2 with queue := p2.queue ++ [.line seq bytes], last := seq })

/-- LINE_FRAME: a frame arrives at an UP port (R416, R418, R420). -/
def execLineFrame (d : Nat) (f : List (BitVec 8)) (s : State) : Host.Outcome State Fault Refusal :=
  .next (
    if (s.die d).port.st = .up ∧ s.present d ∧ ¬ (s.die d).fenced then
      match parseFrame f with
      | .bad => s.updPort d (fun p => { p with crcs := satCount p.crcs })
      | .other => s
      | .line seq bytes => takeLine s d seq bytes
    else s)

/-- ADV_TIMER: an UP port sends FREE and LAST (R417). -/
def execAdvTimer (d : Nat) (s : State) : Host.Outcome State Fault Refusal :=
  .next (if (s.die d).port.st = .up then s.updPort d (fun p => { p with adv := some (p.free, p.last) }) else s)

/-- The binding of a port is told to end (R420). -/
def endingPort (p : StreamPort) : StreamPort := { p with binding := p.binding.map (fun b => { b with ending := true }) }

/-- SPCTL.EN set (R420). -/
def portEnable (p : StreamPort) : StreamPort :=
  { p with en := true, st := if p.st = .down then .training else p.st }

/-- SPCTL.EN cleared (R420). -/
def portDisable (p : StreamPort) : StreamPort :=
  match p.st with
  | .down => { p with en := false }
  | .fenced => { p with en := false, st := .down, fence := false }
  | _ => endingPort { p with en := false, st := .down }

/-- 1 written to SPCTL.FENCE (R420). -/
def portFence (p : StreamPort) : StreamPort :=
  if p.st = .training ∨ p.st = .up then endingPort { p with st := .fenced, fence := true } else p

/-- PORT_ENABLE (R420). -/
def execPortEnable (d : Nat) (s : State) : Host.Outcome State Fault Refusal := .next (s.updPort d portEnable)

/-- PORT_DISABLE (R420). -/
def execPortDisable (d : Nat) (s : State) : Host.Outcome State Fault Refusal := .next (s.updPort d portDisable)

/-- PORT_FENCE (R420). -/
def execPortFence (d : Nat) (s : State) : Host.Outcome State Fault Refusal := .next (s.updPort d portFence)

/-- PORT_TRAINED: TRAINING to UP; EXPV := 0 (R420). -/
def execPortTrained (d : Nat) (s : State) : Host.Outcome State Fault Refusal :=
  .next (s.updPort d (fun p => if p.st = .training then { p with st := .up, exp := none } else p))

/-- PORT_LOCK_LOST: UP to TRAINING; a frame in progress is counted, and whether there is one is open (R420, log entry
18). -/
def execPortLockLost (d : Nat) (s : State) : Host.Outcome State Fault Refusal :=
  .next (
    if (s.die d).port.st = .up then
      let s1 := { s with free := s.free + 1 }
      s1.updPort d (fun p => { p with
        st := .training, crcs := if Config.freeBit s.free then satCount p.crcs else p.crcs, adv := none })
    else s)

end Sys2Proof.Machine
end

