-- ==== Sys2Proof/Machine/Device.lean ====
section
/-! DEFINITION. The device window and its registers (R11, R179, R194, R244, R308, R312 to R315, R324, R327, R329, R332, R368,
R388, R406, R419, R425, R426, R430, R435, R436, R440), reset (R434, R436), attestation (R437), power (R438, R439), the host's
accesses (R226, R227), and the lease clock (R213, R214). -/

namespace Sys2Proof.Machine

/-! ### Isle reset (R113, R181, R240, R256, R436) -/

/-- An isle after isle reset: what a fence or a die reset alone ends stays, and the core starts at BOOTPC. -/
def Isle.afterReset (i : Isle) (pc : Word64) : Isle :=
  let r := Isle.reset
  { r with core := { r.core with pc := pc, pts := i.core.pts }, engPts := i.engPts, fenced := i.fenced }

/-- A HOLD bit written: 1 resets the isle and holds it, 0 releases it at BOOTPC; the bits of absent dies stay 1 (R436). -/
def setHold (s : State) (k : Nat) (hold : Bool) : State :=
  if 64 ≤ k ∨ ¬ s.present (isleDie k) then s
  else
    let put := fun (v : Word64) => { s with mgmt := { s.mgmt with islerst := v } }
    let b := BitVec.ofNat 64 (2 ^ k)
    if hold then (put (s.mgmt.islerst ||| b)).updIsle k (fun i => i.afterReset s.mgmt.bootpc)
    else if s.inReset k then (put (s.mgmt.islerst &&& ~~~ b)).updCore k (fun c => { c with pc := s.mgmt.bootpc })
    else s

/-- ISLERST written (R436). -/
def writeHold (s : State) (v : Word64) : State := (List.range 64).foldl (fun s k => setHold s k (bit v k)) s

/-- ISLE_RESET (R436). -/
def execIsleReset (k : Nat) (hold : Bool) (s : State) : Host.Outcome State Fault Refusal := .next (setHold s k hold)

/-! ### What the registers read -/

/-- A trap record as its 128 bytes (R425). -/
def recordBytes (x : TrapRec) : List Byte :=
  let h := x.job % 2 ^ 16 * 2 ^ 48 + x.ctx % 256 * 2 ^ 40 + x.cls % 64 * 2 ^ 34 + x.slot % 16 * 2 ^ 30 + x.x % 16 * 2 ^ 26 +
    x.y % 8 * 2 ^ 23 + x.agent % 8 * 2 ^ 20 + x.offset % 2 ^ 10 * 2 ^ 8 + b2n x.acted * 2 ^ 7 + b2n x.pfx * 2 ^ 6 + x.code.toNat
  bytesOf h 8 ++ bytesOf x.tval.toNat 8 ++ bytesOf x.hdr.toNat 8 ++ List.replicate 8 (0 : Byte) ++ bytesOfLanes x.in0 8 ++
    bytesOfLanes x.in1 8 ++ bytesOf (x.pts % 2 ^ 48) 8 ++ bytesOf x.pos 8 ++ bytesOf x.sector 8 ++ bytesOf x.opid 8

/-- STATE of a stream port (R419). -/
def portCode : PortState → Nat
  | .down => 0 | .training => 1 | .up => 2 | .fenced => 3

/-- SPCTL as it reads (R419). -/
def spctl (p : StreamPort) : Nat := b2n p.en * 2 ^ 31 + b2n p.ove * 2 ^ 30 + b2n (p.st == .fenced) * 2 ^ 29 + p.nslot % 2 ^ 9

/-- The aligned eight bytes at offset `o` of the port's registers (R419). -/
def portWord (p : StreamPort) (o : Nat) : Nat :=
  match o with
  | 0x5000 => spctl p + (portCode p.st * 2 ^ 30 + p.free % 2 ^ 9) * 2 ^ 32
  | 0x5008 => p.last % 2 ^ 32 + p.drops % 2 ^ 32 * 2 ^ 32
  | 0x5010 => p.crcs % 2 ^ 32 + p.dups % 2 ^ 32 * 2 ^ 32
  | _ => 0

/-- The aligned eight bytes at offset `o` of an isle's device register block; an offset that no rule defines reads zero
(R435). -/
def isleWord (s : State) (k o : Nat) : Nat :=
  let i := s.isle k
  if 0x1000 ≤ o ∧ o < 0x1400 then
    let n := (o - 0x1000) / 4
    bankWord (i.bank n) + bankWord (i.bank (n + 1)) * 2 ^ 32
  else if o = 0x2000 then i.cerr.toNat
  else if 0x3000 ≤ o ∧ o < 0x3080 then (i.ports.get 0 ((o - 0x3000) / 8)).toNat
  else if o = 0x4000 then i.trHead
  else if o = 0x4008 then i.trTail
  else if o = 0x4010 then i.trAct.toNat
  else if 0x5000 ≤ o ∧ o < 0x5018 ∧ k % 16 = 0 then portWord (s.die (isleDie k)).port o
  else if o = 0x6000 then i.tsw.toNat
  else if 0x8000 ≤ o ∧ o < 0xA000 then numOf (((recordBytes (i.ringAt ((o - 0x8000) / 128))).drop (o % 128)).take 8)
  else 0

/-- The capability records of this model: one header each for module, dies, stream ports and fibre ports (R440, log entry
5). -/
def capWord (o : Nat) : Nat :=
  match o with
  | 0x00 => 0x10 * 2 ^ 32 + 2 ^ 24 + 2 ^ 16 + 1
  | 0x10 => 0x20 * 2 ^ 32 + 2 ^ 24 + 2 ^ 16 + 2
  | 0x20 => 0x30 * 2 ^ 32 + 2 ^ 24 + 2 ^ 16 + 3
  | 0x30 => 2 ^ 24 + 2 ^ 16 + 4
  | _ => 0

/-- The aligned eight bytes at offset `o` of the H-die management block. -/
def mgmtWord (s : State) (o : Nat) : Nat :=
  let m := s.mgmt
  match o with
  | 0x40 => m.lease.toNat
  | 0x80 => m.ctxtab.toNat
  | 0x88 => m.ctxcmd.toNat + m.tslice.toNat * 2 ^ 32
  | 0x90 => m.qcmd.toNat
  | 0x98 => m.jbase.toNat
  | 0xA0 => m.jlog2.toNat
  | 0xA8 => m.jseq.toNat
  | 0xB0 => m.srtab.toNat
  | 0xB8 => m.spto.toNat
  | 0xC0 => m.modid.toNat
  | 0xC8 => m.fibmap.toNat
  | 0xD0 => m.wdto.toNat
  | 0xE0 => m.bootstat.toNat
  | 0xE8 => m.bootpc.toNat
  | 0xF0 => m.islerst.toNat
  | 0xF8 => m.plim.toNat + m.pmeas.toNat * 2 ^ 32
  | 0x100 => m.mcount.toNat * 2 ^ 16 + m.mlevel.toNat * 2 ^ 13 + m.mdie.toNat * 2 ^ 10 + m.misle.toNat * 2 ^ 6
  | 0x108 => m.attAddr.toNat + b2n m.attBusy
  | _ => if Config.mgmtBase + o < Config.capBase then 0 else capWord (Config.mgmtBase + o - Config.capBase)

/-- The aligned eight bytes at offset `o` of the Machine register block of die `d`; the H-die's holds only DSEL (R194). -/
def machineWord (s : State) (d o : Nat) : Nat :=
  let v := s.die d
  if o < 0x40 then (v.dsel.get 0 (o / 8)).toNat
  else if d = 4 then 0
  else if 0x1000 ≤ o ∧ o < 0x1800 then (v.s2root.get 0 ((o - 0x1000) / 8)).toNat
  else match o with
    | 0x3000 => v.spBase.toNat
    | 0x3008 => v.spSize.toNat
    | 0x3010 => v.psBase.toNat
    | 0x3018 => v.psSize.toNat
    | _ => 0

/-- The block of the device window that an address lies in (R194, R435): an isle's, the management block, or a die's
Machine registers, with the offset in it. -/
inductive DevBlock where
  | isle (k o : Nat)
  | mgmt (o : Nat)
  | machine (d o : Nat)
  | hole
  deriving DecidableEq, Repr

/-- The block of guest-physical address `g`; that of an absent die is a hole (R435). -/
def devBlock (s : State) (g : Nat) : DevBlock :=
  if g < Config.mgmtBase then
    let k := (g - Config.window) / 2 ^ 24 * 16 + (g - Config.window) / 2 ^ 20 % 16
    if s.present (isleDie k) then .isle k (g % 2 ^ 20) else .hole
  else if g < Config.machineBase then .mgmt (g - Config.mgmtBase)
  else
    let d := (g - Config.machineBase) / 2 ^ 20
    if d = 4 ∨ (d < 4 ∧ s.present d) then .machine d (g % 2 ^ 20) else .hole

/-- A housekeeping register (R436): only firmware on the application cores writes it, and a write of an isle control core is
ignored (log entry 32). -/
def housekeeping (s : State) (g : Nat) : Bool :=
  match devBlock s g with
  | .mgmt o => decide (0xE0 ≤ o) && decide (o < 0x110)
  | _ => false

/-- The lowest mode that reaches a block (R179, R194, R315, R426). -/
def devMode : DevBlock → Mode
  | .isle _ _ => .supervisor
  | .mgmt _ => .user
  | .machine _ _ => .machine
  | .hole => .user

/-- The aligned eight bytes at `g` of the device window. -/
def devWord (s : State) (g : Nat) : Nat :=
  match devBlock s g with
  | .isle k o => isleWord s k o
  | .mgmt o => mgmtWord s o
  | .machine d o => machineWord s d o
  | .hole => 0

/-! ### Reads (R11) -/

/-- An access of `n` bytes at `o` touches the `m` bytes at `r`. -/
def touches (o n r m : Nat) : Bool := decide (o < r + m) && decide (r < o + n)

/-- The read-clear fields that a read touches are cleared (R11, R419, R436). R11 does not say what a read of some bytes of a
field clears: here any byte of it, and for MCOUNT any byte of its register, clears the whole (log entry 33). -/
def clearRead (s : State) (g n : Nat) : State :=
  match devBlock s g with
  | .isle k o =>
    if k % 16 = 0 then s.updPort (isleDie k) (fun p => { p with
        drops := if touches o n 0x500C 4 then 0 else p.drops,
        crcs := if touches o n 0x5010 4 then 0 else p.crcs,
        dups := if touches o n 0x5014 4 then 0 else p.dups })
    else s
  | .mgmt o => if touches o n 0x100 8 then { s with mgmt := { s.mgmt with mcount := 0 } } else s
  | _ => s

/-- A read of `n` bytes that lie in one aligned doubleword of the device window. -/
def devRead (s : State) (g n : Nat) : List Byte × State :=
  (((bytesOf (devWord s (g / 8 * 8)) 8).drop (g % 8)).take n, clearRead s g n)

/-! ### Writes (R11, R435): the value of a register with the written bytes in it -/

/-- SPCTL written (R419, R420): EN, OVE and NSLOT, then FENCE. -/
def writeSpctl (p : StreamPort) (v : Word32) : StreamPort :=
  let n := bits v 8 0
  let p1 := { p with ove := bit v 30, nslot := if 1 ≤ n ∧ n ≤ 256 then n else p.nslot }
  let p2 := if bit v 31 then portEnable p1 else portDisable p1
  if bit v 29 then portFence p2 else p2

/-- The low word of a doubleword. -/
def loWord (v : Word64) : Word32 := v.extractLsb' 0 32

/-- The high word of a doubleword. -/
def hiWord (v : Word64) : Word32 := v.extractLsb' 32 32

/-- A write in an isle's block: the doubleword at `o` with the written bytes in it, the bytes written alone, and whether its
low and its high word are touched. -/
def putIsle (s : State) (k o : Nat) (v only : Word64) (lo hi : Bool) : State :=
  if 0x1000 ≤ o ∧ o < 0x1400 then
    let n := (o - 0x1000) / 4
    s.updIsle k (fun i =>
      let i1 := if lo then writeBank i n (loWord v) else i
      if hi then writeBank i1 (n + 1) (hiWord v) else i1)
  else if o = 0x2000 then s.updIsle k (fun i => { i with cerr := i.cerr &&& ~~~ only })
  else if 0x3000 ≤ o ∧ o < 0x3080 then
    s.updIsle k (fun i => { i with ports := i.ports.put ((o - 0x3000) / 8) (v &&& 0x8000000000FFFE3F) })
  else if o = 0x4000 then writeTrhead s k v
  else if o = 0x4010 then writeTract s k v
  else if o = 0x5000 ∧ k % 16 = 0 ∧ lo then s.updPort (isleDie k) (fun p => writeSpctl p (loWord v))
  else if o = 0x6000 ∧ bit only 0 then tswDone s k
  else s

/-- CTXCMD written (R312): nothing while BUSY or for OP 0b00. -/
def writeCtxcmd (s : State) (w : Word32) : State :=
  if bit s.mgmt.ctxcmd 31 then s
  else match bits w 9 8 with
    | 1 => openStep s (bits w 7 0)
    | 2 => closeStep s (bits w 7 0)
    | 3 => killStep s (bits w 7 0)
    | _ => s

/-- QCMD written (R324): nothing while BUSY. -/
def writeQcmd (s : State) (w : Word32) : State :=
  if bit s.mgmt.qcmd 31 then s else queueCommand s (bits w 9 8) (bits w 7 0) (bits w 17 10)

/-- ATTCMD written (R436, R437): nothing while BUSY. -/
def writeAttcmd (s : State) (w : Word64) : State :=
  if s.mgmt.attBusy then s else { s with mgmt := { s.mgmt with attAddr := w &&& ~~~ 0x3F, attBusy := true } }

/-- The registers of the management block that a write only stores into (R329, R368, R388, R406, R430, R436). -/
def storeMgmt (m : Mgmt) (o : Nat) (v : Word64) : Mgmt :=
  match o with
  | 0x40 => { m with lease := putLease m.lease v }
  | 0x80 => { m with ctxtab := v }
  | 0x98 => { m with jbase := v }
  | 0xA0 => { m with jlog2 := if 8 ≤ bits v 4 0 ∧ bits v 4 0 ≤ 20 then v &&& 0x1F else m.jlog2 }
  | 0xB0 => { m with srtab := v &&& ~~~ 0x3FFFE }
  | 0xB8 => { m with spto := if loWord v = 0 then m.spto else loWord v }
  | 0xC0 => { m with modid := v &&& 7 }
  | 0xC8 => { m with fibmap := v &&& 0xFFFFFFFFFFFF }
  | 0xD0 => { m with wdto := loWord v }
  | 0xE8 => { m with bootpc := v &&& ~~~ 1 }
  | 0xF8 => { m with plim := if 300 ≤ bits v 15 0 ∧ bits v 15 0 ≤ 1000 then v.extractLsb' 0 16 else m.plim }
  | _ => m

/-- A write in the management block. -/
def putMgmt (s : State) (o : Nat) (v : Word64) (lo hi : Bool) : State :=
  if 0x10000 ≤ o ∧ o < 0x90000 then
    ringDoorbell s ((o - 0x10000) / 8 / 256) ((o - 0x10000) / 8 % 256) v.toNat
  else match o with
    | 0x88 =>
      let s1 := if lo then writeCtxcmd s (loWord v) else s
      if hi ∧ hiWord v ≠ 0 then { s1 with mgmt := { s1.mgmt with tslice := hiWord v } } else s1
    | 0x90 => if lo then writeQcmd s (loWord v) else s
    | 0xF0 => writeHold s v
    | 0x108 => writeAttcmd s v
    | _ => { s with mgmt := storeMgmt s.mgmt o v }

/-- DSEL after a write: an entry whose byte has a reserved bit set keeps its value (R194). -/
def dselWrite (old v : Word64) : Word64 :=
  BitVec.ofNat 64 (numOf (((bytesOf old.toNat 8).zip (bytesOf v.toNat 8)).map (fun e => if e.2.toNat < 4 then e.2 else e.1)))

/-- A write in a Machine register block (R194). -/
def putMachine (s : State) (d o : Nat) (v : Word64) : State :=
  if o < 0x40 then s.updDie d (fun x => { x with dsel := x.dsel.put (o / 8) (dselWrite (x.dsel.get 0 (o / 8)) v) })
  else if d = 4 then s
  else if 0x1000 ≤ o ∧ o < 0x1800 then
    s.updDie d (fun x => { x with s2root := x.s2root.put ((o - 0x1000) / 8) (v &&& 0xFFFFFF0001) })
  else match o with
    | 0x3000 => s.updDie d (fun x => { x with spBase := v &&& 0xFFFFFF0000 })
    | 0x3008 => s.updDie d (fun x => { x with spSize := loWord v })
    | 0x3010 => s.updDie d (fun x => { x with psBase := v &&& 0xFFFFFF0000 })
    | 0x3018 => s.updDie d (fun x => { x with psSize := loWord v })
    | _ => s

/-- A write of bytes that lie in one aligned doubleword of the device window: a narrower write than the register leaves its
other bytes as they read. -/
def devWrite (s : State) (g : Nat) (l : List Byte) : State :=
  let a := g / 8 * 8
  let j := g % 8
  let v := BitVec.ofNat 64 (numOf (spliceAt (bytesOf (devWord s a) 8) j l))
  let only := BitVec.ofNat 64 (numOf (spliceAt (List.replicate 8 0) j l))
  let lo := decide (j < 4)
  let hi := decide (4 < j + l.length)
  match devBlock s a with
  | .isle k o => putIsle s k o v only lo hi
  | .mgmt o => putMgmt s o v lo hi
  | .machine d o => putMachine s d o v
  | .hole => s

/-- The width in bytes of the register at `g`. -/
def devWidth (s : State) (g : Nat) : Nat :=
  match devBlock s g with
  | .isle _ o => if (0x1000 ≤ o ∧ o < 0x1400) ∨ (0x5000 ≤ o ∧ o < 0x5018) then 4 else 8
  | .mgmt o => if (0x88 ≤ o ∧ o < 0x98) then 4 else 8
  | _ => 8

/-- RC_REGISTER_READ (R11). -/
def execRcRegisterRead (g : Nat) (s : State) : Host.Outcome State Fault Refusal :=
  let a := g / devWidth s g * devWidth s g
  .next (if Config.window ≤ g then (devRead s a (devWidth s g)).2 else s)

/-- REGISTER_WRITE: firmware, software or the host writes a register whole (R11, R435). -/
def execRegisterWrite (g : Nat) (w : BitVec 64) (s : State) : Host.Outcome State Fault Refusal :=
  let a := g / devWidth s g * devWidth s g
  .next (if Config.window ≤ g then devWrite s a (bytesOf w.toNat (devWidth s g)) else s)

/-! ### Module reset (R434) -/

/-- MODULE_RESET: what the boot ROM found. `err` is the code of the step that failed, 0 for none, and `present` the C-dies
whose attach trained; the keys and shoal maps come from the signed flash. -/
def execModuleReset (err : BitVec 8) (present : BitVec 4) (s : State) : Host.Outcome State Fault Refusal :=
  let e : BitVec 8 := if err = 0 ∧ present = 0 then 5 else err
  let p : Nat := if e = 0 then present.toNat else 0
  let stage : Nat := if e = 0 then 6 else e.toNat
  let r := State.reset
  .next { r with
    active := s.active, agenda := s.agenda, free := s.free, keys := s.keys,
    dies := (List.range 4).map (fun d => (d, { Die.reset with shoals := (s.die d).shoals })),
    mgmt := { r.mgmt with bootstat := BitVec.ofNat 64 (p * 2 ^ 16 + stage * 2 ^ 8 + e.toNat) } }

/-! ### Attestation (R437) -/

/-- ATTESTATION_START (R436, R437). -/
def execAttestationStart (w : BitVec 64) (s : State) : Host.Outcome State Fault Refusal := .next (writeAttcmd s w)

/-- Offset 0x28 onward of a report but its signature (R437). -/
def reportBody (s : State) : List Byte :=
  (List.range 48).map Config.identity ++ bytesOf s.kernels.length 4 ++
    s.kernels.flatMap (fun k => bytesOf k.ctx 1 ++ bytesOf k.handle 1 ++ [0, 0] ++ k.digest)

/-- The report built in the buffer: the signature covers everything but the status. -/
def buildReport (s : State) (rq : Req) (a : Nat) : Except (Cause × Word64) State := do
  let (nonce, s1) ← readVa s rq a 32 2
  let body := reportBody s
  let l := body ++ (List.range 96).map (Config.attest (nonce ++ body))
  let s2 ← writeVa s1 rq (a + 0x28) l (pieces l.length)
  writeVa s2 rq (a + 0x20) (bytesOf 1 8) 2

/-- ATTESTATION_DONE: the status is written last, 1 done or 2 buffer fault. -/
def execAttestationDone (s : State) : Host.Outcome State Fault Refusal :=
  .next (if s.mgmt.attBusy then
    let rq := engReq s .security .data 0
    let a := s.mgmt.attAddr.toNat
    let s1 := match buildReport s rq a with
      | .ok s1 => s1
      | .error _ => match writeVa s rq (a + 0x20) (bytesOf 2 8) 2 with
        | .ok s1 => s1
        | .error _ => s
    { s1 with mgmt := { s1.mgmt with attBusy := false } }
  else s)

/-! ### Power (R438, R439) -/

/-- SUPPLY_SAG: the clock of die `d` stretches; a sag during a stretch starts no new 200 ns (R439). -/
def execSupplySag (d : Nat) (s : State) : Host.Outcome State Fault Refusal :=
  .next (if s.present d ∧ ¬ (s.die d).supply.stretched then s.updDie d (fun v => { v with supply := ⟨true, v.sfreq⟩ }) else s)

/-- STRETCH_END: the supply is back, and the stretch has lasted 200 ns, which are 120 cycles at 0.6 GHz (R439). -/
def execStretchEnd (d : Nat) (s : State) : Host.Outcome State Fault Refusal :=
  let v := s.die d
  .next (if v.supply.stretched ∧ 120 ≤ (v.sfreq - v.supply.since).toNat then
    s.updDie d (fun v => { v with supply := ⟨false, 0⟩ })
  else s)

/-- TOKEN_BUCKET_REFILL: `c` credits for ingress `n`, and the power that PMEAS then shows (R436, R438, log entries 8 and
22). -/
def execTokenBucketRefill (n c : Nat) (s : State) : Host.Outcome State Fault Refusal :=
  .next { s with
    buckets := s.buckets.put n (s.buckets.get 0 n + c), free := s.free + 1,
    mgmt := { s.mgmt with pmeas := Config.power s.free } }

/-! ### The host (R226, R227) -/

/-- The bytes that a host core's access covers: 1, 2, 4 or 8, and 4 or 8 for an atomic. -/
def hostBytes : HostOp → Nat
  | .load z => 2 ^ z.toNat
  | .store z => 2 ^ z.toNat
  | .amo z _ => amoWidth z / 8
  | .cas z _ => amoWidth z / 8

/-- What a host core's access does at stage 2. -/
def hostAccess : HostOp → Access
  | .load _ => .load
  | .store _ => .store
  | .amo _ _ => .atomic
  | .cas _ _ => .atomic

/-- A host core's access of its bytes at `key` (R207 to R210): a failing CAS writes nothing. -/
def hostPerform (s : State) (g : Agent) (op : HostOp) (key : Nat) (w : BitVec 64) : State :=
  let n := hostBytes op
  match op with
  | .load _ => (cohLoad s g key n).2
  | .store _ => cohStore s g key (bytesOf w.toNat n)
  | .amo _ o => (atomicCoh s g key n (fun l => some (bytesOf (amoResult o.toNat (8 * n) (numOf l) w.toNat) n))).2
  | .cas _ c =>
    (atomicCoh s g key n (fun l => if numOf l = c.toNat % 2 ^ (8 * n) then some (bytesOf w.toNat n) else none)).2

/-- LEASE_BRIDGE_ACCESS: an application core's aligned COH access at its own logical time (R1, R207 to R210, R226). -/
def execLeaseBridgeAccess (h : Nat) (op : HostOp) (g : Nat) (w : BitVec 64) (s : State) : Host.Outcome State Fault Refusal :=
  .next (if Config.hostCores ≤ h ∨ g % hostBytes op ≠ 0 ∨ Config.window ≤ g then s
    else match stage2 s 4 0 g (hostAccess op) with
      | .error _ => s
      | .ok (key, s1) => hostPerform s1 (.host h) op key w)

/-- IO_PATH_ACCESS: a host write goes to the home memory, and a read takes it from there (R227). -/
def execIoPathAccess (wr : Bool) (g : Nat) (w : BitVec 64) (s : State) : Host.Outcome State Fault Refusal :=
  .next (if g % 8 ≠ 0 ∨ Config.window ≤ g then s
    else match stage2 s 4 0 g (if wr then .store else .load) with
      | .error _ => s
      | .ok (key, s1) => if wr then writeHome s1 key (bytesOf w.toNat 8) else s1)

/-! ### The lease clock (R213, R214) -/

/-- PTS_TICK: an agent one of whose COH loads has hit since its time last advanced by hits adds 1 to it (R213). -/
def execPtsTick (g : Agent) (s : State) : Host.Outcome State Fault Refusal :=
  .next (if s.hits.any (fun e => e.1 == g) then advanceHits s g else s)

/-- LEASE_ROLLOVER: an agent's time or a line's has reached 2^47 (R214). -/
def execLeaseRollover (g : Agent) (s : State) : Host.Outcome State Fault Refusal :=
  .next (if 2 ^ 47 ≤ s.pts g ∨ s.times.any (fun e => decide (2 ^ 47 ≤ e.2.2)) then { s with rollover := true } else s)

/-- The agents of a present die (R205): a MEMORY operator where a page configures the tile, a binding where the port is
bound. -/
def dieAgents (s : State) (d : Nat) : List Agent :=
  (dieIsles d).flatMap (fun k => [Agent.core k, .engine k]) ++
    (if (s.die d).port.binding.isSome then [Agent.binding (16 * d)] else []) ++
    (List.range 2048).flatMap (fun n =>
      let t := 2048 * d + n
      [Agent.cell t] ++
        (if (kindSlots (tileKind t)).contains slotMEMORY && (s.tile t).base.isSome then [Agent.memop t] else []) ++
        (if tileKind t = .m then [Agent.fetch t] else []))

/-- The least time of all agents of the module (R205, R214). -/
def leastPts (s : State) : Nat :=
  let l := ((presentDies s).flatMap (dieAgents s) ++ (List.range Config.hostCores).map Agent.host).map s.pts
  l.foldl min (l.headD 0)

/-- A tile with the times of its agents rebased. -/
def Tile.rebase (v : Tile) (b : Nat) : Tile :=
  { v with
    cell := { v.cell with pts := v.cell.pts - b }, fetchPts := v.fetchPts - b,
    ops := v.ops.map (fun e => (e.1, { e.2 with pts := e.2.pts - b })) }

/-- An isle with its times rebased, those of its trap records, tags and verifications too; its COH copies go. -/
def Isle.rebase (i : Isle) (b : Nat) : Isle :=
  { i with
    core := { i.core with pts := i.core.pts - b, eventPts := i.core.eventPts - b }, engPts := i.engPts - b,
    tagTime := i.tagTime.map (fun e => (e.1, e.2 - b)),
    ring := i.ring.map (fun e => (e.1, { e.2 with pts := e.2.pts - b })),
    waitRecs := i.waitRecs.map (fun x => { x with pts := x.pts - b }),
    sigs := i.sigs.map (fun x => { x with pts := x.pts - b }),
    l2 := i.l2.filter (fun x => !x.2.coh) }

/-- LEASE_REBASE: every time loses the least of all agents' times, and every COH copy goes (R214). No access of the model is
outstanding between two steps, so firmware's stop, wait and resumption are in this one step. -/
def rebase (s : State) : State :=
  let b := leastPts s
  { s with
    rollover := false,
    times := s.times.map (fun e => (e.1, (e.2.1 - b, e.2.2 - b))),
    isles := s.isles.map (fun e => (e.1, e.2.rebase b)),
    tiles := s.tiles.map (fun e => (e.1, e.2.rebase b)),
    dies := s.dies.map (fun e => (e.1, { e.2 with port := { e.2.port with pts := e.2.port.pts - b } })),
    pages := s.pages.map (fun p => { p with
      save := p.save.map (fun v => { v with tiles := v.tiles.map (fun e => (e.1, e.2.rebase b)) }) }),
    hostPts := s.hostPts.map (fun e => (e.1, e.2 - b)), schedPts := s.schedPts - b, secPts := s.secPts - b }

/-- LEASE_REBASE (R214). -/
def execLeaseRebase (s : State) : Host.Outcome State Fault Refusal := .next (if s.rollover then rebase s else s)

end Sys2Proof.Machine
end

