-- ==== Sys2Proof/Machine/Float.lean ====
section
/-! DEFINITION. Scalar floating point on the control core (R138 to R142). -/

namespace Sys2Proof.Machine

/-! ### Shared operations -/

/-- FP32 (R138). -/
def f32 : FloatFmt := floatFmt 6

/-- The FP32 operand of a g register: its low 32 bits (R138). -/
def fGet (s : State) (k : Nat) (r : BitVec 5) : Nat := (gGet s k r).toNat % 2 ^ 32

/-- A float unit of two operands (R138, R139). -/
def floatOp2 (d a b : BitVec 5) (rsv : Bool) (f : RMode → Nat → Nat → Nat × FlagSet) (s : State) : State :=
  unitC 4 false ⟨.user, rsv, true, fun k s =>
    let r := f (coreRm s k) (fGet s k a) (fGet s k b)
    floatResult s k d r.1 r.2⟩ s

/-- A float unit of one operand (R138, R139). -/
def floatOp1 (d a : BitVec 5) (rsv : Bool) (f : RMode → Nat → Nat × FlagSet) (s : State) : State :=
  unitC 4 false ⟨.user, rsv, true, fun k s =>
    let r := f (coreRm s k) (fGet s k a)
    floatResult s k d r.1 r.2⟩ s

/-- A comparison's result as 1 or 0 (R139). -/
def cmpResult (r : Bool × FlagSet) : Nat × FlagSet := (b2n r.1, r.2)

/-- The 64-bit register image of an element of a code (R138). -/
def gImage (c : BitVec 4) (x : Nat) : Nat := if fmtIsInt c then (word64 (intOf c x)).toNat else x

/-! ### Major 0x0C (R139) -/

/-- FADD: a + b, rounded once (R139). -/
def execFadd (d : BitVec 5) (a : BitVec 5) (b : BitVec 5) (v0 : BitVec 5) (s : State) : Host.Outcome State Fault Refusal :=
  .next (floatOp2 d a b (v0 == 0) (fun rm x y => fAdd f32 rm x y) s)

/-- FSUB: a − b (R139). -/
def execFsub (d : BitVec 5) (a : BitVec 5) (b : BitVec 5) (v0 : BitVec 5) (s : State) : Host.Outcome State Fault Refusal :=
  .next (floatOp2 d a b (v0 == 0) (fun rm x y => fSub f32 rm x y) s)

/-- FMUL: a × b (R139). -/
def execFmul (d : BitVec 5) (a : BitVec 5) (b : BitVec 5) (v0 : BitVec 5) (s : State) : Host.Outcome State Fault Refusal :=
  .next (floatOp2 d a b (v0 == 0) (fun rm x y => fMul f32 rm x y) s)

/-- FFMA: a × b + c, rounded once (R38, R139). -/
def execFfma (d : BitVec 5) (a : BitVec 5) (b : BitVec 5) (c : BitVec 5) (s : State) : Host.Outcome State Fault Refusal :=
  .next (unitC 4 false ⟨.user, true, true, fun k s =>
    let r := fFma f32 (coreRm s k) (fGet s k a) (fGet s k b) (fGet s k c)
    floatResult s k d r.1 r.2⟩ s)

/-- FDIV: a / b (R139). -/
def execFdiv (d : BitVec 5) (a : BitVec 5) (b : BitVec 5) (v0 : BitVec 5) (s : State) : Host.Outcome State Fault Refusal :=
  .next (floatOp2 d a b (v0 == 0) (fun rm x y => fDiv f32 rm x y) s)

/-- FSQRT: √a (R139). -/
def execFsqrt (d : BitVec 5) (a : BitVec 5) (v0 : BitVec 10) (s : State) : Host.Outcome State Fault Refusal :=
  .next (floatOp1 d a (v0 == 0) (fun rm x => fSqrt f32 rm x) s)

/-- FMIN (R39, R139). -/
def execFmin (d : BitVec 5) (a : BitVec 5) (b : BitVec 5) (v0 : BitVec 5) (s : State) : Host.Outcome State Fault Refusal :=
  .next (floatOp2 d a b (v0 == 0) (fun _ x y => fMinMax f32 false x y) s)

/-- FMAX (R39, R139). -/
def execFmax (d : BitVec 5) (a : BitVec 5) (b : BitVec 5) (v0 : BitVec 5) (s : State) : Host.Outcome State Fault Refusal :=
  .next (floatOp2 d a b (v0 == 0) (fun _ x y => fMinMax f32 true x y) s)

/-- FEQ (R40, R139). -/
def execFeq (d : BitVec 5) (a : BitVec 5) (b : BitVec 5) (v0 : BitVec 5) (s : State) : Host.Outcome State Fault Refusal :=
  .next (floatOp2 d a b (v0 == 0) (fun _ x y => cmpResult (fCmp f32 0 x y)) s)

/-- FLT (R40, R139). -/
def execFlt (d : BitVec 5) (a : BitVec 5) (b : BitVec 5) (v0 : BitVec 5) (s : State) : Host.Outcome State Fault Refusal :=
  .next (floatOp2 d a b (v0 == 0) (fun _ x y => cmpResult (fCmp f32 2 x y)) s)

/-- FLE (R40, R139). -/
def execFle (d : BitVec 5) (a : BitVec 5) (b : BitVec 5) (v0 : BitVec 5) (s : State) : Host.Outcome State Fault Refusal :=
  .next (floatOp2 d a b (v0 == 0) (fun _ x y => cmpResult (fCmp f32 3 x y)) s)

/-- FCLASS sets no flag (R140). -/
def execFclass (d : BitVec 5) (a : BitVec 5) (v0 : BitVec 10) (s : State) : Host.Outcome State Fault Refusal :=
  .next (floatOp1 d a (v0 == 0) (fun _ x => (fClass f32 x, 0)) s)

/-- FMV: zext(a[31:0]), no flags (R139). -/
def execFmv (d : BitVec 5) (a : BitVec 5) (v0 : BitVec 10) (s : State) : Host.Outcome State Fault Refusal :=
  .next (floatOp1 d a (v0 == 0) (fun _ x => (x, 0)) s)

/-! ### Major 0x0D (R141) -/

/-- FCVT from format `s4` to format `t`, each coded as in R19; an integer that saturates is subject to R131 (R141). -/
def execFcvt (d : BitVec 5) (a : BitVec 5) (s4 : BitVec 4) (t : BitVec 4) (v0 : BitVec 4) (s : State) : Host.Outcome State Fault Refusal :=
  .next (unitC 4 false ⟨.user, v0 == 0, decide (s4.toNat ≤ 10) && decide (t.toNat ≤ 10), fun k s =>
    let r := convert s4 t (coreRm s k) (gGet s k a).toNat
    let w := gImage t r.1
    if bit r.2 6 ∧ bit (s.core k).status 11 then raise s .intOverflow (BitVec.ofNat 64 w)
    else floatResult s k d w r.2⟩ s)

end Sys2Proof.Machine
end

