-- ==== Sys2Proof/Machine/Int.lean ====
section
/-! DEFINITION. Integer and address instructions of the control core (R125 to R131), and their 16-bit forms (R90). -/

namespace Sys2Proof.Machine

/-! ### Shared operations -/

/-- A unit that writes a function of two g registers to rd (R126). -/
def intOp2 (len : Nat) (d a b : BitVec 5) (rsv : Bool) (f : Word64 → Word64 → Word64) (s : State) : State :=
  unitC len false ⟨.user, rsv, true, fun k s => fall (gSet s k d (f (gGet s k a) (gGet s k b)))⟩ s

/-- A unit that writes a function of one g register to rd (R127). -/
def intOp1 (len : Nat) (d a : BitVec 5) (rsv : Bool) (f : Word64 → Word64) (s : State) : State :=
  unitC len false ⟨.user, rsv, true, fun k s => fall (gSet s k d (f (gGet s k a)))⟩ s

/-- A unit that writes a function of ra and of its extensible immediate to rd (R128). -/
def intOpI (d a : BitVec 5) (i : BitVec 12) (f : Word64 → Int → Word64) (s : State) : State :=
  unitC 4 true ⟨.user, true, true, fun k s => fall (gSet s k d (f (gGet s k a) (extImm (s.core k).pfx i)))⟩ s

/-- A division: DIV_ZERO with the dividend in tval for a zero divisor (R126). -/
def divOp (d a b : BitVec 5) (rsv : Bool) (f : Word64 → Word64 → Word64) (s : State) : State :=
  unitC 4 false ⟨.user, rsv, true, fun k s =>
    if gGet s k b = 0 then raise s .divZero (gGet s k a)
    else fall (gSet s k d (f (gGet s k a) (gGet s k b)))⟩ s

/-- A result that has saturated or overflowed where `ovf`: INT_OVERFLOW under status.IOE (R131). -/
def intOver (s : State) (k : Nat) (d : BitVec 5) (r : Word64) (ovf : Bool) : Done :=
  if ovf && bit (s.core k).status 11 then raise s .intOverflow r else fall (gSet s k d r)

/-- 1 where `b` holds, else 0. -/
def boolWord (b : Bool) : Word64 := if b then 1 else 0

/-- Leading zero bits; 64 for 0 (R127). -/
def clz64 (x : Word64) : Nat := if x = 0 then 64 else 63 - Nat.log2 x.toNat

/-- Trailing zero bits; 64 for 0 (R127). -/
def ctz64 (x : Word64) : Nat := ((List.range 64).find? (fun i => bit x i)).getD 64

/-- The number of one bits (R127). -/
def popc64 (x : Word64) : Nat := (List.range 64).countP (fun i => bit x i)

/-- sext(a[w−1:0], w) (R127). -/
def sextTo (x : Word64) (w : Nat) : Word64 := BitVec.ofInt 64 (sextInt x.toNat w)

/-- zext(a[w−1:0], w) (R127). -/
def zextTo (x : Word64) (w : Nat) : Word64 := BitVec.ofNat 64 (x.toNat % 2 ^ w)

/-- The width of SEXT and ZEXT by their size code (R127). -/
def extSize (z : BitVec 5) : Nat := 8 * 2 ^ z.toNat

/-- floor(a × b / 2^64), signed (R126). -/
def mulHigh (a b : Word64) : Word64 := BitVec.ofInt 64 (a.toInt * b.toInt / 2 ^ 64)

/-- floor(u(a) × u(b) / 2^64) (R126). -/
def mulHighN (a b : Word64) : Word64 := BitVec.ofNat 64 (a.toNat * b.toNat / 2 ^ 64)

/-- The bit field [pos + len − 1 : pos] of `a`, zero-extended (R129). -/
def fieldGet (a : Word64) (pos len : Nat) : Word64 := BitVec.ofNat 64 (a.toNat / 2 ^ pos % 2 ^ len)

/-- `old` with bits [pos + len − 1 : pos] replaced by the low bits of `a` (R129). -/
def fieldPut (old a : Word64) (pos len : Nat) : Word64 := putBits old (pos + len - 1) pos a.toNat

/-! ### Major 0x01 (R126) -/

/-- ADD: wrap64(a + b) (R126). -/
def execAdd (d : BitVec 5) (a : BitVec 5) (b : BitVec 5) (v0 : BitVec 5) (s : State) : Host.Outcome State Fault Refusal :=
  .next (intOp2 4 d a b (v0 == 0) (fun x y => x + y) s)

/-- SUB: wrap64(a − b) (R126). -/
def execSub (d : BitVec 5) (a : BitVec 5) (b : BitVec 5) (v0 : BitVec 5) (s : State) : Host.Outcome State Fault Refusal :=
  .next (intOp2 4 d a b (v0 == 0) (fun x y => x - y) s)

/-- MUL: wrap64(a × b) (R126). -/
def execMul (d : BitVec 5) (a : BitVec 5) (b : BitVec 5) (v0 : BitVec 5) (s : State) : Host.Outcome State Fault Refusal :=
  .next (intOp2 4 d a b (v0 == 0) (fun x y => x * y) s)

/-- MULH: the high half of the signed product (R126). -/
def execMulh (d : BitVec 5) (a : BitVec 5) (b : BitVec 5) (v0 : BitVec 5) (s : State) : Host.Outcome State Fault Refusal :=
  .next (intOp2 4 d a b (v0 == 0) (mulHigh) s)

/-- MULHN: the high half of the unsigned product (R126). -/
def execMulhn (d : BitVec 5) (a : BitVec 5) (b : BitVec 5) (v0 : BitVec 5) (s : State) : Host.Outcome State Fault Refusal :=
  .next (intOp2 4 d a b (v0 == 0) (mulHighN) s)

/-- DIV: the quotient rounded toward zero; −2^63 by −1 overflows under status.IOE (R126, R131). -/
def execDiv (d : BitVec 5) (a : BitVec 5) (b : BitVec 5) (v0 : BitVec 5) (s : State) : Host.Outcome State Fault Refusal :=
  .next (unitC 4 false ⟨.user, v0 == 0, true, fun k s =>
    let x := gGet s k a
    let y := gGet s k b
    if y = 0 then raise s .divZero x
    else intOver s k d (BitVec.ofInt 64 (x.toInt.tdiv y.toInt)) (x == 0x8000000000000000 && y == BitVec.allOnes 64)⟩ s)

/-- DIVN: floor(u(a) / u(b)) (R126). -/
def execDivn (d : BitVec 5) (a : BitVec 5) (b : BitVec 5) (v0 : BitVec 5) (s : State) : Host.Outcome State Fault Refusal :=
  .next (divOp d a b (v0 == 0) (fun x y => BitVec.ofNat 64 (x.toNat / y.toNat)) s)

/-- REM: a − b × trunc(a / b) (R126). -/
def execRem (d : BitVec 5) (a : BitVec 5) (b : BitVec 5) (v0 : BitVec 5) (s : State) : Host.Outcome State Fault Refusal :=
  .next (divOp d a b (v0 == 0) (fun x y => BitVec.ofInt 64 (x.toInt.tmod y.toInt)) s)

/-- REMN: u(a) mod u(b) (R126). -/
def execRemn (d : BitVec 5) (a : BitVec 5) (b : BitVec 5) (v0 : BitVec 5) (s : State) : Host.Outcome State Fault Refusal :=
  .next (divOp d a b (v0 == 0) (fun x y => BitVec.ofNat 64 (x.toNat % y.toNat)) s)

/-- AND (R126). -/
def execAnd (d : BitVec 5) (a : BitVec 5) (b : BitVec 5) (v0 : BitVec 5) (s : State) : Host.Outcome State Fault Refusal :=
  .next (intOp2 4 d a b (v0 == 0) (fun x y => x &&& y) s)

/-- OR (R126). -/
def execOr (d : BitVec 5) (a : BitVec 5) (b : BitVec 5) (v0 : BitVec 5) (s : State) : Host.Outcome State Fault Refusal :=
  .next (intOp2 4 d a b (v0 == 0) (fun x y => x ||| y) s)

/-- XOR (R126). -/
def execXor (d : BitVec 5) (a : BitVec 5) (b : BitVec 5) (v0 : BitVec 5) (s : State) : Host.Outcome State Fault Refusal :=
  .next (intOp2 4 d a b (v0 == 0) (fun x y => x ^^^ y) s)

/-- SHL: wrap64(a × 2^(b[5:0])) (R126). -/
def execShl (d : BitVec 5) (a : BitVec 5) (b : BitVec 5) (v0 : BitVec 5) (s : State) : Host.Outcome State Fault Refusal :=
  .next (intOp2 4 d a b (v0 == 0) (fun x y => x <<< bits y 5 0) s)

/-- SHR: floor(u(a) / 2^(b[5:0])) (R126). -/
def execShr (d : BitVec 5) (a : BitVec 5) (b : BitVec 5) (v0 : BitVec 5) (s : State) : Host.Outcome State Fault Refusal :=
  .next (intOp2 4 d a b (v0 == 0) (fun x y => x >>> bits y 5 0) s)

/-- SRA: floor(a / 2^(b[5:0])) (R126). -/
def execSra (d : BitVec 5) (a : BitVec 5) (b : BitVec 5) (v0 : BitVec 5) (s : State) : Host.Outcome State Fault Refusal :=
  .next (intOp2 4 d a b (v0 == 0) (fun x y => x.sshiftRight (bits y 5 0)) s)

/-- ROTR: u(a) rotated right by b[5:0] (R126). -/
def execRotr (d : BitVec 5) (a : BitVec 5) (b : BitVec 5) (v0 : BitVec 5) (s : State) : Host.Outcome State Fault Refusal :=
  .next (intOp2 4 d a b (v0 == 0) (fun x y => x.rotateRight (bits y 5 0)) s)

/-- MIN, signed (R126). -/
def execMin (d : BitVec 5) (a : BitVec 5) (b : BitVec 5) (v0 : BitVec 5) (s : State) : Host.Outcome State Fault Refusal :=
  .next (intOp2 4 d a b (v0 == 0) (fun x y => if x.slt y then x else y) s)

/-- MAX, signed (R126). -/
def execMax (d : BitVec 5) (a : BitVec 5) (b : BitVec 5) (v0 : BitVec 5) (s : State) : Host.Outcome State Fault Refusal :=
  .next (intOp2 4 d a b (v0 == 0) (fun x y => if x.slt y then y else x) s)

/-- MINN, unsigned (R126). -/
def execMinn (d : BitVec 5) (a : BitVec 5) (b : BitVec 5) (v0 : BitVec 5) (s : State) : Host.Outcome State Fault Refusal :=
  .next (intOp2 4 d a b (v0 == 0) (fun x y => if x.ult y then x else y) s)

/-- MAXN, unsigned (R126). -/
def execMaxn (d : BitVec 5) (a : BitVec 5) (b : BitVec 5) (v0 : BitVec 5) (s : State) : Host.Outcome State Fault Refusal :=
  .next (intOp2 4 d a b (v0 == 0) (fun x y => if x.ult y then y else x) s)

/-- SEQ: 1 if a = b, else 0 (R126). -/
def execSeq (d : BitVec 5) (a : BitVec 5) (b : BitVec 5) (v0 : BitVec 5) (s : State) : Host.Outcome State Fault Refusal :=
  .next (intOp2 4 d a b (v0 == 0) (fun x y => boolWord (x == y)) s)

/-- SLT: 1 if a < b, else 0 (R126). -/
def execSlt (d : BitVec 5) (a : BitVec 5) (b : BitVec 5) (v0 : BitVec 5) (s : State) : Host.Outcome State Fault Refusal :=
  .next (intOp2 4 d a b (v0 == 0) (fun x y => boolWord (x.slt y)) s)

/-- SLTN: 1 if u(a) < u(b), else 0 (R126). -/
def execSltn (d : BitVec 5) (a : BitVec 5) (b : BitVec 5) (v0 : BitVec 5) (s : State) : Host.Outcome State Fault Refusal :=
  .next (intOp2 4 d a b (v0 == 0) (fun x y => boolWord (x.ult y)) s)

/-- SEL: a if c ≠ 0, else b (R126). -/
def execSel (d : BitVec 5) (a : BitVec 5) (b : BitVec 5) (c : BitVec 5) (s : State) : Host.Outcome State Fault Refusal :=
  .next (unitC 4 false ⟨.user, true, true, fun k s =>
    fall (gSet s k d (if gGet s k c ≠ 0 then gGet s k a else gGet s k b))⟩ s)

/-- ADDS: sat_s64(a + b) (R126, R131). -/
def execAdds (d : BitVec 5) (a : BitVec 5) (b : BitVec 5) (v0 : BitVec 5) (s : State) : Host.Outcome State Fault Refusal :=
  .next (unitC 4 false ⟨.user, v0 == 0, true, fun k s =>
    let r := satBits 64 ((gGet s k a).toInt + (gGet s k b).toInt)
    intOver s k d (BitVec.ofInt 64 r.1) r.2⟩ s)

/-! ### Major 0x02 (R127) -/

/-- NEG: wrap64(−a) (R127). -/
def execNeg (d : BitVec 5) (a : BitVec 5) (v0 : BitVec 10) (s : State) : Host.Outcome State Fault Refusal :=
  .next (intOp1 4 d a (v0 == 0) (fun x => -x) s)

/-- CLZ (R127). -/
def execClz (d : BitVec 5) (a : BitVec 5) (v0 : BitVec 10) (s : State) : Host.Outcome State Fault Refusal :=
  .next (intOp1 4 d a (v0 == 0) (fun x => BitVec.ofNat 64 (clz64 x)) s)

/-- CTZ (R127). -/
def execCtz (d : BitVec 5) (a : BitVec 5) (v0 : BitVec 10) (s : State) : Host.Outcome State Fault Refusal :=
  .next (intOp1 4 d a (v0 == 0) (fun x => BitVec.ofNat 64 (ctz64 x)) s)

/-- POPC (R127). -/
def execPopc (d : BitVec 5) (a : BitVec 5) (v0 : BitVec 10) (s : State) : Host.Outcome State Fault Refusal :=
  .next (intOp1 4 d a (v0 == 0) (fun x => BitVec.ofNat 64 (popc64 x)) s)

/-- MOV: a (R127). -/
def execMov (d : BitVec 5) (a : BitVec 5) (v0 : BitVec 10) (s : State) : Host.Outcome State Fault Refusal :=
  .next (intOp1 4 d a (v0 == 0) (fun x => x) s)

/-- SEXT; sizes 3 to 31 raise RESERVED_FIELD (R96, R127). -/
def execSext (d : BitVec 5) (a : BitVec 5) (z : BitVec 5) (v0 : BitVec 5) (s : State) : Host.Outcome State Fault Refusal :=
  .next (intOp1 4 d a (v0 == 0 && decide (z.toNat ≤ 2)) (fun x => sextTo x (extSize z)) s)

/-- ZEXT; sizes 3 to 31 raise RESERVED_FIELD (R96, R127). -/
def execZext (d : BitVec 5) (a : BitVec 5) (z : BitVec 5) (v0 : BitVec 5) (s : State) : Host.Outcome State Fault Refusal :=
  .next (intOp1 4 d a (v0 == 0 && decide (z.toNat ≤ 2)) (fun x => zextTo x (extSize z)) s)

/-! ### Major 0x03 (R128) -/

/-- ADDI: wrap64(a + i) (R128). -/
def execAddi (d : BitVec 5) (a : BitVec 5) (i : BitVec 12) (s : State) : Host.Outcome State Fault Refusal :=
  .next (intOpI d a i (fun x i => x + word64 i) s)

/-- ANDI (R128). -/
def execAndi (d : BitVec 5) (a : BitVec 5) (i : BitVec 12) (s : State) : Host.Outcome State Fault Refusal :=
  .next (intOpI d a i (fun x i => x &&& word64 i) s)

/-- ORI (R128). -/
def execOri (d : BitVec 5) (a : BitVec 5) (i : BitVec 12) (s : State) : Host.Outcome State Fault Refusal :=
  .next (intOpI d a i (fun x i => x ||| word64 i) s)

/-- XORI (R128). -/
def execXori (d : BitVec 5) (a : BitVec 5) (i : BitVec 12) (s : State) : Host.Outcome State Fault Refusal :=
  .next (intOpI d a i (fun x i => x ^^^ word64 i) s)

/-- SLTI: 1 if a < i, else 0 (R128). -/
def execSlti (d : BitVec 5) (a : BitVec 5) (i : BitVec 12) (s : State) : Host.Outcome State Fault Refusal :=
  .next (intOpI d a i (fun x i => boolWord (decide (x.toInt < i))) s)

/-- SHLI: wrap64(a × 2^n); not extensible (R91, R128). -/
def execShli (d : BitVec 5) (a : BitVec 5) (n : BitVec 6) (v0 : BitVec 6) (s : State) : Host.Outcome State Fault Refusal :=
  .next (intOp1 4 d a (v0 == 0) (fun x => x <<< n.toNat) s)

/-- SHRI: floor(u(a) / 2^n); not extensible (R91, R128). -/
def execShri (d : BitVec 5) (a : BitVec 5) (n : BitVec 6) (v0 : BitVec 6) (s : State) : Host.Outcome State Fault Refusal :=
  .next (intOp1 4 d a (v0 == 0) (fun x => x >>> n.toNat) s)

/-- SRAI: floor(a / 2^n); not extensible (R91, R128). -/
def execSrai (d : BitVec 5) (a : BitVec 5) (n : BitVec 6) (v0 : BitVec 6) (s : State) : Host.Outcome State Fault Refusal :=
  .next (intOp1 4 d a (v0 == 0) (fun x => x.sshiftRight n.toNat) s)

/-! ### Majors 0x04 to 0x06 (R129, R130) -/

/-- BFX; pos + len above 64 raises RESERVED_FIELD (R129). -/
def execBfx (d : BitVec 5) (a : BitVec 5) (p : BitVec 6) (l : BitVec 6) (s : State) : Host.Outcome State Fault Refusal :=
  .next (intOp1 4 d a (decide (p.toNat + (l.toNat + 1) ≤ 64)) (fun x => fieldGet x p.toNat (l.toNat + 1)) s)

/-- BFI reads rd as a source (R129). -/
def execBfi (d : BitVec 5) (a : BitVec 5) (p : BitVec 6) (l : BitVec 6) (s : State) : Host.Outcome State Fault Refusal :=
  .next (unitC 4 false ⟨.user, decide (p.toNat + (l.toNat + 1) ≤ 64), true, fun k s =>
    fall (gSet s k d (fieldPut (gGet s k d) (gGet s k a) p.toNat (l.toNat + 1)))⟩ s)

/-- LI: sext(F, k) (R130). -/
def execLi (d : BitVec 5) (i : BitVec 20) (s : State) : Host.Outcome State Fault Refusal :=
  .next (unitC 4 true ⟨.user, true, true, fun k s => fall (gSet s k d (word64 (extImm (s.core k).pfx i)))⟩ s)

/-- LIH: wrap64(old rd × 2^k + zext(F, k)) (R130). -/
def execLih (d : BitVec 5) (i : BitVec 20) (s : State) : Host.Outcome State Fault Refusal :=
  .next (unitC 4 true ⟨.user, true, true, fun k s =>
    fall (gSet s k d (BitVec.ofNat 64
      ((gGet s k d).toNat * 2 ^ extWidth (s.core k).pfx 20 + extNat (s.core k).pfx i)))⟩ s)

/-! ### 16-bit forms (R84, R90) -/

/-- LI rd, sext(IMM7) (R90). -/
def execLiShort (d : BitVec 3) (i : BitVec 7) (s : State) : Host.Outcome State Fault Refusal :=
  .next (unitC 2 false ⟨.user, true, true, fun k s => fall (gSet s k (short5 d) (word64 (sextInt i.toNat 7)))⟩ s)

/-- MOV rd, ra; IMM7[6:3] reserved (R90). -/
def execMovShort (d : BitVec 3) (a : BitVec 3) (v0 : BitVec 4) (s : State) : Host.Outcome State Fault Refusal :=
  .next (intOp1 2 (short5 d) (short5 a) (v0 == 0) (fun x => x) s)

/-- ADD rd, ra, rb (R90). -/
def execAddShort (d : BitVec 3) (a : BitVec 3) (b : BitVec 3) (s : State) : Host.Outcome State Fault Refusal :=
  .next (intOp2 2 (short5 d) (short5 a) (short5 b) true (fun x y => x + y) s)

/-- SUB rd, ra, rb (R90). -/
def execSubShort (d : BitVec 3) (a : BitVec 3) (b : BitVec 3) (s : State) : Host.Outcome State Fault Refusal :=
  .next (intOp2 2 (short5 d) (short5 a) (short5 b) true (fun x y => x - y) s)

/-- ADDI rd, ra, RB + 1 (R90). -/
def execAddiShortPos (d : BitVec 3) (a : BitVec 3) (k : BitVec 3) (s : State) : Host.Outcome State Fault Refusal :=
  .next (intOp1 2 (short5 d) (short5 a) true (fun x => x + BitVec.ofNat 64 (k.toNat + 1)) s)

/-- ADDI rd, ra, −(RB + 1) (R90). -/
def execAddiShortNeg (d : BitVec 3) (a : BitVec 3) (k : BitVec 3) (s : State) : Host.Outcome State Fault Refusal :=
  .next (intOp1 2 (short5 d) (short5 a) true (fun x => x - BitVec.ofNat 64 (k.toNat + 1)) s)

/-- SEQ rd, ra, rb (R90). -/
def execSeqShort (d : BitVec 3) (a : BitVec 3) (b : BitVec 3) (s : State) : Host.Outcome State Fault Refusal :=
  .next (intOp2 2 (short5 d) (short5 a) (short5 b) true (fun x y => boolWord (x == y)) s)

/-- SLT rd, ra, rb (R90). -/
def execSltShort (d : BitVec 3) (a : BitVec 3) (b : BitVec 3) (s : State) : Host.Outcome State Fault Refusal :=
  .next (intOp2 2 (short5 d) (short5 a) (short5 b) true (fun x y => boolWord (x.slt y)) s)

/-- SLTN rd, ra, rb (R90). -/
def execSltnShort (d : BitVec 3) (a : BitVec 3) (b : BitVec 3) (s : State) : Host.Outcome State Fault Refusal :=
  .next (intOp2 2 (short5 d) (short5 a) (short5 b) true (fun x y => boolWord (x.ult y)) s)

/-- SEL rd, ra, rb with the condition in rd (R90). -/
def execSelShort (d : BitVec 3) (a : BitVec 3) (b : BitVec 3) (s : State) : Host.Outcome State Fault Refusal :=
  .next (unitC 2 false ⟨.user, true, true, fun k s =>
    fall (gSet s k (short5 d)
      (if gGet s k (short5 d) ≠ 0 then gGet s k (short5 a) else gGet s k (short5 b)))⟩ s)

end Sys2Proof.Machine
end

