-- ==== Sys2Proof/Machine/Mem.lean ====
section
/-! DEFINITION. The global memory instructions of the control core: LD, LDN, ST, PREF, LDA, STL, AMO, CAS (R195 to R200). -/

namespace Sys2Proof.Machine

/-! ### Checks and accesses (R195) -/

/-- Steps 1 to 5 of R195 for an access of `n` bytes: alignment, then translation; a register block is reached only in the
modes its rule names (R179, R194, R426). -/
def memLocate (s : State) (k : Nat) (ea : Word64) (n : Nat) (acc : Access) : Except Stop (Loc × State) :=
  if ea.toNat % n ≠ 0 then raise s .misalignData ea
  else match translate s (coreReq s k .data) ea acc with
    | .error (c, v) => raise s c v
    | .ok (l, s1) =>
      if l.dev && !modeLe (devMode (devBlock s1 l.gpa)) (s.core k).mode then raise s .s1Perm ea else .ok (l, s1)

/-- A load of `n` bytes at ea (R195, R196): MEM_UE and POISON_CONSUMED come last. -/
def memLoad (s : State) (k : Nat) (ea : Word64) (n : Nat) : Except Stop (Nat × State) :=
  match memLocate s k ea n .load with
  | .error e => .error e
  | .ok (l, s1) =>
    if l.dev then .ok (numOf (devRead s1 l.gpa n).1, (devRead s1 l.gpa n).2)
    else match readFault s1 l.key n with
      | some c => raise s c ea
      | none => .ok (numOf (loadLoc s1 (.core k) l n).1, (loadLoc s1 (.core k) l n).2)

/-- The bytes that a store replaces are kept until the core's next FENCE.ACQREL: a fetch may still see them (R95). -/
def keepOld (s : State) (k : Nat) (l : Loc) (n : Nat) : State :=
  let old := fetchBytes s k { l with key := l.key / 64 * 64 } 64
  s.updCore k (fun c => { c with
    unfenced := (List.range n).foldl (fun (m : Tbl Byte) i =>
      if (m.find? (fun e => e.1 == l.key + i)).isSome then m else m.put (l.key + i) (old.getD (l.key % 64 + i) 0)) c.unfenced })

/-- A store of bytes at ea (R195, R196). -/
def memStoreAt (s : State) (k : Nat) (ea : Word64) (b : List Byte) : Except Stop State :=
  match memLocate s k ea b.length .store with
  | .error e => .error e
  | .ok (l, s1) =>
    if l.dev then .ok (if housekeeping s1 l.gpa then s1 else devWrite s1 l.gpa b)
    else .ok (storeLoc (keepOld s1 k l b.length) (.core k) l b)

/-- An atomic on `n` bytes at ea (R177, R195, R199): the old value goes through `f`, which gives the new one, or none where
nothing is written. Kind DEV raises ATOMIC_KIND. -/
def memAtomicAt (s : State) (k : Nat) (ea : Word64) (n : Nat) (f : Nat → Option Nat) : Except Stop (Nat × State) :=
  match memLocate s k ea n .atomic with
  | .error e => .error e
  | .ok (l, s1) =>
    if l.dev || l.kind == 2 then raise s .atomicKind ea
    else match readFault s1 l.key n with
      | some c => raise s c ea
      | none =>
        let g := fun (old : List Byte) => (f (numOf old)).map (fun v => bytesOf v n)
        if l.kind = 1 then
          let s2 := keepOld (flushForAtomic s1 k (lineOf l.key)) k l n
          let old := Memory.readN s2.mem l.key n
          .ok (numOf old, match g old with | some b => writeHome s2 l.key b | none => s2)
        else
          let r := atomicCoh (keepOld s1 k l n) (.core k) l.key n g
          .ok (numOf r.1, r.2)

/-! ### LD, LDN, ST (R196) -/

/-- A load into rt, sign- or zero-extended. -/
def loadBody (t a : BitVec 5) (n : Nat) (off : Int) (signed : Bool) (k : Nat) (s : State) : Done := do
  let ea := gGet s k a + word64 off
  let (v, s1) ← memLoad s k ea n
  fall (gSet s1 k t (if signed then word64 (sextInt v (8 * n)) else BitVec.ofNat 64 v))

/-- A store of the low bytes of rt. -/
def storeBody (t a : BitVec 5) (n : Nat) (off : Int) (k : Nat) (s : State) : Done := do
  let ea := gGet s k a + word64 off
  let s1 ← memStoreAt s k ea (bytesOf (gGet s k t).toNat n)
  fall s1

/-- LD (R196). -/
def execLd (t : BitVec 5) (a : BitVec 5) (z : BitVec 3) (o : BitVec 11) (s : State) : Host.Outcome State Fault Refusal :=
  let off := extImm (payload s s.active) o
  .next (unitC 4 true ⟨.user, decide (z.toNat ≤ 3), true, loadBody t a (2 ^ z.toNat) off true⟩ s)

/-- LDN (R196). -/
def execLdn (t : BitVec 5) (a : BitVec 5) (z : BitVec 3) (o : BitVec 11) (s : State) : Host.Outcome State Fault Refusal :=
  let off := extImm (payload s s.active) o
  .next (unitC 4 true ⟨.user, decide (z.toNat ≤ 3), true, loadBody t a (2 ^ z.toNat) off false⟩ s)

/-- ST (R196). -/
def execSt (t : BitVec 5) (a : BitVec 5) (z : BitVec 3) (o : BitVec 11) (s : State) : Host.Outcome State Fault Refusal :=
  let off := extImm (payload s s.active) o
  .next (unitC 4 true ⟨.user, decide (z.toNat ≤ 3), true, storeBody t a (2 ^ z.toNat) off⟩ s)

/-! ### PREF (R197) -/

/-- The line brought into the isle L2 as a load brings it: a COH copy with its lease, or a clean LOC copy. The agent's time
stays. -/
def prefetchLine (s : State) (k : Nat) (l : Loc) : State :=
  let p := s.pts (.core k)
  match l.kind.toNat with
  | 0 => if (cohHit s (.core k) (lineOf l.key)).isSome then s
    else (cohMiss s (.core k) (l.key / 64 * 64) 64).2.setPts (.core k) p
  | 1 => (locLoad s k (l.key / 64 * 64) 64).2
  | _ => s

/-- PREF: dropped without effect where its translation fails, the kind is DEV or CFG, or the line is poisoned (R197). It
needs no right (R189), and the model's L2 brings a line for writing as it does for reading. -/
def prefBody (a : BitVec 5) (off : Int) (k : Nat) (s : State) : Done :=
  let ea := gGet s k a + word64 off
  match translate s (coreReq s k .data) ea .pref with
  | .error _ => fall s
  | .ok (l, s1) =>
    if l.dev ∨ 2 ≤ l.kind.toNat ∨ s1.poison.contains (lineOf l.key) then fall s else fall (prefetchLine s1 k l)

/-- PREF (R197): RT 2 to 31 or a nonzero SZ raise RESERVED_FIELD. -/
def execPref (_ : BitVec 1) (a : BitVec 5) (o : BitVec 11) (v0 : BitVec 4) (v1 : BitVec 3) (s : State) : Host.Outcome State Fault Refusal :=
  let off := extImm (payload s s.active) o
  .next (unitC 4 true ⟨.user, v0 == 0 && v1 == 0, true, prefBody a off⟩ s)

/-! ### LDA, STL (R198) -/

/-- LDA: a load, then the cache actions of ACQ at SYS scope (R198, R200). -/
def execLda (t : BitVec 5) (a : BitVec 5) (z : BitVec 3) (o : BitVec 11) (s : State) : Host.Outcome State Fault Refusal :=
  let off := extImm (payload s s.active) o
  .next (unitC 4 true ⟨.user, decide (z.toNat ≤ 3), true, fun k s => do
    let (s1, x) ← loadBody t a (2 ^ z.toNat) off true k s
    return (fenceCaches s1 k 1 3, x)⟩ s)

/-- STL: the cache actions of REL at SYS scope, then a store; a store that faults has no effect (R195, R198, R200). -/
def execStl (t : BitVec 5) (a : BitVec 5) (z : BitVec 3) (o : BitVec 11) (s : State) : Host.Outcome State Fault Refusal :=
  let off := extImm (payload s s.active) o
  .next (unitC 4 true ⟨.user, decide (z.toNat ≤ 3), true, fun k s => do
    let _ ← memLocate s k (gGet s k a + word64 off) (2 ^ z.toNat) .store
    storeBody t a (2 ^ z.toNat) off k (fenceCaches s k 2 3)⟩ s)

/-! ### AMO, CAS (R199) -/

/-- An atomic of size code `z` on ra: sizes 0b00 and 0b01 raise ATOMIC_KIND (R88); rd takes the old value,
sign-extended. -/
def amoBody (d a : BitVec 5) (z : BitVec 2) (f : State → Nat → Nat → Option Nat) (k : Nat) (s : State) : Done := do
  let ea := gGet s k a
  check (decide (2 ≤ z.toNat)) s .atomicKind ea
  let w := amoWidth z
  let (old, s1) ← memAtomicAt s k ea (w / 8) (f s w)
  fall (gSet s1 k d (word64 (sextInt old w)))

/-- AMO (R199). -/
def execAmo (d : BitVec 5) (a : BitVec 5) (b : BitVec 5) (z : BitVec 2) (o : BitVec 5) (v0 : BitVec 3) (s : State) : Host.Outcome State Fault Refusal :=
  .next (unitC 4 false ⟨.user, v0 == 0, true, fun k s =>
    amoBody d a z (fun s w old => some (amoResult o.toNat w old (gGet s k b).toNat)) k s⟩ s)

/-- CAS: rd holds the compare value; one that fails is a load of the line (R199). -/
def execCas (d : BitVec 5) (a : BitVec 5) (b : BitVec 5) (z : BitVec 2) (v0 : BitVec 3) (s : State) : Host.Outcome State Fault Refusal :=
  .next (unitC 4 false ⟨.user, v0 == 0, true, fun k s =>
    amoBody d a z (fun s w old =>
      if old = (gGet s k d).toNat % 2 ^ w then some ((gGet s k b).toNat % 2 ^ w) else none) k s⟩ s)

end Sys2Proof.Machine
end

