-- ==== Sys2Proof/Machine/Pageins.lean ====
section
/-! DEFINITION. Page instructions and load slots: PREQ, PPIN, PUNP, PEVT, FRZ, THAW, SNAP, PLACE, CFGW, CFGC, CFGK, CFGA, and
the end of a snapshot (R396 to R405). -/

namespace Sys2Proof.Machine

/-! ### Names (R379, R397) -/

/-- A page-name scalar: the job and the page of the region that it reaches, or DESC_INVALID with the value of ra (R397,
R458). -/
def namedPage (s : State) (k : Nat) (name a : Word64) : Except Stop (Job × Page) := do
  check (decide (bits name 15 6 = 0) && decide (bits name 63 32 = 0)) s .reservedField name
  match s.findJob (s.isle k).ctx (bits name 31 16) with
  | none => raise s .descInvalid a
  | some j =>
    match (if (j.entry (bits name 5 0)).v then pageFor s j (bits name 5 0) else none) with
    | none => raise s .descInvalid a
    | some p => return (j, p)

/-- The pages that act with a page: its gang's, or itself where no gang names it (R351). -/
def actingPages (s : State) (j : Job) (p : Page) : List Page :=
  let l := actsOn s j (gangOf s j p.ix)
  (if l.contains p.ix then l else [p.ix]).filterMap (fun ix => s.page p.ctx p.job ix)

/-- STATE of a page (R398). -/
def pageCode : PageState → Nat
  | .absent => 0 | .fetching => 1 | .placing => 2 | .installing => 3 | .resident => 4 | .draining => 5 | .saved => 6
  | .migrating => 7 | .failed => 8

/-- A tile of the page is frozen: STAT.FROZEN (R390, R400). -/
def pageFrozen (s : State) (p : Page) : Bool := pagePlaced p && (pageTileList p).any (fun t => (s.tile t).frozen)

/-! ### PREQ, PPIN, PUNP, PEVT (R398, R399) -/

/-- The state word of PREQ (R398). -/
def pageWord (s : State) (j : Job) (p : Page) (started : Bool) : Nat :=
  pageCode p.st + b2n p.pinned * 2 ^ 4 + b2n (pageFrozen s p) * 2 ^ 5 + b2n (j.entry p.region).lag * 2 ^ 6 +
    b2n started * 2 ^ 7 + p.die % 4 * 2 ^ 8 + p.bx % 64 * 2 ^ 10 + p.byy % 32 * 2 ^ 16

/-- PREQ makes the demand of R383: the page is out, its gang is current, and its job has been admitted. -/
def preqStarts (s : State) (j : Job) (p : Page) : Bool :=
  (p.st == .absent || p.st == .saved) && inCurGang s p && (j.st == .placing || j.st == .running || j.st == .pageWait)

/-- PREQ. -/
def preqBody (d : BitVec 5) (a : Word64) (k : Nat) (s : State) : Done := do
  let (j, p) ← namedPage s k a a
  let on := preqStarts s j p
  let s1 := if on then demandGang s j else s
  fall (gSet s1 k d (BitVec.ofNat 64 (pageWord s j p on)))

/-- PPIN and PUNP. -/
def pinBody (on : Bool) (d : BitVec 5) (a : Word64) (k : Nat) (s : State) : Done := do
  let (_, p) ← namedPage s k a a
  let s1 := s.updPage p.ctx p.job p.ix (fun x => { x with pinned := on })
  fall (gSet s1 k d (BitVec.ofNat 64 (b2n p.pinned)))

/-- PEVT. -/
def pevtBody (d : BitVec 5) (a : Word64) (k : Nat) (s : State) : Done := do
  let (j, p) ← namedPage s k a a
  if p.st ≠ .resident then fall (gSet s k d 1)
  else
    let g := gangOf s j p.ix
    let s1 := if (actsOn s j g).contains p.ix then evictGang s p.ctx p.job g else evictPage s p
    fall (gSet s1 k d 0)

/-- The frame of a page instruction (R397). -/
def pageUnit (m : Mode) (rsv : Bool) (f : Nat → State → Done) (s : State) : State := unitC 4 false ⟨m, rsv, true, f⟩ s

/-- PREQ (R397, R398). -/
def execPreq (d : BitVec 5) (a : BitVec 5) (v0 : BitVec 10) (s : State) : Host.Outcome State Fault Refusal :=
  .next (pageUnit .user (v0 == 0) (fun k s => preqBody d (gGet s k a) k s) s)

/-- PPIN (R397, R398). -/
def execPpin (d : BitVec 5) (a : BitVec 5) (v0 : BitVec 10) (s : State) : Host.Outcome State Fault Refusal :=
  .next (pageUnit .supervisor (v0 == 0) (fun k s => pinBody true d (gGet s k a) k s) s)

/-- PUNP (R397, R398). -/
def execPunp (d : BitVec 5) (a : BitVec 5) (v0 : BitVec 10) (s : State) : Host.Outcome State Fault Refusal :=
  .next (pageUnit .supervisor (v0 == 0) (fun k s => pinBody false d (gGet s k a) k s) s)

/-- PEVT (R397, R399). -/
def execPevt (d : BitVec 5) (a : BitVec 5) (v0 : BitVec 10) (s : State) : Host.Outcome State Fault Refusal :=
  .next (pageUnit .supervisor (v0 == 0) (fun k s => pevtBody d (gGet s k a) k s) s)

/-! ### FRZ and THAW (R400) -/

/-- The freeze steps of a tile have ended (R160, R283, R390). -/
def tileStill (s : State) (t : Nat) : Bool :=
  (s.cell t).task.isNone && (s.tile t).eng.queue.isEmpty && (s.tile t).slots.all (fun e => e.2.st != .fetching)

/-- FRZ: the pages freeze at once, and the unit completes when the freeze steps have ended. -/
def frzBody (d : BitVec 5) (a : Word64) (k : Nat) (s : State) : Done := do
  let (j, p) ← namedPage s k a a
  if p.st ≠ .resident then fall (gSet s k d 1)
  else
    let ps := (actingPages s j p).filter (fun q => q.st == .resident)
    let s1 := settlePages (ps.foldl frzPage s) ps
    if (ps.flatMap pageTileList).all (tileStill s1) then fall (gSet s1 k d 0) else .error (.wait s1 .reissue)

/-- A MEMORY operator in LOADSEQ or PORT mode of tile `t` sends MARK `m` and records its state (R396). -/
def markSource (s : State) (t m : Nat) : State :=
  let o := s.op t slotMEMORY
  if o.used ∧ (memMode o = 0 ∨ memMode o = 5) then
    fireOp s t slotMEMORY [] (fun s => some (emit (takeMark s t slotMEMORY 0 m) t slotMEMORY 0
      (ctlToken kMARK 0 0 0 0 (BitVec.ofNat 32 m) 0)))
  else s

/-- Sources that a freeze held send the MARK of the snapshot in progress (R396). -/
def lateMarks (s : State) (c n : Nat) (tiles : List Nat) : State :=
  match (s.findJob c n).bind (·.snap) with
  | none => s
  | some v => tiles.foldl (fun s t => if (s.op t slotMEMORY).snapId = v.id then s else markSource s t v.id) s

/-- THAW: the pages that FRZ froze with this one run again. -/
def thawBody (d : BitVec 5) (a : Word64) (k : Nat) (s : State) : Done := do
  let (j, p) ← namedPage s k a a
  if ¬ p.frz then fall (gSet s k d 1)
  else
    let ps := (actingPages s j p).filter (·.frz)
    let s1 := ps.foldl (fun s q =>
      (if q.st = .resident then freezeTiles s q false else s).updPage q.ctx q.job q.ix (fun x => { x with frz := false })) s
    let s2 := lateMarks s1 p.ctx p.job ((ps.filter (fun q => q.st == .resident)).flatMap pageTileList)
    fall (gSet s2 k d 0)

/-- FRZ (R397, R400). -/
def execFrz (d : BitVec 5) (a : BitVec 5) (v0 : BitVec 10) (s : State) : Host.Outcome State Fault Refusal :=
  .next (pageUnit .supervisor (v0 == 0) (fun k s => frzBody d (gGet s k a) k s) s)

/-- THAW (R397, R400). -/
def execThaw (d : BitVec 5) (a : BitVec 5) (v0 : BitVec 10) (s : State) : Host.Outcome State Fault Refusal :=
  .next (pageUnit .supervisor (v0 == 0) (fun k s => thawBody d (gGet s k a) k s) s)

/-! ### Snapshots (R396, R401) -/

/-- The tiles of a job's current gang. -/
def gangTileList (s : State) (j : Job) : List Nat :=
  match curGang j with
  | none => []
  | some g => (gangPages s j g).flatMap (fun ix => match s.page j.ctx j.num ix with
      | some p => pageTileList p
      | none => [])

/-- Snapshot `m` starts: MARK leaves the job's sources (R396). -/
def startSnap (s : State) (j : Job) (v : Snap) : State :=
  let s1 := s.updJob j.ctx j.num (fun x => { x with snap := some v })
  let s2 := stepPort s1 j (fun start => [ctlToken kMARK (j.its % 1024) 0 start j.ctx (BitVec.ofNat 32 v.id) 0])
  (gangTileList s j).foldl (fun s t => markSource s t v.id) s2

/-- SNAP. -/
def snapBody (d : BitVec 5) (a b : Word64) (k : Nat) (s : State) : Done := do
  check (decide (bits a 15 0 = 0) && decide (bits a 63 32 = 0)) s .reservedField a
  match s.anyJob (s.isle k).ctx (bits a 31 16) with
  | none => raise s .descInvalid a
  | some j =>
    check (decide (b.toNat % 64 = 0)) s .misalignData b
    let (l, s1) ← liftCause s (readVa s (coreReq s k .data) b.toNat 64 2)
    if j.st ≠ .running then fall (gSet s k d 1)
    else if j.snap.isSome then fall (gSet s k d 2)
    else
      let v : Snap := ⟨numOf (l.take 2), b.toNat, numOf ((l.drop 8).take 8), numOf ((l.drop 16).take 8), 0, false⟩
      fall (gSet (startSnap s1 j v) k d 0)

/-- SNAP (R397, R401). -/
def execSnap (d : BitVec 5) (a : BitVec 5) (b : BitVec 5) (v0 : BitVec 5) (s : State) : Host.Outcome State Fault Refusal :=
  .next (pageUnit .user (v0 == 0) (fun k s => snapBody d (gGet s k a) (gGet s k b) k s) s)

/-- The operators in use on the tiles of a job's current gang. -/
def gangOps (s : State) (j : Job) : List Op :=
  (gangTileList s j).flatMap (fun t => ((s.tile t).ops.filter (fun e => e.2.used)).map (·.2))

/-- Every operator has recorded the snapshot and every join has cleared SNAPACT or aborted (R396). -/
def snapDone (s : State) (j : Job) (v : Snap) : Bool :=
  (gangOps s j).all (fun o => o.snapId == v.id && (!o.snapAct || o.snapAbt))

/-- The pages' headers and images written to the area from `a` (R401), with `room` bytes left; the free values give sizes
and bytes. -/
def snapPages (s : State) (c : Nat) : (n a room used : Nat) → State × Nat × Bool
  | 0, _, _, used => (s, used, false)
  | n + 1, a, room, used =>
    let size := 64 + (Config.snapSize s.free).toNat
    if room < size then (s, used, true)
    else
      let l := (List.range size).map (fun i => Config.snapByte s.free i)
      snapPages { schedWrite s c a l with free := s.free + 1 } c n (a + size) (room - size) (used + size)

/-- The end of a snapshot: the area, then the word at 0x18 (R396, R401). -/
def endSnap (s : State) (j : Job) (v : Snap) : State :=
  let n := match curGang j with | some g => (gangPages s j g).length | none => 0
  let abt := v.abort || (gangOps s j).any (·.snapAbt)
  let (s1, used, full) := if v.abort then (s, 0, false) else snapPages s j.ctx n v.area v.len 0
  let s2 := schedWrite s1 j.ctx (v.recAddr + 0x18) (bytesOf (1 + 2 * b2n (abt || full) + used % 2 ^ 32 * 2 ^ 16) 8)
  s2.updJob j.ctx j.num (fun x => { x with snap := none })

/-- SNAPSHOT_DONE (R396, R401). -/
def execSnapshotDone (c : Nat) (j : Nat) (s : State) : Host.Outcome State Fault Refusal :=
  .next (match s.findJob c j with
    | none => s
    | some x =>
      match x.snap with
      | none => s
      | some v => if v.abort || snapDone s x v then endSnap s x v else s)

/-! ### Load slots (R402 to R405) -/

/-- The page that load slot `h` (1 to 4) of isle `k` holds. -/
def slotPage (s : State) (k h : Nat) : Option Page :=
  if h = 0 ∨ 4 < h then none else s.pages.find? (fun p => p.load == some (4 * k + (h - 1)))

/-- Load slot `h` of an isle. -/
def loadSlot (s : State) (k h : Nat) : LoadSlot := ((s.isle k).loads.get none (h - 1)).getD ⟨[]⟩

/-- The load state of a tile of a slot. -/
def loadState (s : State) (k h x y : Nat) : LoadState := (loadSlot s k h).tiles.get .blank (16 * y + x)

/-- The load state of a tile of a slot set. -/
def setLoad (s : State) (k h x y : Nat) (v : LoadState) : State :=
  let l := loadSlot s k h
  s.updIsle k (fun i => { i with loads := i.loads.put (h - 1) (some ⟨l.tiles.put (16 * y + x) v⟩) })

/-- The placement word of PLACE (R403). -/
structure Placement where
  bx : Nat
  byy : Nat
  w : Nat
  h : Nat
  skip : Nat

/-- A placement word's fields. -/
def placement (a : Word64) : Placement :=
  ⟨bits a 5 0, bits a 10 6, bits a 14 11 + 1, if bit a 15 then 8 else 4, bits a 47 16⟩

/-- The columns of a placement (R380). -/
def Placement.span (v : Placement) : Nat := pageSpan v.w v.skip

/-- The geometry of R380 and the image's region agree with a placement (R403). -/
def placeOk (s : State) (k : Nat) (j : Job) (p : Page) (v : Placement) : Bool :=
  let r := j.entry p.region
  v.byy % 4 == 0 && decide (v.byy + v.h ≤ 32) && decide (v.span ≤ 32) && decide (v.bx + v.span ≤ 64) &&
    v.skip % 2 == 0 && decide (v.skip < 2 ^ v.span) && v.w == r.wm1 + 1 && v.h == r.height && r.die == isleDie k &&
    p.st == .absent &&
    (spanTiles r.die v.bx v.byy v.w v.h v.skip).all (tileFree s) &&
    (List.range v.w).all (fun c => !shoalIn s r.die (v.bx + physCol v.skip c) v.byy v.h)

/-- PLACE. -/
def placeBody (d : BitVec 5) (a b : Word64) (k : Nat) (s : State) : Done := do
  check (decide (bits a 63 48 = 0)) s .reservedField a
  let (j, p) ← namedPage s k b a
  let v := placement a
  check (placeOk s k j p v) s .placeFail a
  check (decide (residentTiles s p.ctx + v.w * v.h ≤ quotaTiles s p.ctx)) s .quota 0
  match (List.range 4).find? (fun n => ((s.isle k).loads.get none n).isNone) with
  | none => fall (gSet s k d 0)
  | some n =>
    let s1 := s.updIsle k (fun i => { i with loads := i.loads.put n (some ⟨[]⟩) })
    let s2 := s1.updPage p.ctx p.job p.ix (fun x =>
      { x with st := .installing, bx := v.bx, byy := v.byy, skip := v.skip, reserved := true, load := some (4 * k + n) })
    fall (gSet s2 k d (BitVec.ofNat 64 (n + 1)))

/-- PLACE (R397, R403). -/
def execPlace (d : BitVec 5) (a : BitVec 5) (b : BitVec 5) (v0 : BitVec 5) (s : State) : Host.Outcome State Fault Refusal :=
  .next (pageUnit .supervisor (v0 == 0) (fun k s => placeBody d (gGet s k a) (gGet s k b) k s) s)

/-- A tile address scalar: its slot's page, column and row (R402). -/
def slotTile (s : State) (k : Nat) (a : Word64) : Except Stop (Page × Nat × Nat) := do
  check (!bit a 3 && decide (bits a 63 11 = 0)) s .reservedField a
  match slotPage s k (bits a 2 0) with
  | none => raise s .descInvalid a
  | some p =>
    check (decide (bits a 7 4 < p.w) && decide (bits a 10 8 < p.h)) s .reservedField a
    return (p, bits a 7 4, bits a 10 8)

/-- The tile of a page column and row. -/
def pageTile (p : Page) (x y : Nat) : Nat := posTile p p.bx p.byy p.skip x y

/-- A tile record read by core `k` at `b`: its tile word gives its length (R108, R404). -/
def coreRecord (s : State) (k : Nat) (b : Nat) : Except (Cause × Word64) (List Byte × State) := do
  let (l, s1) ← readVa s (coreReq s k .data) b 4 2
  let n := recLen (BitVec.ofNat 32 (numOf l))
  readVa s1 (coreReq s k .data) b n (pieces n)

/-- CFGW. -/
def cfgwBody (a b : Word64) (k : Nat) (s : State) : Done := do
  let (p, x, y) ← slotTile s k a
  check (decide (b.toNat % 8 = 0)) s .misalignData b
  let (l, s1) ← liftCause s (coreRecord s k b.toNat)
  let s2 := s1.updTile (pageTile p x y) (fun v => { v with record := l })
  fall (setLoad s2 k (bits a 2 0) x y .written)

/-- CFGW (R397, R404). -/
def execCfgw (a : BitVec 5) (b : BitVec 5) (v0 : BitVec 5) (v1 : BitVec 5) (s : State) : Host.Outcome State Fault Refusal :=
  .next (pageUnit .supervisor (v0 == 0 && v1 == 0) (fun k s => cfgwBody (gGet s k a) (gGet s k b) k s) s)

/-- A route entry with REMOTE = 0 with its DX mapped back to page columns (R404); none where it ends in a skipped
column. -/
def backRoute (skip x : Nat) (e : Word32) : Option Word32 :=
  if bit e 30 then some e
  else
    let px := (physCol skip x : Int) + sextInt (bits e 22 17) 6
    let back := fun (c : Int) => putBits e 22 17 (wrapPat (c - x) 6)
    if px < 0 then some (back px)
    else (pageCol skip 32 px.toNat).map (fun c => back (c : Int))

/-- A stored record with every DX mapped back (R404). -/
def backRecord (skip x : Nat) (r : List Byte) : Option (List Byte) := do
  let es ← (List.range 32).mapM (fun n => backRoute skip x (recRoute r n))
  return r.take 0x288 ++ es.flatMap (fun e => bytesOf e.toNat 4) ++ r.drop 0x308

/-- The result of CFGC on a record of tile (x, y) (R404). -/
def cfgResult (kind : TileKind) (skip x y : Nat) (r : List Byte) : Nat :=
  match backRecord skip x r with
  | none => 2
  | some m => if !recCrcOk m then 1 else if !recordOk kind m || recX m != x || recY m != y then 2 else 0

/-- CFGC. -/
def cfgcBody (d : BitVec 5) (a : Word64) (k : Nat) (s : State) : Done := do
  let (p, x, y) ← slotTile s k a
  let h := bits a 2 0
  if loadState s k h x y = .blank then fall (gSet s k d 3)
  else
    let t := pageTile p x y
    let r := cfgResult (tileKind t) p.skip x y (s.tile t).record
    fall (gSet (setLoad s k h x y (if r = 0 then .good else .bad)) k d (BitVec.ofNat 64 r))

/-- CFGC (R397, R404). -/
def execCfgc (d : BitVec 5) (a : BitVec 5) (v0 : BitVec 10) (s : State) : Host.Outcome State Fault Refusal :=
  .next (pageUnit .supervisor (v0 == 0) (fun k s => cfgcBody d (gGet s k a) k s) s)

/-- The page of a handle scalar. -/
def slotNamed (s : State) (k : Nat) (a : Word64) : Except Stop Page := do
  check (decide (bits a 63 3 = 0)) s .reservedField a
  match slotPage s k (bits a 2 0) with
  | none => raise s .descInvalid a
  | some p => return p

/-- The tiles of a slot in a load state. -/
def countLoad (s : State) (k h : Nat) (v : LoadState) : Nat := (loadSlot s k h).tiles.countP (fun e => e.2 == v)

/-- The tiles of a slot's page configured from the records written to them: GOOD tiles installed, others unconfigured. -/
def commitTiles (s : State) (k h : Nat) (p : Page) : State :=
  (pageTiles p).foldl (fun s (x, y, t) =>
    installTile s t ⟨p.ctx, p.job, p.region, x, y, p.bx, p.byy, p.skip⟩
      (if loadState s k h x y = .good then some (s.tile t).record else none) id) (baseSkipped s p true)

/-- CFGK. -/
def cfgkBody (d : BitVec 5) (a : Word64) (k : Nat) (s : State) : Done := do
  let p ← slotNamed s k a
  let h := bits a 2 0
  if countLoad s k h .written ≠ 0 ∨ countLoad s k h .bad ≠ 0 then fall (gSet s k d 1)
  else
    let s1 := (commitTiles s k h p).updJob p.ctx p.job (fun j => j.updEntry p.region (fun r =>
      { r with bx := p.bx, byy := p.byy, skip := p.skip }))
    let s2 := gangReady (makeResident (freeLoads s1 p) p) p.ctx p.job
    fall (gSet s2 k d 0)

/-- CFGK (R397, R405). -/
def execCfgk (d : BitVec 5) (a : BitVec 5) (v0 : BitVec 10) (s : State) : Host.Outcome State Fault Refusal :=
  .next (pageUnit .supervisor (v0 == 0) (fun k s => cfgkBody d (gGet s k a) k s) s)

/-- CFGA. -/
def cfgaBody (d : BitVec 5) (a : Word64) (k : Nat) (s : State) : Done := do
  let p ← slotNamed s k a
  let h := bits a 2 0
  let n := countLoad s k h .good + countLoad s k h .bad * 2 ^ 8 + countLoad s k h .written * 2 ^ 16
  let s1 := (unplace s p).updPage p.ctx p.job p.ix (fun x => { x with reserved := false })
  fall (gSet s1 k d (BitVec.ofNat 64 n))

/-- CFGA (R397, R405). -/
def execCfga (d : BitVec 5) (a : BitVec 5) (v0 : BitVec 10) (s : State) : Host.Outcome State Fault Refusal :=
  .next (pageUnit .supervisor (v0 == 0) (fun k s => cfgaBody d (gGet s k a) k s) s)

end Sys2Proof.Machine
end

