-- ==== Sys2Proof/Machine/Vector.lean ====
section
/-! DEFINITION. The vector instructions of cells (R169 to R176). -/

namespace Sys2Proof.Machine

/-! ### Shared operations -/

/-- TY accepted by the arithmetic group, VCMP, VRED and VSEL (R169). -/
def tyArith (t : BitVec 4) : Bool := [0, 2, 4, 6, 7, 8].contains t.toNat

/-- TY accepted by the logic and shift group (R169). -/
def tyInt (t : BitVec 4) : Bool := [0, 2, 4].contains t.toNat

/-- TY accepted by VRCP, VRSQ, VEXP2 and VLOG2 (R169). -/
def tyFloat (t : BitVec 4) : Bool := [6, 7, 8].contains t.toNat

/-- TY accepted by VPACK and VUNPK (R169). -/
def tyPack (t : BitVec 4) : Bool := [2, 3, 7, 8, 4, 5, 9, 10].contains t.toNat

/-- Q is reserved where TY is a float code (R169). -/
def qOk (q : BitVec 1) (t : BitVec 4) : Bool := q == 0 || !fmtIsFloat t

/-- Eight lane results with the union of their flags (R33). -/
def lanesOf (f : Nat → Nat × FlagSet) : Lanes × FlagSet :=
  (Lanes.ofFn (fun i => BitVec.ofNat 32 (f i).1), (List.range 8).foldl (fun a i => a ||| (f i).2) 0)

/-- An element result of type `t` as its lane (R20). -/
def lanePat (t : BitVec 4) (r : Nat × FlagSet) : Nat × FlagSet := ((laneOf t r.1).toNat, r.2)

/-- A vector unit of two sources, lane by lane (R169, R170). -/
def vecOp2 (len cost : Nat) (d a b : BitVec 5) (rsv fmt : Bool) (t : BitVec 4)
    (f : RMode → Nat → Nat → Nat × FlagSet) (s : State) : State :=
  unitL len false ⟨false, true, rsv && dstL d && srcL a && srcL b, fmt, cost, fun k s => do
    let x ← lGet s k a
    let y ← lGet s k b
    let r := lanesOf (fun i => lanePat t (f (cellRm s k) (x.get i).toNat (y.get i).toNat))
    vectorResult s k d r.1 r.2⟩ s

/-- A vector unit of one source, lane by lane. -/
def vecOp1 (len cost : Nat) (d a : BitVec 5) (rsv fmt : Bool) (t : BitVec 4)
    (f : RMode → Nat → Nat × FlagSet) (s : State) : State :=
  unitL len false ⟨false, true, rsv && dstL d && srcL a, fmt, cost, fun k s => do
    let x ← lGet s k a
    let r := lanesOf (fun i => lanePat t (f (cellRm s k) (x.get i).toNat))
    vectorResult s k d r.1 r.2⟩ s

/-- A vector unit of three sources, the third from rd before the write (R88). -/
def vecOp3 (len cost : Nat) (d a b : BitVec 5) (rsv fmt : Bool) (t : BitVec 4)
    (f : RMode → Nat → Nat → Nat → Nat × FlagSet) (s : State) : State :=
  unitL len false ⟨false, true, rsv && dstL d && srcL a && srcL b, fmt, cost, fun k s => do
    let x ← lGet s k a
    let y ← lGet s k b
    let z ← lGet s k d
    let r := lanesOf (fun i => lanePat t (f (cellRm s k) (x.get i).toNat (y.get i).toNat (z.get i).toNat))
    vectorResult s k d r.1 r.2⟩ s

/-- A unit that moves whole lanes of two sources and sets no flag (R175, R176). -/
def laneMove2 (d a b : BitVec 5) (rsv fmt : Bool) (f : Lanes → Lanes → Lanes) (s : State) : State :=
  unitL 4 false ⟨false, true, rsv && dstL d && srcL a && srcL b, fmt, 2, fun k s => do
    let x ← lGet s k a
    let y ← lGet s k b
    fall (lSet s k d (f x y))⟩ s

/-- The shift count: the low log2(w) bits of b (R170). -/
def shiftCount (t : BitVec 4) (b : Nat) : Nat := b % fmtWidth t

/-- The bitwise operations of R170 on w bits. -/
def bitOp (t : BitVec 4) (f : Nat → Nat → Nat) (x y : Nat) : Nat × FlagSet :=
  (f (x % 2 ^ fmtWidth t) (y % 2 ^ fmtWidth t), 0)

/-- VRED: ((l0 + l1) + (l2 + l3)) + ((l4 + l5) + (l6 + l7)) (R172). -/
def reduceLanes (t : BitVec 4) (q : Bool) (rm : RMode) (x : Lanes) : Nat × FlagSet :=
  let add := fun (a b : Nat × FlagSet) =>
    let r := elemAdd t q rm a.1 b.1
    (r.1, a.2 ||| b.2 ||| r.2)
  let l := fun i => ((x.get i).toNat, (0 : FlagSet))
  add (add (add (l 0) (l 1)) (add (l 2) (l 3))) (add (add (l 4) (l 5)) (add (l 6) (l 7)))

/-- Half `j` of a lane. -/
def halfOf (x : Word32) (j : Nat) : Nat := x.toNat / 2 ^ (16 * j) % 2 ^ 16

/-- Byte `j` of a lane. -/
def byteOf (x : Word32) (j : Nat) : Nat := x.toNat / 2 ^ (8 * j) % 2 ^ 8

/-- VPACK (R175). -/
def packLanes (t : BitVec 4) (x y : Lanes) : Lanes :=
  if fmtWidth t = 16 then
    Lanes.ofFn (fun i =>
      let v := if i < 4 then x else y
      let j := i % 4
      BitVec.ofNat 32 (halfOf (v.get (2 * j)) 0 + 2 ^ 16 * halfOf (v.get (2 * j + 1)) 0))
  else
    Lanes.ofFn (fun i =>
      let v := if i < 2 then x else y
      let j := i % 2
      if i < 4 then BitVec.ofNat 32 (byteOf (v.get (4 * j)) 0 + 2 ^ 8 * byteOf (v.get (4 * j + 1)) 0
        + 2 ^ 16 * byteOf (v.get (4 * j + 2)) 0 + 2 ^ 24 * byteOf (v.get (4 * j + 3)) 0)
      else 0)

/-- VUNPK (R175). -/
def unpackLanes (t : BitVec 4) (x : Lanes) (b : Nat) : Lanes :=
  if fmtWidth t = 16 then Lanes.ofFn (fun i => laneOf t (halfOf (x.get (4 * (b % 2) + i / 2)) (i % 2)))
  else Lanes.ofFn (fun i => laneOf t (byteOf (x.get (2 * (b % 4) + i / 4)) (i % 4)))

/-! ### Major 0x16 (R170 to R173) -/

/-- VADD (R170). -/
def execVadd (d : BitVec 5) (a : BitVec 5) (b : BitVec 5) (q : BitVec 1) (t : BitVec 4) (s : State) : Host.Outcome State Fault Refusal :=
  .next (vecOp2 4 2 d a b (qOk q t) (tyArith t) t (fun rm x y => elemAdd t (q == 1) rm x y) s)

/-- VSUB (R170). -/
def execVsub (d : BitVec 5) (a : BitVec 5) (b : BitVec 5) (q : BitVec 1) (t : BitVec 4) (s : State) : Host.Outcome State Fault Refusal :=
  .next (vecOp2 4 2 d a b (qOk q t) (tyArith t) t (fun rm x y => elemSub t (q == 1) rm x y) s)

/-- VMUL (R170). -/
def execVmul (d : BitVec 5) (a : BitVec 5) (b : BitVec 5) (q : BitVec 1) (t : BitVec 4) (s : State) : Host.Outcome State Fault Refusal :=
  .next (vecOp2 4 2 d a b (qOk q t) (tyArith t) t (fun rm x y => elemMul t (q == 1) rm x y) s)

/-- VMIN (R170). -/
def execVmin (d : BitVec 5) (a : BitVec 5) (b : BitVec 5) (q : BitVec 1) (t : BitVec 4) (s : State) : Host.Outcome State Fault Refusal :=
  .next (vecOp2 4 2 d a b (qOk q t) (tyArith t) t (fun _ x y => elemMinMax t (q == 1) false x y) s)

/-- VMAX (R170). -/
def execVmax (d : BitVec 5) (a : BitVec 5) (b : BitVec 5) (q : BitVec 1) (t : BitVec 4) (s : State) : Host.Outcome State Fault Refusal :=
  .next (vecOp2 4 2 d a b (qOk q t) (tyArith t) t (fun _ x y => elemMinMax t (q == 1) true x y) s)

/-- VFMA: a × b + c with c the old rd (R38, R170). -/
def execVfma (d : BitVec 5) (a : BitVec 5) (b : BitVec 5) (q : BitVec 1) (t : BitVec 4) (s : State) : Host.Outcome State Fault Refusal :=
  .next (vecOp3 4 2 d a b (qOk q t) (tyArith t) t (fun rm x y z => elemFma t (q == 1) rm x y z) s)

/-- VABS: a float has its sign cleared but a NaN stays as it is, an integer its absolute value (R170). -/
def execVabs (d : BitVec 5) (a : BitVec 5) (q : BitVec 1) (t : BitVec 4) (v0 : BitVec 5) (s : State) : Host.Outcome State Fault Refusal :=
  .next (vecOp1 4 2 d a (v0 == 0 && qOk q t) (tyArith t) t (fun _ x =>
    if fmtIsInt t then intResult t (q == 1) ((intOf t x).natAbs : Int) else (laneAbs (floatFmt t) x, 0)) s)

/-- VNEG: a float has its sign flipped but a NaN stays as it is, an integer is negated (R170). -/
def execVneg (d : BitVec 5) (a : BitVec 5) (q : BitVec 1) (t : BitVec 4) (v0 : BitVec 5) (s : State) : Host.Outcome State Fault Refusal :=
  .next (vecOp1 4 2 d a (v0 == 0 && qOk q t) (tyArith t) t (fun _ x =>
    if fmtIsInt t then intResult t (q == 1) (-(intOf t x)) else (laneNeg (floatFmt t) x, 0)) s)

/-- VAND on w bits (R170). -/
def execVand (d : BitVec 5) (a : BitVec 5) (b : BitVec 5) (t : BitVec 4) (v0 : BitVec 1) (s : State) : Host.Outcome State Fault Refusal :=
  .next (vecOp2 4 2 d a b (v0 == 0) (tyInt t) t (fun _ x y => bitOp t (fun x y => x &&& y) x y) s)

/-- VOR on w bits (R170). -/
def execVor (d : BitVec 5) (a : BitVec 5) (b : BitVec 5) (t : BitVec 4) (v0 : BitVec 1) (s : State) : Host.Outcome State Fault Refusal :=
  .next (vecOp2 4 2 d a b (v0 == 0) (tyInt t) t (fun _ x y => bitOp t (fun x y => x ||| y) x y) s)

/-- VXOR on w bits (R170). -/
def execVxor (d : BitVec 5) (a : BitVec 5) (b : BitVec 5) (t : BitVec 4) (v0 : BitVec 1) (s : State) : Host.Outcome State Fault Refusal :=
  .next (vecOp2 4 2 d a b (v0 == 0) (tyInt t) t (fun _ x y => bitOp t (fun x y => x ^^^ y) x y) s)

/-- VSHL: w(a × 2^k) (R170). -/
def execVshl (d : BitVec 5) (a : BitVec 5) (b : BitVec 5) (t : BitVec 4) (v0 : BitVec 1) (s : State) : Host.Outcome State Fault Refusal :=
  .next (vecOp2 4 2 d a b (v0 == 0) (tyInt t) t (fun _ x y => (x * 2 ^ shiftCount t y % 2 ^ fmtWidth t, 0)) s)

/-- VSHR: the w-bit pattern shifted right logically (R170). -/
def execVshr (d : BitVec 5) (a : BitVec 5) (b : BitVec 5) (t : BitVec 4) (v0 : BitVec 1) (s : State) : Host.Outcome State Fault Refusal :=
  .next (vecOp2 4 2 d a b (v0 == 0) (tyInt t) t (fun _ x y => (x % 2 ^ fmtWidth t / 2 ^ shiftCount t y, 0)) s)

/-- VSRA: floor(a / 2^k) (R170). -/
def execVsra (d : BitVec 5) (a : BitVec 5) (b : BitVec 5) (t : BitVec 4) (v0 : BitVec 1) (s : State) : Host.Outcome State Fault Refusal :=
  .next (vecOp2 4 2 d a b (v0 == 0) (tyInt t) t (fun _ x y =>
    (wrapPat (intOf t x / (2 ^ shiftCount t y : Nat)) (fmtWidth t), 0)) s)

/-- VSEL copies whole lanes by the whole lane of rd (R171). -/
def execVsel (d : BitVec 5) (a : BitVec 5) (b : BitVec 5) (t : BitVec 4) (v0 : BitVec 1) (s : State) : Host.Outcome State Fault Refusal :=
  .next (unitL 4 false ⟨false, true, v0 == 0 && dstL d && srcL a && srcL b, tyArith t, 2, fun k s => do
    let x ← lGet s k a
    let y ← lGet s k b
    let z ← lGet s k d
    fall (lSet s k d (Lanes.ofFn (fun i => if z.get i ≠ 0 then x.get i else y.get i)))⟩ s)

/-- VRED: lane 0 receives the reduction, the others zero (R172). -/
def execVred (d : BitVec 5) (a : BitVec 5) (q : BitVec 1) (t : BitVec 4) (v0 : BitVec 5) (s : State) : Host.Outcome State Fault Refusal :=
  .next (unitL 4 false ⟨false, true, v0 == 0 && qOk q t && dstL d && srcL a, tyArith t, 3, fun k s => do
    let x ← lGet s k a
    let r := reduceLanes t (q == 1) (cellRm s k) x
    vectorResult s k d (Lanes.ofFn (fun i => if i = 0 then laneOf t r.1 else 0)) r.2⟩ s)

/-- VRCP (R173). -/
def execVrcp (d : BitVec 5) (a : BitVec 5) (t : BitVec 4) (v0 : BitVec 6) (s : State) : Host.Outcome State Fault Refusal :=
  .next (vecOp1 4 4 d a (v0 == 0) (tyFloat t) t (fun rm x => fRcp (floatFmt t) rm x) s)

/-- VRSQ (R173). -/
def execVrsq (d : BitVec 5) (a : BitVec 5) (t : BitVec 4) (v0 : BitVec 6) (s : State) : Host.Outcome State Fault Refusal :=
  .next (vecOp1 4 4 d a (v0 == 0) (tyFloat t) t (fun rm x => fRsq (floatFmt t) rm x) s)

/-- VEXP2 (R173). -/
def execVexp2 (d : BitVec 5) (a : BitVec 5) (t : BitVec 4) (v0 : BitVec 6) (s : State) : Host.Outcome State Fault Refusal :=
  .next (vecOp1 4 4 d a (v0 == 0) (tyFloat t) t (fun rm x => fExp2 (floatFmt t) rm x) s)

/-- VLOG2 (R173). -/
def execVlog2 (d : BitVec 5) (a : BitVec 5) (t : BitVec 4) (v0 : BitVec 6) (s : State) : Host.Outcome State Fault Refusal :=
  .next (vecOp1 4 4 d a (v0 == 0) (tyFloat t) t (fun rm x => fLog2 (floatFmt t) rm x) s)

/-- VCMP: a mask of all ones or zero per lane, whatever TY is (R40, R171). -/
def execVcmp (d : BitVec 5) (a : BitVec 5) (b : BitVec 5) (q : BitVec 1) (t : BitVec 4) (r : BitVec 3) (s : State) : Host.Outcome State Fault Refusal :=
  .next (unitL 4 false ⟨false, true, qOk q t && dstL d && srcL a && srcL b, tyArith t, 2, fun k s => do
    let x ← lGet s k a
    let y ← lGet s k b
    let r := lanesOf (fun i =>
      let c := elemCmp t (q == 1) r.toNat (x.get i).toNat (y.get i).toNat
      (if c.1 then 2 ^ 32 - 1 else 0, c.2))
    vectorResult s k d r.1 r.2⟩ s)

/-! ### Major 0x17 (R174 to R176) -/

/-- VCVT from TY to the format in RB (R41, R174). -/
def execVcvt (d : BitVec 5) (a : BitVec 5) (e : BitVec 4) (t : BitVec 4) (v0 : BitVec 1) (v1 : BitVec 1) (s : State) : Host.Outcome State Fault Refusal :=
  .next (unitL 4 false ⟨false, true, v0 == 0 && v1 == 0 && dstL d && srcL a,
    decide (t.toNat ≤ 10) && decide (e.toNat ≤ 10), 2, fun k s => do
    let x ← lGet s k a
    let r := lanesOf (fun i => lanePat e (convert t e (cellRm s k) (x.get i).toNat))
    vectorResult s k d r.1 r.2⟩ s)

/-- VPACK (R175). -/
def execVpack (d : BitVec 5) (a : BitVec 5) (b : BitVec 5) (t : BitVec 4) (v0 : BitVec 1) (s : State) : Host.Outcome State Fault Refusal :=
  .next (laneMove2 d a b (v0 == 0) (tyPack t) (packLanes t) s)

/-- VUNPK with b the scalar of rb (R175). -/
def execVunpk (d : BitVec 5) (a : BitVec 5) (b : BitVec 5) (t : BitVec 4) (v0 : BitVec 1) (s : State) : Host.Outcome State Fault Refusal :=
  .next (laneMove2 d a b (v0 == 0) (tyPack t) (fun x y => unpackLanes t x y.scalar.toNat) s)

/-- VPERM (R176). -/
def execVperm (d : BitVec 5) (a : BitVec 5) (b : BitVec 5) (t : BitVec 4) (v0 : BitVec 1) (s : State) : Host.Outcome State Fault Refusal :=
  .next (laneMove2 d a b (v0 == 0) (t == 0) (fun x y => Lanes.ofFn (fun i => x.get (y.get i).toNat)) s)

/-- VBCST (R176). -/
def execVbcst (d : BitVec 5) (a : BitVec 5) (b : BitVec 5) (t : BitVec 4) (v0 : BitVec 1) (s : State) : Host.Outcome State Fault Refusal :=
  .next (laneMove2 d a b (v0 == 0) (t == 0) (fun x y => Lanes.ofFn (fun _ => x.get y.scalar.toNat)) s)

/-- VLEN: the element count of the token that supplied i0 or i1 (R176). -/
def execVlen (d : BitVec 5) (a : BitVec 5) (t : BitVec 4) (v0 : BitVec 6) (s : State) : Host.Outcome State Fault Refusal :=
  .next (unitL 4 false ⟨false, true, v0 == 0 && dstL d && (a == 8 || a == 9), t == 0, 1, fun k s =>
    let n := if a = 8 then bits (s.task k).hdr 51 49 + 1 else (s.task k).len1
    fall (sSetL s k d (BitVec.ofNat 64 n))⟩ s)

/-- VCAT (R176). -/
def execVcat (d : BitVec 5) (a : BitVec 5) (b : BitVec 5) (t : BitVec 4) (v0 : BitVec 1) (s : State) : Host.Outcome State Fault Refusal :=
  .next (laneMove2 d a b (v0 == 0) (t == 0) (fun x y => Lanes.ofFn (fun i => if i < 4 then x.get i else y.get (i - 4))) s)

/-- VSPL (R176). -/
def execVspl (d : BitVec 5) (a : BitVec 5) (t : BitVec 4) (v0 : BitVec 6) (s : State) : Host.Outcome State Fault Refusal :=
  .next (unitL 4 false ⟨false, true, v0 == 0 && dstL d && srcL a, t == 0, 2, fun k s => do
    let x ← lGet s k a
    fall (lSet s k d (Lanes.ofFn (fun i => if i < 4 then x.get (i + 4) else 0)))⟩ s)

/-- VIDX: lane i := i (R176). -/
def execVidx (d : BitVec 5) (t : BitVec 4) (v0 : BitVec 11) (s : State) : Host.Outcome State Fault Refusal :=
  .next (unitL 4 false ⟨false, true, v0 == 0 && dstL d, t == 0, 1, fun k s =>
    fall (lSet s k d (Lanes.ofFn (fun i => BitVec.ofNat 32 i)))⟩ s)

/-! ### 16-bit forms (R84, R90) -/

/-- VADD.F32 rd, ra, rb with Q = 0 (R90). -/
def execVaddF32Short (d : BitVec 3) (a : BitVec 3) (b : BitVec 3) (s : State) : Host.Outcome State Fault Refusal :=
  .next (vecOp2 2 2 (shortT d) (shortT a) (shortT b) true true 6 (fun rm x y => elemAdd 6 false rm x y) s)

/-- VMUL.F32 rd, ra, rb with Q = 0 (R90). -/
def execVmulF32Short (d : BitVec 3) (a : BitVec 3) (b : BitVec 3) (s : State) : Host.Outcome State Fault Refusal :=
  .next (vecOp2 2 2 (shortT d) (shortT a) (shortT b) true true 6 (fun rm x y => elemMul 6 false rm x y) s)

/-- VADD.I32 rd, ra, rb with Q = 0 (R90). -/
def execVaddI32Short (d : BitVec 3) (a : BitVec 3) (b : BitVec 3) (s : State) : Host.Outcome State Fault Refusal :=
  .next (vecOp2 2 2 (shortT d) (shortT a) (shortT b) true true 0 (fun rm x y => elemAdd 0 false rm x y) s)

/-- VFMA.F32 rd, ra, rb with Q = 0 (R90). -/
def execVfmaF32Short (d : BitVec 3) (a : BitVec 3) (b : BitVec 3) (s : State) : Host.Outcome State Fault Refusal :=
  .next (vecOp3 2 2 (shortT d) (shortT a) (shortT b) true true 6 (fun rm x y z => elemFma 6 false rm x y z) s)

end Sys2Proof.Machine
end

