-- ==== Sys2Proof/Machine/Dispatch.lean ====
section
/-! DEFINITION. The meaning of every instruction and step: one arm per constructor of `Instr`. -/

namespace Sys2Proof.Machine

/-- The effect of one instruction or step. -/
def exec (i : Instr) (s : State) : Host.Outcome State Fault Refusal :=
  match i with
  | .add d a b v0 => Sys2Proof.Machine.execAdd d a b v0 s
  | .sub d a b v0 => Sys2Proof.Machine.execSub d a b v0 s
  | .mul d a b v0 => Sys2Proof.Machine.execMul d a b v0 s
  | .mulh d a b v0 => Sys2Proof.Machine.execMulh d a b v0 s
  | .mulhn d a b v0 => Sys2Proof.Machine.execMulhn d a b v0 s
  | .div d a b v0 => Sys2Proof.Machine.execDiv d a b v0 s
  | .divn d a b v0 => Sys2Proof.Machine.execDivn d a b v0 s
  | .rem d a b v0 => Sys2Proof.Machine.execRem d a b v0 s
  | .remn d a b v0 => Sys2Proof.Machine.execRemn d a b v0 s
  | .and d a b v0 => Sys2Proof.Machine.execAnd d a b v0 s
  | .or d a b v0 => Sys2Proof.Machine.execOr d a b v0 s
  | .xor d a b v0 => Sys2Proof.Machine.execXor d a b v0 s
  | .shl d a b v0 => Sys2Proof.Machine.execShl d a b v0 s
  | .shr d a b v0 => Sys2Proof.Machine.execShr d a b v0 s
  | .sra d a b v0 => Sys2Proof.Machine.execSra d a b v0 s
  | .rotr d a b v0 => Sys2Proof.Machine.execRotr d a b v0 s
  | .min d a b v0 => Sys2Proof.Machine.execMin d a b v0 s
  | .max d a b v0 => Sys2Proof.Machine.execMax d a b v0 s
  | .minn d a b v0 => Sys2Proof.Machine.execMinn d a b v0 s
  | .maxn d a b v0 => Sys2Proof.Machine.execMaxn d a b v0 s
  | .seq d a b v0 => Sys2Proof.Machine.execSeq d a b v0 s
  | .slt d a b v0 => Sys2Proof.Machine.execSlt d a b v0 s
  | .sltn d a b v0 => Sys2Proof.Machine.execSltn d a b v0 s
  | .sel d a b c => Sys2Proof.Machine.execSel d a b c s
  | .adds d a b v0 => Sys2Proof.Machine.execAdds d a b v0 s
  | .neg d a v0 => Sys2Proof.Machine.execNeg d a v0 s
  | .clz d a v0 => Sys2Proof.Machine.execClz d a v0 s
  | .ctz d a v0 => Sys2Proof.Machine.execCtz d a v0 s
  | .popc d a v0 => Sys2Proof.Machine.execPopc d a v0 s
  | .mov d a v0 => Sys2Proof.Machine.execMov d a v0 s
  | .sext d a z v0 => Sys2Proof.Machine.execSext d a z v0 s
  | .zext d a z v0 => Sys2Proof.Machine.execZext d a z v0 s
  | .addi d a imm => Sys2Proof.Machine.execAddi d a imm s
  | .andi d a imm => Sys2Proof.Machine.execAndi d a imm s
  | .ori d a imm => Sys2Proof.Machine.execOri d a imm s
  | .xori d a imm => Sys2Proof.Machine.execXori d a imm s
  | .slti d a imm => Sys2Proof.Machine.execSlti d a imm s
  | .shli d a n v0 => Sys2Proof.Machine.execShli d a n v0 s
  | .shri d a n v0 => Sys2Proof.Machine.execShri d a n v0 s
  | .srai d a n v0 => Sys2Proof.Machine.execSrai d a n v0 s
  | .bfx d a p l => Sys2Proof.Machine.execBfx d a p l s
  | .bfi d a p l => Sys2Proof.Machine.execBfi d a p l s
  | .li d imm => Sys2Proof.Machine.execLi d imm s
  | .lih d imm => Sys2Proof.Machine.execLih d imm s
  | .beq a b o => Sys2Proof.Machine.execBeq a b o s
  | .bne a b o => Sys2Proof.Machine.execBne a b o s
  | .blt a b o => Sys2Proof.Machine.execBlt a b o s
  | .bge a b o => Sys2Proof.Machine.execBge a b o s
  | .bltn a b o => Sys2Proof.Machine.execBltn a b o s
  | .bgen a b o => Sys2Proof.Machine.execBgen a b o s
  | .bz a o v0 => Sys2Proof.Machine.execBz a o v0 s
  | .bnz a o v0 => Sys2Proof.Machine.execBnz a o v0 s
  | .jal d o => Sys2Proof.Machine.execJal d o s
  | .jr d a imm => Sys2Proof.Machine.execJr d a imm s
  | .loop d a imm => Sys2Proof.Machine.execLoop d a imm s
  | .halt v0 v1 => Sys2Proof.Machine.execHalt v0 v1 s
  | .fadd d a b v0 => Sys2Proof.Machine.execFadd d a b v0 s
  | .fsub d a b v0 => Sys2Proof.Machine.execFsub d a b v0 s
  | .fmul d a b v0 => Sys2Proof.Machine.execFmul d a b v0 s
  | .ffma d a b c => Sys2Proof.Machine.execFfma d a b c s
  | .fdiv d a b v0 => Sys2Proof.Machine.execFdiv d a b v0 s
  | .fsqrt d a v0 => Sys2Proof.Machine.execFsqrt d a v0 s
  | .fmin d a b v0 => Sys2Proof.Machine.execFmin d a b v0 s
  | .fmax d a b v0 => Sys2Proof.Machine.execFmax d a b v0 s
  | .feq d a b v0 => Sys2Proof.Machine.execFeq d a b v0 s
  | .flt d a b v0 => Sys2Proof.Machine.execFlt d a b v0 s
  | .fle d a b v0 => Sys2Proof.Machine.execFle d a b v0 s
  | .fclass d a v0 => Sys2Proof.Machine.execFclass d a v0 s
  | .fmv d a v0 => Sys2Proof.Machine.execFmv d a v0 s
  | .fcvt d a s0 t v0 => Sys2Proof.Machine.execFcvt d a s0 t v0 s
  | .ld t a z o => Sys2Proof.Machine.execLd t a z o s
  | .ldn t a z o => Sys2Proof.Machine.execLdn t a z o s
  | .st t a z o => Sys2Proof.Machine.execSt t a z o s
  | .pref w a o v0 v1 => Sys2Proof.Machine.execPref w a o v0 v1 s
  | .lda t a z o => Sys2Proof.Machine.execLda t a z o s
  | .stl t a z o => Sys2Proof.Machine.execStl t a z o s
  | .amo d a b z o v0 => Sys2Proof.Machine.execAmo d a b z o v0 s
  | .cas d a b z v0 => Sys2Proof.Machine.execCas d a b z v0 s
  | .lds t a z o => Sys2Proof.Machine.execLds t a z o s
  | .sts t a z o => Sys2Proof.Machine.execSts t a z o s
  | .amos d a b z o v0 => Sys2Proof.Machine.execAmos d a b z o v0 s
  | .tsb d a b v0 => Sys2Proof.Machine.execTsb d a b v0 s
  | .tcb d a b v0 => Sys2Proof.Machine.execTcb d a b v0 s
  | .fence k s0 v0 => Sys2Proof.Machine.execFence k s0 v0 s
  | .ownDecl d a b v0 => Sys2Proof.Machine.execOwnDecl d a b v0 s
  | .ownGive d a b v0 => Sys2Proof.Machine.execOwnGive d a b v0 s
  | .ownTake d a v0 => Sys2Proof.Machine.execOwnTake d a v0 s
  | .ownDrop d a v0 => Sys2Proof.Machine.execOwnDrop d a v0 s
  | .vadd d a b q t => Sys2Proof.Machine.execVadd d a b q t s
  | .vsub d a b q t => Sys2Proof.Machine.execVsub d a b q t s
  | .vmul d a b q t => Sys2Proof.Machine.execVmul d a b q t s
  | .vfma d a b q t => Sys2Proof.Machine.execVfma d a b q t s
  | .vmin d a b q t => Sys2Proof.Machine.execVmin d a b q t s
  | .vmax d a b q t => Sys2Proof.Machine.execVmax d a b q t s
  | .vabs d a q t v0 => Sys2Proof.Machine.execVabs d a q t v0 s
  | .vneg d a q t v0 => Sys2Proof.Machine.execVneg d a q t v0 s
  | .vand d a b t v0 => Sys2Proof.Machine.execVand d a b t v0 s
  | .vor d a b t v0 => Sys2Proof.Machine.execVor d a b t v0 s
  | .vxor d a b t v0 => Sys2Proof.Machine.execVxor d a b t v0 s
  | .vshl d a b t v0 => Sys2Proof.Machine.execVshl d a b t v0 s
  | .vshr d a b t v0 => Sys2Proof.Machine.execVshr d a b t v0 s
  | .vsra d a b t v0 => Sys2Proof.Machine.execVsra d a b t v0 s
  | .vsel d a b t v0 => Sys2Proof.Machine.execVsel d a b t v0 s
  | .vred d a q t v0 => Sys2Proof.Machine.execVred d a q t v0 s
  | .vrcp d a t v0 => Sys2Proof.Machine.execVrcp d a t v0 s
  | .vrsq d a t v0 => Sys2Proof.Machine.execVrsq d a t v0 s
  | .vexp2 d a t v0 => Sys2Proof.Machine.execVexp2 d a t v0 s
  | .vlog2 d a t v0 => Sys2Proof.Machine.execVlog2 d a t v0 s
  | .vcmp d a b q t r => Sys2Proof.Machine.execVcmp d a b q t r s
  | .vcvt d a e t v0 v1 => Sys2Proof.Machine.execVcvt d a e t v0 v1 s
  | .vpack d a b t v0 => Sys2Proof.Machine.execVpack d a b t v0 s
  | .vunpk d a b t v0 => Sys2Proof.Machine.execVunpk d a b t v0 s
  | .vperm d a b t v0 => Sys2Proof.Machine.execVperm d a b t v0 s
  | .vbcst d a b t v0 => Sys2Proof.Machine.execVbcst d a b t v0 s
  | .vlen d a t v0 => Sys2Proof.Machine.execVlen d a t v0 s
  | .vcat d a b t v0 => Sys2Proof.Machine.execVcat d a b t v0 s
  | .vspl d a t v0 => Sys2Proof.Machine.execVspl d a t v0 s
  | .vidx d t v0 => Sys2Proof.Machine.execVidx d t v0 s
  | .send s0 r m l o => Sys2Proof.Machine.execSend s0 r m l o s
  | .sende r m o v0 v1 => Sys2Proof.Machine.execSende r m o v0 v1 s
  | .sendr s0 r m o v0 => Sys2Proof.Machine.execSendr s0 r m o v0 s
  | .sendm s0 r m o v0 => Sys2Proof.Machine.execSendm s0 r m o v0 s
  | .sendo r m o v0 v1 => Sys2Proof.Machine.execSendo r m o v0 v1 s
  | .hdr d a b v0 => Sys2Proof.Machine.execHdr d a b v0 s
  | .tagx d a b v0 => Sys2Proof.Machine.execTagx d a b v0 s
  | .falloc d v0 => Sys2Proof.Machine.execFalloc d v0 s
  | .ffree a v0 v1 => Sys2Proof.Machine.execFfree a v0 v1 s
  | .fsto n a b s0 v0 v1 => Sys2Proof.Machine.execFsto n a b s0 v0 v1 s
  | .fldo d a s0 v0 => Sys2Proof.Machine.execFldo d a s0 v0 s
  | .inj a b v0 v1 => Sys2Proof.Machine.execInj a b v0 v1 s
  | .sld d r v0 => Sys2Proof.Machine.execSld d r v0 s
  | .sst d r v0 => Sys2Proof.Machine.execSst d r v0 s
  | .sbind d r v0 => Sys2Proof.Machine.execSbind d r v0 s
  | .sunb d v0 => Sys2Proof.Machine.execSunb d v0 s
  | .sadd d a r => Sys2Proof.Machine.execSadd d a r s
  | .smax d a r => Sys2Proof.Machine.execSmax d a r s
  | .smin d a r => Sys2Proof.Machine.execSmin d a r s
  | .smulv d a r => Sys2Proof.Machine.execSmulv d a r s
  | .snorm d a v0 => Sys2Proof.Machine.execSnorm d a v0 s
  | .scpy d a v0 => Sys2Proof.Machine.execScpy d a v0 s
  | .sgen d r v0 => Sys2Proof.Machine.execSgen d r v0 s
  | .szero d v0 => Sys2Proof.Machine.execSzero d v0 s
  | .tfetch d a b n => Sys2Proof.Machine.execTfetch d a b n s
  | .trel a v0 v1 => Sys2Proof.Machine.execTrel a v0 v1 s
  | .mma a b c v0 => Sys2Proof.Machine.execMma a b c v0 s
  | .mmai a b c v0 => Sys2Proof.Machine.execMmai a b c v0 s
  | .macc a b v0 v1 => Sys2Proof.Machine.execMacc a b v0 v1 s
  | .mzero a v0 v1 => Sys2Proof.Machine.execMzero a v0 v1 s
  | .meor a b v0 v1 => Sys2Proof.Machine.execMeor a b v0 v1 s
  | .mrd d a b v0 => Sys2Proof.Machine.execMrd d a b v0 s
  | .opw a b v0 v1 => Sys2Proof.Machine.execOpw a b v0 v1 s
  | .opr d a v0 => Sys2Proof.Machine.execOpr d a v0 s
  | .opsnap d a b v0 => Sys2Proof.Machine.execOpsnap d a b v0 s
  | .cpy a b t v0 => Sys2Proof.Machine.execCpy a b t v0 s
  | .cpyb d a b v0 => Sys2Proof.Machine.execCpyb d a b v0 s
  | .ctarm d a b q => Sys2Proof.Machine.execCtarm d a b q s
  | .ctdis d q v0 => Sys2Proof.Machine.execCtdis d q v0 s
  | .strmi d a t v0 => Sys2Proof.Machine.execStrmi d a t v0 s
  | .strmiStop d a t v0 => Sys2Proof.Machine.execStrmiStop d a t v0 s
  | .strmo a b t v0 => Sys2Proof.Machine.execStrmo a b t v0 s
  | .strms a t v0 v1 => Sys2Proof.Machine.execStrms a t v0 v1 s
  | .strmsStop a t v0 v1 => Sys2Proof.Machine.execStrmsStop a t v0 v1 s
  | .strmb t v0 => Sys2Proof.Machine.execStrmb t v0 s
  | .cwany d a v0 => Sys2Proof.Machine.execCwany d a v0 s
  | .cwall a v0 v1 => Sys2Proof.Machine.execCwall a v0 v1 s
  | .cffr d a v0 => Sys2Proof.Machine.execCffr d a v0 s
  | .qpush d a b t v0 => Sys2Proof.Machine.execQpush d a b t v0 s
  | .qpop d a b t v0 => Sys2Proof.Machine.execQpop d a b t v0 s
  | .cont d a b v0 => Sys2Proof.Machine.execCont d a b v0 s
  | .join d a v0 => Sys2Proof.Machine.execJoin d a v0 s
  | .steal d a b c => Sys2Proof.Machine.execSteal d a b c s
  | .qstat d a v0 => Sys2Proof.Machine.execQstat d a v0 s
  | .binit a b v0 v1 => Sys2Proof.Machine.execBinit a b v0 v1 s
  | .barr d a b v0 => Sys2Proof.Machine.execBarr d a b v0 s
  | .barrx d a b c => Sys2Proof.Machine.execBarrx d a b c s
  | .bwait d a b c => Sys2Proof.Machine.execBwait d a b c s
  | .bwaitp d a b c => Sys2Proof.Machine.execBwaitp d a b c s
  | .btest d a b v0 => Sys2Proof.Machine.execBtest d a b v0 s
  | .bsec a b v0 v1 => Sys2Proof.Machine.execBsec a b v0 v1 s
  | .preq d a v0 => Sys2Proof.Machine.execPreq d a v0 s
  | .ppin d a v0 => Sys2Proof.Machine.execPpin d a v0 s
  | .punp d a v0 => Sys2Proof.Machine.execPunp d a v0 s
  | .pevt d a v0 => Sys2Proof.Machine.execPevt d a v0 s
  | .step d a b v0 => Sys2Proof.Machine.execStep d a b v0 s
  | .frz d a v0 => Sys2Proof.Machine.execFrz d a v0 s
  | .thaw d a v0 => Sys2Proof.Machine.execThaw d a v0 s
  | .snap d a b v0 => Sys2Proof.Machine.execSnap d a b v0 s
  | .cfgw a b v0 v1 => Sys2Proof.Machine.execCfgw a b v0 v1 s
  | .cfgc d a v0 => Sys2Proof.Machine.execCfgc d a v0 s
  | .cfgk d a v0 => Sys2Proof.Machine.execCfgk d a v0 s
  | .cfga d a v0 => Sys2Proof.Machine.execCfga d a v0 s
  | .place d a b v0 => Sys2Proof.Machine.execPlace d a b v0 s
  | .srd d r v0 => Sys2Proof.Machine.execSrd d r v0 s
  | .swr a r v0 => Sys2Proof.Machine.execSwr a r v0 s
  | .trap c v0 => Sys2Proof.Machine.execTrap c v0 s
  | .eret v0 v1 => Sys2Proof.Machine.execEret v0 v1 s
  | .wfe v0 v1 => Sys2Proof.Machine.execWfe v0 v1 s
  | .sev v0 v1 => Sys2Proof.Machine.execSev v0 v1 s
  | .brk c v0 => Sys2Proof.Machine.execBrk c v0 s
  | .cyc d v0 v1 => Sys2Proof.Machine.execCyc d v0 v1 s
  | .tlbi a s0 g p v0 v1 => Sys2Proof.Machine.execTlbi a s0 g p v0 v1 s
  | .sigv a t v0 v1 => Sys2Proof.Machine.execSigv a t v0 v1 s
  | .connStatus d a b v0 => Sys2Proof.Machine.execConnStatus d a b v0 s
  | .connOpen d a b v0 => Sys2Proof.Machine.execConnOpen d a b v0 s
  | .connClose d a b v0 => Sys2Proof.Machine.execConnClose d a b v0 s
  | .connReset d a b v0 => Sys2Proof.Machine.execConnReset d a b v0 s
  | .ctxs d a v0 => Sys2Proof.Machine.execCtxs d a v0 s
  | .ctxl d a v0 => Sys2Proof.Machine.execCtxl d a v0 s
  | .hint h => Sys2Proof.Machine.execHint h s
  | .nop => Sys2Proof.Machine.execNop s
  | .hintShort h => Sys2Proof.Machine.execHintShort h s
  | .ext p => Sys2Proof.Machine.execExt p s
  | .liShort d imm => Sys2Proof.Machine.execLiShort d imm s
  | .movShort d a v0 => Sys2Proof.Machine.execMovShort d a v0 s
  | .addShort d a b => Sys2Proof.Machine.execAddShort d a b s
  | .subShort d a b => Sys2Proof.Machine.execSubShort d a b s
  | .addiShortPos d a k => Sys2Proof.Machine.execAddiShortPos d a k s
  | .addiShortNeg d a k => Sys2Proof.Machine.execAddiShortNeg d a k s
  | .vaddF32Short d a b => Sys2Proof.Machine.execVaddF32Short d a b s
  | .vmulF32Short d a b => Sys2Proof.Machine.execVmulF32Short d a b s
  | .vfmaF32Short d a b => Sys2Proof.Machine.execVfmaF32Short d a b s
  | .vaddI32Short d a b => Sys2Proof.Machine.execVaddI32Short d a b s
  | .sendShort s0 n o => Sys2Proof.Machine.execSendShort s0 n o s
  | .sendIncShort s0 n o => Sys2Proof.Machine.execSendIncShort s0 n o s
  | .ldsShort t a o => Sys2Proof.Machine.execLdsShort t a o s
  | .stsShort t a o => Sys2Proof.Machine.execStsShort t a o s
  | .bzShort a o => Sys2Proof.Machine.execBzShort a o s
  | .bnzShort a o => Sys2Proof.Machine.execBnzShort a o s
  | .seqShort d a b => Sys2Proof.Machine.execSeqShort d a b s
  | .sltShort d a b => Sys2Proof.Machine.execSltShort d a b s
  | .sltnShort d a b => Sys2Proof.Machine.execSltnShort d a b s
  | .selShort d a b => Sys2Proof.Machine.execSelShort d a b s
  | .illegalEncoding => Sys2Proof.Machine.execIllegalEncoding s
  | .asyncCauseTaken k => Sys2Proof.Machine.execAsyncCauseTaken k s
  | .waitComplete k => Sys2Proof.Machine.execWaitComplete k s
  | .tokenResolve n => Sys2Proof.Machine.execTokenResolve n s
  | .tokenDelivery n => Sys2Proof.Machine.execTokenDelivery n s
  | .taskAdmission t => Sys2Proof.Machine.execTaskAdmission t s
  | .latchRelease t => Sys2Proof.Machine.execLatchRelease t s
  | .dispatchPop k p => Sys2Proof.Machine.execDispatchPop k p s
  | .matrixFire t => Sys2Proof.Machine.execMatrixFire t s
  | .reducePartial t imm => Sys2Proof.Machine.execReducePartial t imm s
  | .reduceEor t imm => Sys2Proof.Machine.execReduceEor t imm s
  | .mapFire t => Sys2Proof.Machine.execMapFire t s
  | .convertFire t => Sys2Proof.Machine.execConvertFire t s
  | .mergeHoldExpiry t => Sys2Proof.Machine.execMergeHoldExpiry t s
  | .selectFire t => Sys2Proof.Machine.execSelectFire t s
  | .lutFire t => Sys2Proof.Machine.execLutFire t s
  | .lutDataAccess t w => Sys2Proof.Machine.execLutDataAccess t w s
  | .filterFire t => Sys2Proof.Machine.execFilterFire t s
  | .countFire t => Sys2Proof.Machine.execCountFire t s
  | .memoryLoadseq t => Sys2Proof.Machine.execMemoryLoadseq t s
  | .memoryGather t => Sys2Proof.Machine.execMemoryGather t s
  | .memoryStoreseq t => Sys2Proof.Machine.execMemoryStoreseq t s
  | .memoryScatter t => Sys2Proof.Machine.execMemoryScatter t s
  | .memoryAtomic t => Sys2Proof.Machine.execMemoryAtomic t s
  | .memoryPort t => Sys2Proof.Machine.execMemoryPort t s
  | .mergeFire t imm => Sys2Proof.Machine.execMergeFire t imm s
  | .splitFire t => Sys2Proof.Machine.execSplitFire t s
  | .delayWindow t => Sys2Proof.Machine.execDelayWindow t s
  | .delayHold t => Sys2Proof.Machine.execDelayHold t s
  | .engineStep t => Sys2Proof.Machine.execEngineStep t s
  | .promotionWindow t a => Sys2Proof.Machine.execPromotionWindow t a s
  | .maccPerform t => Sys2Proof.Machine.execMaccPerform t s
  | .mzeroPerform t => Sys2Proof.Machine.execMzeroPerform t s
  | .meorPerform t => Sys2Proof.Machine.execMeorPerform t s
  | .fetchComplete t h => Sys2Proof.Machine.execFetchComplete t h s
  | .fetchFault t h => Sys2Proof.Machine.execFetchFault t h s
  | .prefetchComplete k n => Sys2Proof.Machine.execPrefetchComplete k n s
  | .sectorDecrement k n => Sys2Proof.Machine.execSectorDecrement k n s
  | .copyComplete k n => Sys2Proof.Machine.execCopyComplete k n s
  | .transferFault k n => Sys2Proof.Machine.execTransferFault k n s
  | .sourceUe k n => Sys2Proof.Machine.execSourceUe k n s
  | .triggerToken k q => Sys2Proof.Machine.execTriggerToken k q s
  | .streamLineStore d => Sys2Proof.Machine.execStreamLineStore d s
  | .streamLineTokens d => Sys2Proof.Machine.execStreamLineTokens d s
  | .strmoComplete k n => Sys2Proof.Machine.execStrmoComplete k n s
  | .strmbComplete k n => Sys2Proof.Machine.execStrmbComplete k n s
  | .sigvResult k n => Sys2Proof.Machine.execSigvResult k n s
  | .bufferEdgeRemove k n => Sys2Proof.Machine.execBufferEdgeRemove k n s
  | .ptsTick g => Sys2Proof.Machine.execPtsTick g s
  | .leaseRollover g => Sys2Proof.Machine.execLeaseRollover g s
  | .bankCtrlWrite k n w => Sys2Proof.Machine.execBankCtrlWrite k n w s
  | .bankSwitchCommit k n => Sys2Proof.Machine.execBankSwitchCommit k n s
  | .stragglerOpen n => Sys2Proof.Machine.execStragglerOpen n s
  | .contextOpen c => Sys2Proof.Machine.execContextOpen c s
  | .contextClose c => Sys2Proof.Machine.execContextClose c s
  | .contextKill c => Sys2Proof.Machine.execContextKill c s
  | .contextReleased c => Sys2Proof.Machine.execContextReleased c s
  | .tenantSliceEnd => Sys2Proof.Machine.execTenantSliceEnd s
  | .tswDone k => Sys2Proof.Machine.execTswDone k s
  | .tswTimeout k => Sys2Proof.Machine.execTswTimeout k s
  | .queueEnable c q => Sys2Proof.Machine.execQueueEnable c q s
  | .queueDisable c q => Sys2Proof.Machine.execQueueDisable c q s
  | .doorbell c q w => Sys2Proof.Machine.execDoorbell c q w s
  | .load c q => Sys2Proof.Machine.execLoad c q s
  | .launch c q => Sys2Proof.Machine.execLaunch c q s
  | .cancel c q => Sys2Proof.Machine.execCancel c q s
  | .unload c q => Sys2Proof.Machine.execUnload c q s
  | .admissionDecision => Sys2Proof.Machine.execAdmissionDecision s
  | .jobQuiescent c j => Sys2Proof.Machine.execJobQuiescent c j s
  | .jobWatchdog c j => Sys2Proof.Machine.execJobWatchdog c j s
  | .pageFetchDone p => Sys2Proof.Machine.execPageFetchDone p s
  | .pagePlacement p => Sys2Proof.Machine.execPagePlacement p s
  | .pageInstallDone p => Sys2Proof.Machine.execPageInstallDone p s
  | .pageDrainDone p => Sys2Proof.Machine.execPageDrainDone p s
  | .pageReadoutDone p => Sys2Proof.Machine.execPageReadoutDone p s
  | .relocationAck c j d => Sys2Proof.Machine.execRelocationAck c j d s
  | .lagoonDrain p => Sys2Proof.Machine.execLagoonDrain p s
  | .defragMigrate p => Sys2Proof.Machine.execDefragMigrate p s
  | .migrationDone p => Sys2Proof.Machine.execMigrationDone p s
  | .snapshotDone c j => Sys2Proof.Machine.execSnapshotDone c j s
  | .spillTimeout c => Sys2Proof.Machine.execSpillTimeout c s
  | .circuitReady e => Sys2Proof.Machine.execCircuitReady e s
  | .circuitLocked e => Sys2Proof.Machine.execCircuitLocked e s
  | .tuningTimeout e => Sys2Proof.Machine.execTuningTimeout e s
  | .circuitDrained e => Sys2Proof.Machine.execCircuitDrained e s
  | .linkFail e w => Sys2Proof.Machine.execLinkFail e w s
  | .xDieReset => Sys2Proof.Machine.execXDieReset s
  | .flitReceive e good => Sys2Proof.Machine.execFlitReceive e good s
  | .flitResend e => Sys2Proof.Machine.execFlitResend e s
  | .portEnable d => Sys2Proof.Machine.execPortEnable d s
  | .portDisable d => Sys2Proof.Machine.execPortDisable d s
  | .portFence d => Sys2Proof.Machine.execPortFence d s
  | .portTrained d => Sys2Proof.Machine.execPortTrained d s
  | .portLockLost d => Sys2Proof.Machine.execPortLockLost d s
  | .lineFrame d f => Sys2Proof.Machine.execLineFrame d f s
  | .advTimer d => Sys2Proof.Machine.execAdvTimer d s
  | .trheadWrite k w => Sys2Proof.Machine.execTrheadWrite k w s
  | .resume k n => Sys2Proof.Machine.execResume k n s
  | .discard k n => Sys2Proof.Machine.execDiscard k n s
  | .fenceGang k n => Sys2Proof.Machine.execFenceGang k n s
  | .fenceJob k n => Sys2Proof.Machine.execFenceJob k n s
  | .fenceCtx k n => Sys2Proof.Machine.execFenceCtx k n s
  | .softErrorDetect u => Sys2Proof.Machine.execSoftErrorDetect u s
  | .moduleReset err present => Sys2Proof.Machine.execModuleReset err present s
  | .isleReset k hold => Sys2Proof.Machine.execIsleReset k hold s
  | .attestationStart w => Sys2Proof.Machine.execAttestationStart w s
  | .attestationDone => Sys2Proof.Machine.execAttestationDone s
  | .supplySag d => Sys2Proof.Machine.execSupplySag d s
  | .stretchEnd d => Sys2Proof.Machine.execStretchEnd d s
  | .rcRegisterRead g => Sys2Proof.Machine.execRcRegisterRead g s
  | .registerWrite g w => Sys2Proof.Machine.execRegisterWrite g w s
  | .leaseRebase => Sys2Proof.Machine.execLeaseRebase s
  | .leaseBridgeAccess h op g w => Sys2Proof.Machine.execLeaseBridgeAccess h op g w s
  | .ioPathAccess wr g w => Sys2Proof.Machine.execIoPathAccess wr g w s
  | .tokenBucketRefill n c => Sys2Proof.Machine.execTokenBucketRefill n c s

end Sys2Proof.Machine
end

