-- ==== Sys2Proof/Machine/Step.lean ====
section
/-! DEFINITION. One step of the module: the next item of the agenda, or the next unit of the active runner. -/

namespace Sys2Proof.Machine

/-- The next unit of core `k`: a pending and enabled asynchronous cause first, then a wait, then fetch, decode and
execute (R78, R94, R123). -/
def stepCore (k : Nat) (s : State) : Host.Outcome State Fault Refusal :=
  if coreRuns s k then
    match (if (s.core k).pfx.isSome then none else nextAsync s k) with
    | some _ => .next (takePending k s)
    | none =>
      if (s.core k).halted then .next s
      else
        match (s.core k).waiting with
        | some .reissue => stepFetch k s
        | some (.steal _) => stepFetch k s
        | some _ => exec (.waitComplete k) s
        | none => stepFetch k s
  else .next s
where
  /-- Fetch, decode and execute. -/
  stepFetch (k : Nat) (s : State) : Host.Outcome State Fault Refusal :=
    match fetchCore s k with
    | .error (c, va) => .next (fetchFault s k c va)
    | .ok (i, s1) => exec (refine s1 i) s1

/-- The next unit of cell `t` (R153, R154). -/
def stepCell (t : Nat) (s : State) : Host.Outcome State Fault Refusal :=
  if cellRuns s t then
    match fetchCell s t with
    | some i => exec i s
    | none => .next (illegalUnit s)
  else .next s

/-- The next unit of the active runner. -/
def stepActive (s : State) : Host.Outcome State Fault Refusal :=
  match s.active with
  | .core k => stepCore k s
  | .cell t => stepCell t s

/-- An item of the agenda. -/
def perform (x : Item) (s : State) : Host.Outcome State Fault Refusal :=
  match x with
  | .run r => stepActive { s with active := r }
  | .event i => exec i s
  | .dropLine k l => .next (evictLine s k l)
  | .dropTlb k n => .next (s.updIsle k (fun i => { i with tlb := dropAt i.tlb n }))
  | .dropStage2 d n => .next (s.updDie d (fun v => { v with s2cache := dropAt v.s2cache n }))
  | .loseLine a => .next (lineLost s a)
  | .loseByte a => .next (byteLost s a)
  | .loseScratch k a => .next (scratchLost s k a)
  | .losePage c j ix line => .next (saveLost s c j ix line)
  | .credit p on => .next { s with stuck := if on then s.stuck.filter (· != p) else p :: s.stuck.filter (· != p) }

/-- One step: cycles pass; a unit that has begun goes on (R93), and otherwise the agenda says what happens next. -/
def step (s : State) : Host.Outcome State Fault Refusal :=
  let s := tick s
  if midUnit s then unlessHeld s (stepActive s)
  else match s.agenda with
    | [] => unlessHeld s (stepActive s)
    | x :: r => unlessHeld { s with agenda := r } (perform x { s with agenda := r })

/-- The state with an instruction placed where the next step fetches it: core 0 in service at pc 0, in Machine mode
with ptroot.EN = 0, so that pc 0 is guest-physical address 0 (R435); the die-select table names die 0, whose stage-2
table maps the first 1 GiB to its local address 0x40000000 (R191 to R193; log entry 9). -/
def State.withFetchWord (s : State) (nbits w : Nat) : State :=
  let m1 := Memory.writeN s.mem (physKey 0 0x10000) (bytesOf (0x20000 + 1) 8)
  let m2 := Memory.writeN m1 (physKey 0 0x20000) (bytesOf (0x40000000 + 15) 8)
  let m3 := Memory.writeN m2 (physKey 0 0x40000000) (tableBytes nbits w)
  let c := s.core 0
  let s1 := s.setIsle 0 { s.isle 0 with
    ctx := 0, tenant := 0, tlb := [],
    core := { c with pc := 0, pfx := none, status := 0xC, ptroot := 0, halted := false, stopped := false,
                     waiting := none, unfenced := [], killed := false, check := false, preempts := [],
                     overflow := none } }
  let s2 := s1.updDie 0 (fun d =>
    { d with dsel := [], s2root := d.s2root.put 0 0x10001, s2cache := [], fenced := false })
  { s2 with
    active := .core 0, agenda := [], mem := m3, memUe := [], poison := [],
    mgmt := { s2.mgmt with bootstat := s2.mgmt.bootstat ||| 0x10000, islerst := s2.mgmt.islerst &&& ~~~ 1 } }

end Sys2Proof.Machine
end

