-- ==== Sys2Proof/Safety.lean ====
section
/-! DEFINITION. What counts as a safe state and a safe run of the module, in the terms the claims use. -/

namespace Sys2Proof.Safety

open Sys2Proof.Machine

/-- The module's memory has its canonical form, so that equal memories are equal data. -/
def MemoryOk (s : State) : Prop := Memory.wf s.mem = true

/-- A step answers a next state: the module neither stops with a fault nor is refused. -/
def StepAnswers (s : State) : Prop := ∃ s', step s = .next s'

/-- The first `n` steps from a state all answer a next state. -/
def RunAnswers (n : Nat) (s : State) : Prop := ∃ s', Sys2Proof.core.run n s = .next s'

/-- A predicate that every step keeps, from whatever state it holds in. -/
def KeptByStep (inv : State → Prop) : Prop := ∀ s s', inv s → step s = .next s' → inv s'

end Sys2Proof.Safety
end

