-- ==== Sys2Proof/Certificates/Slice0/Obligations.lean ====
section
/-! DEFINITION. The statements for the provers, and the few predicates they are written with. Each docstring names the rules of
spec/ that the statement formalises; where a clause rests on the model's own choice it names the log entry. -/

namespace Sys2Proof.Claims

open Sys2Proof.Machine

/-- Core `k` is about to execute a unit of an instruction that needs at least mode `m`; a unit of an instruction that is
not extensible has no prefix (R91, R94). -/
structure CoreReady (m : Mode) (ext : Bool) (s : State) (k : Nat) : Prop where
  active : s.active = .core k
  mode : modeLe m (s.core k).mode = true
  bare : ext = false → (s.core k).pfx = none

/-- Cell `t` is about to execute a unit of its task `q` that takes `cost` cycles beside those of its prefix, within the
limits of R154; `m` marks a unit that only an M-tile has (R101). -/
structure CellReady (m ext : Bool) (cost : Nat) (s : State) (t : Nat) (q : Task) : Prop where
  active : s.active = .cell t
  task : (s.cell t).task = some q
  tile : m = true → tileKind t = .m
  bare : ext = false → q.pfx = none
  units : q.pfx = none → q.units < 128
  cycles : q.cycles + cost + (if q.pfx = none then 0 else 1) ≤ 512

/-- A unit of `len` bytes on core `k` writes `v` to g register `d` and retires (R82, R122). -/
def wrote (s : State) (k len : Nat) (d : BitVec 5) (v : Word64) : Host.Outcome State Fault Refusal :=
  .next (retireCore (gSet s k d v) k len none)

/-- A unit on core `k` raises cause `c` with trap value `v` and has no other effect (R122). -/
def traps (s : State) (k : Nat) (c : Cause) (v : Word64) : Host.Outcome State Fault Refusal :=
  .next (raiseCore s k c v)

/-- A unit of `len` bytes and `cost` cycles in cell `t` writes `v` to temporary `d` and retires (R156). -/
def wroteL (s : State) (t len cost : Nat) (d : BitVec 5) (v : Lanes) : Host.Outcome State Fault Refusal :=
  .next (retireCell (lSet s t d v) t len cost none)

/-- A unit in cell `t` aborts its task with cause `c` and trap value `v` (R159). -/
def aborts (s : State) (t : Nat) (c : Cause) (v : Word64) : Host.Outcome State Fault Refusal :=
  .next (abortTask s t c v)

/-- 1 where `p` holds, else 0. -/
def flag (p : Prop) [Decidable p] : Word64 := if p then 1 else 0

/-- A runner is about to execute a unit of both classes that takes `cost` cycles in a cell (R83, R91, R94, R154). -/
def BothReady (ext : Bool) (cost : Nat) (s : State) (x : Runner) : Prop :=
  match x with
  | .core k => CoreReady .user ext s k
  | .cell t => ∃ q, CellReady false ext cost s t q

/-- A field that a unit of a runner reads: any g register, or t0 to t7, i0, i1 or hdr (R82). -/
def readable (x : Runner) (r : BitVec 5) : Prop :=
  match x with
  | .core _ => True
  | .cell _ => r.toNat ≤ 10

/-- A field that a unit of a runner writes: any g register, or t0 to t7 (R82). -/
def writable (x : Runner) (r : BitVec 5) : Prop :=
  match x with
  | .core _ => True
  | .cell _ => r.toNat ≤ 7

/-- The unit of a runner retires from `u`; `s` is the state before it, whose prefix costs a cell one cycle more (R155). -/
def retires (s : State) (x : Runner) (u : State) (len cost : Nat) : Host.Outcome State Fault Refusal :=
  match x with
  | .core k => .next (retireCore u k len none)
  | .cell t => .next (retireCell u t len (cost + if payload s x = none then 0 else 1) none)

/-- The unit of a runner raises a cause: a trap of the core, or the abort of the cell's task (R122, R159). -/
def stops (s : State) (x : Runner) (c : Cause) (v : Word64) : Host.Outcome State Fault Refusal :=
  match x with
  | .core k => traps s k c v
  | .cell t => aborts s t c v

/-- A fault record `x` has entered the trap ring of isle `k` last, or waits for room in it (R426). -/
def reported (u : State) (k : Nat) (x : TrapRec) : Prop :=
  x ∈ (u.isle k).waitRecs ∨ (u.isle k).ringAt ((u.isle k).trTail + 127) = x

/-- The destinations of an output of an operator: each of its routes is valid and has its destination declared (R63, R288). -/
def routed (s : State) (t c out : Nat) (ds : List Nat) : Prop :=
  (routesOf (s.tile t) c out).mapM (routeDest s t) = .ok ds

/-- Tokens that an operator sends along its routes, with destination and context set, not yet in a switch (R60, R75, R288). -/
def flying (s : State) (t c out : Nat) (ds : List Nat) (l : List Token) : List Flight :=
  l.flatMap (fun tok => ds.map (fun d =>
    flightOf s (.op t c out) (tileDie t) (some (tileJob s t)) ⟨reHdr tok.hdr d (tileCtx s t), tok.lanes⟩))

/-- The instruction that the decoder gives for the word of `i`: the operations of CONN share one word (R409), and the STOP forms
of STRMI and STRMS are their words behind a prefix (R253). -/
def asDecoded : Instr → Instr
  | .connOpen d a b v => .connStatus d a b v
  | .connClose d a b v => .connStatus d a b v
  | .connReset d a b v => .connStatus d a b v
  | .strmiStop d a t v => .strmi d a t v
  | .strmsStop a t v w => .strms a t v w
  | i => i

/-- A STOP form (R253). -/
def isStop : Instr → Bool
  | .strmiStop .. => true
  | .strmsStop .. => true
  | _ => false

end Sys2Proof.Claims

open Sys2Proof Sys2Proof.Machine Sys2Proof.Safety Sys2Proof.Claims

/-! ### A step -/

/-- R78, R79, R93, R94, R123: a step of a control core whose agenda is empty, or whose unit has begun, runs the instruction that
the halfwords at its pc decode to. Around `exec` the step lets time pass (`tick`), reads the halfwords through the core's
translation, names the row that a shared word stands for (`refine`, R253, R409), and leaves the machine at the unit's start
where an access of it waits at a strait (`unlessHeld`, R412). -/
def Obligations.CoreStepRunsDecoded : Prop :=
  ∀ (s s1 s2 : State) (k : Nat) (h0 h1 : BitVec 16) (i : Instr),
    let u := tick s
    let cr := u.core k
    u.active = .core k → coreRuns u k = true → (cr.pfx ≠ none ∨ u.agenda = []) →
    (cr.pfx ≠ none ∨ nextAsync u k = none) → cr.halted = false → (∀ w, cr.waiting = some w → w = .reissue ∨ ∃ n, w = .steal n) →
    fetchHalf u k cr.pc = .ok (h0, s1) →
    (h0.getLsbD 15 = false → decode16 h0 = i →
      step s = unlessHeld u (exec (refine s1 i) s1)) ∧
    (h0.getLsbD 15 = true → fetchHalf s1 k (cr.pc + 2) = .ok (h1, s2) → decode32 (h0 ++ h1) = i →
      step s = unlessHeld u (exec (refine s2 i) s2)) ∧
    (∀ t, t.held = false → unlessHeld u (.next t) = .next t)

/-- R78, R153, R154: a step of a cell runs the instruction that its routine store holds at the task's offset; a 32-bit
instruction whose second halfword lies beyond the routine raises ILLEGAL_ENC instead (log entry 24). -/
def Obligations.CellStepRunsDecoded : Prop :=
  ∀ (s : State) (t : Nat) (q : Task),
    let u := tick s
    let h0 := (u.tile t).store.get 0 q.pc
    let h1 := (u.tile t).store.get 0 (q.pc + 1)
    u.active = .cell t → cellRuns u t = true → (u.cell t).task = some q → (q.pfx ≠ none ∨ u.agenda = []) →
    (h0.getLsbD 15 = false → step s = unlessHeld u (exec (decode16 h0) u)) ∧
    (h0.getLsbD 15 = true → q.pc + 1 < q.start + q.size → step s = unlessHeld u (exec (decode32 (h0 ++ h1)) u)) ∧
    (h0.getLsbD 15 = true → q.start + q.size ≤ q.pc + 1 → step s = unlessHeld u (.next (illegalUnit u)))

/-- The outcomes of the machine: every meaning and every step answers a next state; no cause of R423 stops the model, and no
instruction is refused. -/
def Obligations.EveryInstructionAnswers : Prop :=
  (∀ (i : Instr) (s : State), ∃ t, exec i s = .next t) ∧ (∀ s : State, StepAnswers s)

/-- The memory keeps its canonical form through every step, from whatever state it has it in. -/
def Obligations.MemoryStaysCanonical : Prop := KeptByStep MemoryOk

/-- The memory after reset has its canonical form. -/
def Obligations.ResetMemoryIsCanonical : Prop := MemoryOk State.reset

/-- R113, R116, R119, R181, R240, R256, R311, R419, R434, R436: what reset leaves, for the values the spec gives: every core in
Machine mode with status 0xC, no loop level open, lease 64 and fcsr 0; context 0 loaded; every tag complete; every bank in
CACHE; every scale register FREE; every port DOWN with NSLOT 16; every isle held; the lease and time limits of management. -/
def Obligations.ResetStateValues : Prop :=
  ∀ k n d : Nat,
    let i := State.reset.isle k
    let c := State.reset.core k
    let m := State.reset.mgmt
    (c.mode = .machine ∧ c.status = 0xC ∧ c.lend0 = 0 ∧ c.lend1 = 0 ∧ c.lbeg0 = 0 ∧ c.lbeg1 = 0 ∧ c.fcsr = 0 ∧
      c.epc = 0 ∧ c.mepc = 0 ∧ c.cause = 0 ∧ c.mcause = 0 ∧ c.tval = 0 ∧ c.mtval = 0 ∧ c.tvec = 0 ∧ c.mtvec = 0 ∧
      c.lease = 64 ∧ c.event = false) ∧
    (i.ctx = 0 ∧ i.ctb = BitVec.allOnes 64 ∧ (i.banks.get Bank.reset n).mode = .cache ∧
      (i.scales.get ScaleReg.reset n).st = .free) ∧
    ((State.reset.die d).port.st = .down ∧ (State.reset.die d).port.nslot = 16 ∧ (State.reset.die d).cyc = 0) ∧
    (m.lease = 64 ∧ m.tslice = 2000 ∧ m.spto = 10000 ∧ m.wdto = 1000 ∧ m.plim = 1000 ∧ m.jseq = 1 ∧
      m.islerst = BitVec.allOnes 64) ∧
    (State.reset.circuits.get Circuit.reset n).st = .idle ∧ ((State.reset.ctxs.get CtxInfo.reset 0).st = .opened)

/-! ### Traps -/

/-- R117, R118, R120, R121: trap entry for cause `c` with exception address `e` and trap value `v`. Machine mode takes every trap
raised in Machine mode and every MACHINE_CHECK and DOUBLE_FAULT, Supervisor mode every other one; the registers of the
other mode, the g, loop and fcsr registers and all other bits of status stay as they are. -/
def Obligations.TrapEntrySavesAndVectors : Prop :=
  ∀ (cr : Core) (c : Cause) (e v : Word64) (as px : Bool),
    let r := trapEntry cr c e v as px
    let code := (causeCode c).toNat
    let image : Word64 := BitVec.ofNat 64 (code + (if as then 128 else 0) + (if px then 256 else 0))
    let enter (vec : Word64) : Word64 :=
      (BitVec.ofNat 57 ((vec.extractLsb' 2 55).toNat * 4
        + (if vec.extractLsb' 0 2 = 1 then 16 * code else 0))).signExtend 64
    let toMachine := cr.mode = .machine ∨ c = .machineCheck ∨ c = .doubleFault
    (toMachine →
      r.mepc = e ∧ r.mcause = image ∧ r.mtval = v ∧ r.pc = enter cr.mtvec ∧ r.mode = .machine ∧
      r.epc = cr.epc ∧ r.cause = cr.cause ∧ r.tval = cr.tval ∧
      ∀ i, i < 64 → bit r.status i =
        if i = 9 then bit cr.status 3 else if i = 8 then bit cr.status 2 else if i = 7 then bit cr.status 1
        else if i = 3 ∨ i = 2 then true else if i = 1 then false else bit cr.status i) ∧
    (¬ toMachine →
      r.epc = e ∧ r.cause = image ∧ r.tval = v ∧ r.pc = enter cr.tvec ∧ r.mode = .supervisor ∧
      r.mepc = cr.mepc ∧ r.mcause = cr.mcause ∧ r.mtval = cr.mtval ∧
      ∀ i, i < 64 → bit r.status i =
        if i = 5 then decide (cr.mode = .supervisor) else if i = 4 then bit cr.status 0
        else if i = 3 ∨ i = 0 then false else if i = 2 then true else bit cr.status i) ∧
    r.g = cr.g ∧ r.lbeg0 = cr.lbeg0 ∧ r.lend0 = cr.lend0 ∧ r.lbeg1 = cr.lbeg1 ∧ r.lend1 = cr.lend1 ∧
    r.fcsr = cr.fcsr ∧ r.tvec = cr.tvec ∧ r.mtvec = cr.mtvec ∧ r.ptroot = cr.ptroot ∧ r.lease = cr.lease ∧
    r.capbase = cr.capbase ∧ r.pfx = none

/-- R93, R122: a unit that raises a synchronous cause traps at the address of its first halfword, which is that of its prefix
where it has one, and has no other effect; TRAP and SINGLE_STEP trap at the address that the completed unit leaves. -/
def Sys2Proof.Claims.ExceptionAddress : Prop :=
  ∀ (s : State) (k len : Nat) (c : Cause) (v : Word64),
    let cr := s.core k
    let px := cr.pfx.isSome
    (raiseCore s k c v).core k = trapEntry cr c (if px then cr.pc - 2 else cr.pc) v false px ∧
    (∀ j, j ≠ k → (raiseCore s k c v).isle j = s.isle j) ∧ (raiseCore s k c v).mem = s.mem ∧
    (raiseCore s k c v).tiles = s.tiles ∧
    (cr.mode = .user → bit cr.status 10 = true →
      (retireCore s k len none).core k
        = trapEntry (advance cr len none) .singleStep (advance cr len none).pc 0 false px) ∧
    (CoreReady .user false s k →
      ∀ n : BitVec 12,
        exec (.brk n 0) s = traps s k .breakpoint (n.setWidth 64) ∧
        ∃ t, exec (.trap n 0) s = .next t ∧
          t.core k = trapEntry (advance cr 4 none) .software (advance cr 4 none).pc (n.setWidth 64) false false)

/-- R123: a cause bound for Supervisor mode is enabled in User mode, and in Supervisor mode with SIE = 1, and never in Machine
mode; MACHINE_CHECK is enabled in User and Supervisor mode, and in Machine mode with MIE = 1. Of the causes that are pending
and enabled the core takes the one of the highest code, between units, at the address of the next unit; one that is not
enabled stays pending. A WFE that waits completes first, since a cause has become pending (R146). -/
def Sys2Proof.Claims.AsynchronousCauses : Prop :=
  ∀ (s : State) (k : Nat),
    let cr := s.core k
    (∀ c : Cause, c ≠ .machineCheck → (asyncEnabled cr c = true ↔
      cr.mode = .user ∨ (cr.mode = .supervisor ∧ bit cr.status 0 = true))) ∧
    (asyncEnabled cr .machineCheck = true ↔ cr.mode ≠ .machine ∨ bit cr.status 1 = true) ∧
    (∀ x, nextAsync s k = some x → x ∈ pendingAsync s k ∧ asyncEnabled cr x.1 = true ∧
      ∀ y ∈ pendingAsync s k, asyncEnabled cr y.1 = true → (causeCode y.1).toNat ≤ (causeCode x.1).toNat) ∧
    (nextAsync s k = none → ∀ y ∈ pendingAsync s k, asyncEnabled cr y.1 = false) ∧
    (∀ x, (takeAsync s k x).core k = trapEntry (clearAsync cr x.1 x.2) x.1 cr.pc x.2 true false ∧
      (clearAsync cr x.1 x.2).g = cr.g ∧ (clearAsync cr x.1 x.2).status = cr.status) ∧
    (∀ x, nextAsync s k = some x → cr.pfx = none → coreRuns s k = true → cr.waiting ≠ some .event →
      exec (.asyncCauseTaken k) s = .next (takeAsync s k x) ∧ stepCore k s = .next (takeAsync s k x)) ∧
    (nextAsync s k ≠ none → cr.pfx = none → coreRuns s k = true → cr.waiting = some .event →
      let u := retireCore (takeEvent s k) k 4 none
      let v := match nextAsync u k with
        | some y => takeAsync u k y
        | none => u
      exec (.asyncCauseTaken k) s = .next v ∧ stepCore k s = .next v)

/-- Where a trap's exception address lies, and which asynchronous cause a core takes: ExceptionAddress and AsynchronousCauses of
Claims, together. -/
def Obligations.ExceptionsAndCauses : Prop := ExceptionAddress ∧ AsynchronousCauses

/-- R145: ERET from Supervisor mode returns to epc with the mode of SPM, and from Machine mode to mepc with the mode of MPM; it
restores the enable bit, sets the saved one and clears the saved mode. An odd target raises MISALIGN_PC with the target in
the trap value. Its word is that of format I with major 0x39 and FN 1; reserved fields, a prefix and User mode raise
RESERVED_FIELD, PREFIX_ORPHAN and PRIV. A target that holds an EXT executes it anew, and after a return to User mode with SS = 1
the next unit raises SINGLE_STEP. -/
def Obligations.TrapReturn : Prop :=
  decode32 0b1_111001_00000_00000_001_000000000000#32 = .eret 0 0 ∧
  (∀ (s : State) (k : Nat) (a : BitVec 10) (b : BitVec 12), s.active = .core k →
    ((s.core k).pfx ≠ none → exec (.eret a b) s = traps s k .prefixOrphan 0) ∧
    ((s.core k).pfx = none → (s.core k).mode = .user → exec (.eret a b) s = traps s k .priv 0) ∧
    ((s.core k).pfx = none → (s.core k).mode ≠ .user → a ≠ 0 ∨ b ≠ 0 → exec (.eret a b) s = traps s k .reservedField 0)) ∧
  ∀ (s : State) (k : Nat), CoreReady .supervisor false s k →
    let cr := s.core k
    let target := if cr.mode = .machine then cr.mepc else cr.epc
    (target.getLsbD 0 = true → exec (.eret 0 0) s = traps s k .misalignPc target) ∧
    (target.getLsbD 0 = false → ∃ t, exec (.eret 0 0) s = .next t ∧
      let r := t.core k
      r.pc = target ∧ r.g = cr.g ∧ r.epc = cr.epc ∧ r.mepc = cr.mepc ∧ r.cause = cr.cause ∧ r.mcause = cr.mcause ∧
      r.tval = cr.tval ∧ r.mtval = cr.mtval ∧ r.fcsr = cr.fcsr ∧ r.lend0 = cr.lend0 ∧ r.lend1 = cr.lend1 ∧
      t.mem = s.mem ∧ (∀ j, j ≠ k → t.isle j = s.isle j) ∧
      (∀ i, i < 64 → bit r.status i =
        if cr.mode = .machine then
          if i = 3 then bit cr.status 9 else if i = 2 then bit cr.status 8 else if i = 1 then bit cr.status 7
          else if i = 7 then true else if i = 8 ∨ i = 9 then false else bit cr.status i
        else
          if i = 3 then false else if i = 2 then bit cr.status 5 else if i = 0 then bit cr.status 4
          else if i = 4 then true else if i = 5 then false else bit cr.status i) ∧
      (∀ p, exec (.ext p) t = .next (t.updCore k (fun c => { c with pc := c.pc + 2, pfx := some p }))) ∧
      (r.mode = .user → bit r.status 10 = true → ∀ len,
        (retireCore t k len none).core k
          = trapEntry (advance r len none) .singleStep (advance r len none).pc 0 false false))

/-- R116, R122, R136: the retirement of a unit without single step. The pc moves to the target or past the unit; where it comes
to the end of the innermost open level in the mode that opened it, the counter falls by 1 and the body is entered again, or
the level closes at its end address. A level that is not the innermost stays as it is. -/
def Sys2Proof.Claims.LoopEndStep : Prop :=
  ∀ (s : State) (k len : Nat) (target : Option Nat),
    let c := s.core k
    let r := (retireCore s k len target).core k
    let pc : Word64 := match target with
      | some a => BitVec.ofNat 64 a
      | none => c.pc + BitVec.ofNat 64 len
    let stop (lend : Word64) : Word64 := (lend.extractLsb' 0 56 ++ 0#1).signExtend 64
    let closed (lend : Word64) : Word64 := lend &&& 0x7FFFFFFFFFFFFFFF
    let inner := if bit c.lend1 63 then some (c.lbeg1, c.lend1, true)
      else if bit c.lend0 63 then some (c.lbeg0, c.lend0, false) else none
    ¬ (c.mode = .user ∧ bit c.status 10 = true) →
    r.status = c.status ∧ r.pfx = none ∧ r.fcsr = c.fcsr ∧ r.lbeg0 = c.lbeg0 ∧ r.lbeg1 = c.lbeg1 ∧
    (retireCore s k len target).mem = s.mem ∧
    match inner with
    | none => r.pc = pc ∧ r.g = c.g ∧ r.lend0 = c.lend0 ∧ r.lend1 = c.lend1
    | some (lbeg, lend, one) =>
      let reg := lend.extractLsb' 58 5
      let n : Word64 := if reg = 0 then 0 else c.g[reg.toFin] - 1
      if pc = stop lend ∧ c.status.extractLsb' 2 2 = lend.extractLsb' 56 2 then
        r.g = (c.setG reg n).g ∧
        if n = 0 then
          r.pc = pc ∧ r.lend1 = (if one then closed c.lend1 else c.lend1) ∧
          r.lend0 = (if one then c.lend0 else closed c.lend0)
        else r.pc = stop lbeg ∧ r.lend0 = c.lend0 ∧ r.lend1 = c.lend1
      else r.pc = pc ∧ r.g = c.g ∧ r.lend0 = c.lend0 ∧ r.lend1 = c.lend1

/-- R124: a fetch that faults at the first unit of a Supervisor trap target takes DOUBLE_FAULT in Machine mode, with the
target in mepc and the fetch address in mtval, and leaves epc, cause and tval; one at a Machine trap target stops the core,
fences the isle and reports a MACHINE_CHECK of level isle. Any other one raises its cause at the unit with the halfword's
address. -/
def Sys2Proof.Claims.FetchFaults : Prop :=
  ∀ (s : State) (k : Nat) (c : Cause) (va : Word64),
    let cr := s.core k
    let start := if cr.pfx.isSome then cr.pc - 2 else cr.pc
    let t := fetchFault s k c va
    (cr.atVector = false → t = raiseCore s k c va) ∧
    (cr.atVector = true → cr.mode ≠ .machine →
      let r := t.core k
      r.mode = .machine ∧ r.mepc = start ∧ r.mtval = va ∧ r.mcause.extractLsb' 0 6 = 0x3F#6 ∧ r.epc = cr.epc ∧
      r.cause = cr.cause ∧ r.tval = cr.tval) ∧
    (cr.atVector = true → cr.mode = .machine →
      (t.core k).stopped = true ∧ (t.isle k).fenced = true ∧ t.mgmt.mlevel = 1 ∧
      t.mgmt.mdie = BitVec.ofNat 3 (k / 16) ∧ t.mgmt.misle = BitVec.ofNat 4 k ∧
      (s.mgmt.mcount ≠ BitVec.allOnes 32 → t.mgmt.mcount = s.mgmt.mcount + 1))

/-- R82: g0 reads zero and a write to it is discarded; a write to another register is read back and leaves every other
register as it was. -/
def Sys2Proof.Claims.RegisterReadWrite : Prop :=
  ∀ (s : State) (k : Nat) (r r' : BitVec 5) (v : Word64),
    gGet s k 0 = 0 ∧ (gSet s k 0 v).core k = s.core k ∧
    (r ≠ 0 → gGet (gSet s k r v) k r = v) ∧ (r' ≠ r → gGet (gSet s k r v) k r' = gGet s k r') ∧
    (∀ j, j ≠ k → (gSet s k r v).isle j = s.isle j)

/-! ### Decoding -/

/-- R78 to R91, R96: a few words written from the formats decode to the instructions they stand for. A sanity statement. -/
def Obligations.DecodedWords : Prop :=
  decode32 0b1_000001_00101_00110_00111_00000_00000#32 = .add 5 6 7 0 ∧
  decode32 0b1_000011_00101_00110_000_111111111111#32 = .addi 5 6 0xFFF ∧
  decode32 0b1_001010_01010_01001_001_000000000011#32 = .loop 10 9 3 ∧
  decode32 0b1_010001_00001_00010_011_0_00000010000#32 = .st 1 2 3 16 ∧
  decode32 0b1_010110_00000_00100_00001_0_0110_00000#32 = .vadd 0 4 1 0 6 ∧
  decode32 0b1_100000_00010_00000_001_111_000101_000#32 = .send 2 0 1 7 5 ∧
  decode32 0b1_111000_00011_00000_001100000001_000#32 = .srd 3 0x301 0 ∧
  decode16 0b0_0001_0_010_0000101#16 = .liShort 2 5 ∧
  decode16 0b0_1111_11111111111#16 = .ext 0x7FF ∧
  decode32 0x80000000#32 = .illegalEncoding ∧ decode32 0xFFFFFFFF#32 = .illegalEncoding

/-- R78, R79, R85, R89: the halfwords of an instruction that has an encoding decode to it again, with every operand and every reserved field at
every value, and leave the halfwords after it; a STOP form decodes as its prefix with payload 1 and then its word. The row of
a shared word is told apart when it executes (R253, R409). -/
def Obligations.EncodeThenDecode : Prop :=
  ∀ (i : Instr) (r : List (BitVec 16)), encode i ≠ [] → i ≠ .hintShort 0 →
    (isStop i = false → decodeHalves (encode i ++ r) = some (asDecoded i, r)) ∧
    (isStop i = true → ∃ l, decodeHalves (encode i ++ r) = some (.ext 1, l) ∧ decodeHalves l = some (asDecoded i, r))

/-- R78, R81, R97, R98: a word or halfword that decodes to an instruction is the encoding of that instruction, so that the decoder
drops no bit and gives no instruction to two words; the hints of the majors 0x3D and 0x3E, which R100 makes one with those of
0x3C, are the one exception. -/
def Obligations.DecodeThenEncode : Prop :=
  (∀ w : Word32, w.getLsbD 31 = true → decode32 w ≠ .illegalEncoding → bits w 30 25 ≠ 0x3D → bits w 30 25 ≠ 0x3E →
    encode32 (decode32 w) = some w) ∧
  (∀ w : Word32, bits w 30 25 = 0x3D ∨ bits w 30 25 = 0x3E → w.getLsbD 31 = true →
    decode32 w = .hint (w.extractLsb' 0 25)) ∧
  (∀ h : BitVec 16, h.getLsbD 15 = false → decode16 h ≠ .illegalEncoding → encode16 (decode16 h) = some h)

/-- R83, R94, R101: the checks of class and mode that come before an instruction's own. On a core without a prefix a unit of class
L raises CLASS_MODE; in a cell one of class C, and in a V-tile or an S-tile one of the matrix units that only an M-tile has,
aborts the task with CLASS_MODE; in User mode a Supervisor unit, and below Machine mode a CONN, raises PRIV. Each holds
whatever the operand and reserved fields are, and nothing else happens. -/
def Obligations.ClassAndPrivilege : Prop :=
  ∀ (s : State) (k t : Nat) (q : Task) (a1 b1 : BitVec 1) (a2 b2 : BitVec 2) (a3 b3 c3 : BitVec 3) (a4 b4 c4 : BitVec 4)
    (a5 b5 c5 d5 : BitVec 5) (a6 b6 : BitVec 6) (a7 : BitVec 7) (a8 : BitVec 8) (a10 : BitVec 10) (a11 : BitVec 11)
    (a12 : BitVec 12) (a13 : BitVec 13) (a15 : BitVec 15) (a20 : BitVec 20),
    let coreOnly : List Instr := [.add a5 b5 c5 d5, .sub a5 b5 c5 d5, .mul a5 b5 c5 d5, .mulh a5 b5 c5 d5,
      .mulhn a5 b5 c5 d5, .div a5 b5 c5 d5, .divn a5 b5 c5 d5, .rem a5 b5 c5 d5, .remn a5 b5 c5 d5, .and a5 b5 c5 d5,
      .or a5 b5 c5 d5, .xor a5 b5 c5 d5, .shl a5 b5 c5 d5, .shr a5 b5 c5 d5, .sra a5 b5 c5 d5, .rotr a5 b5 c5 d5,
      .min a5 b5 c5 d5, .max a5 b5 c5 d5, .minn a5 b5 c5 d5, .maxn a5 b5 c5 d5, .seq a5 b5 c5 d5, .slt a5 b5 c5 d5,
      .sltn a5 b5 c5 d5, .sel a5 b5 c5 d5, .adds a5 b5 c5 d5, .neg a5 b5 a10, .clz a5 b5 a10, .ctz a5 b5 a10,
      .popc a5 b5 a10, .mov a5 b5 a10, .sext a5 b5 c5 d5, .zext a5 b5 c5 d5, .addi a5 b5 a12, .andi a5 b5 a12,
      .ori a5 b5 a12, .xori a5 b5 a12, .slti a5 b5 a12, .shli a5 b5 a6 b6, .shri a5 b5 a6 b6, .srai a5 b5 a6 b6,
      .bfx a5 b5 a6 b6, .bfi a5 b5 a6 b6, .li a5 a20, .lih a5 a20, .jal a5 a20, .jr a5 b5 a12, .loop a5 b5 a12,
      .halt a10 a12, .fadd a5 b5 c5 d5, .fsub a5 b5 c5 d5, .fmul a5 b5 c5 d5, .ffma a5 b5 c5 d5, .fdiv a5 b5 c5 d5,
      .fsqrt a5 b5 a10, .fmin a5 b5 c5 d5, .fmax a5 b5 c5 d5, .feq a5 b5 c5 d5, .flt a5 b5 c5 d5, .fle a5 b5 c5 d5,
      .fclass a5 b5 a10, .fmv a5 b5 a10, .fcvt a5 b5 a4 b4 c4, .ld a5 b5 a3 a11, .ldn a5 b5 a3 a11, .st a5 b5 a3 a11,
      .pref a1 a5 a11 a4 a3, .lda a5 b5 a3 a11, .stl a5 b5 a3 a11, .amo a5 b5 c5 a2 d5 a3, .cas a5 b5 c5 a2 a3,
      .inj a5 b5 c5 d5, .cpy a5 b5 a8 c5, .cpyb a5 b5 c5 a8, .ctarm a5 b5 c5 a8, .ctdis a5 a8 a10, .strmi a5 b5 a8 c5,
      .strmiStop a5 b5 a8 c5, .strmo a5 b5 a8 c5, .strms a5 a8 b5 c5, .strmsStop a5 a8 b5 c5, .strmb a8 a15,
      .cwany a5 b5 a10, .cwall a5 b5 a10, .cffr a5 b5 a10, .preq a5 b5 a10, .ppin a5 b5 a10, .punp a5 b5 a10,
      .pevt a5 b5 a10, .step a5 b5 c5 d5, .frz a5 b5 a10, .thaw a5 b5 a10, .snap a5 b5 c5 d5, .cfgw a5 b5 c5 d5,
      .cfgc a5 b5 a10, .cfgk a5 b5 a10, .cfga a5 b5 a10, .place a5 b5 c5 d5, .eret a10 a12, .wfe a10 a12, .sev a10 a12,
      .cyc a5 b5 a12, .tlbi a5 a1 b1 a2 b5 a8, .sigv a5 a6 b5 b6, .connStatus a5 b5 c5 d5, .connOpen a5 b5 c5 d5,
      .connClose a5 b5 c5 d5, .connReset a5 b5 c5 d5, .ctxs a5 b5 a10, .ctxl a5 b5 a10, .liShort a3 a7, .movShort a3 b3 a4,
      .addShort a3 b3 c3, .subShort a3 b3 c3, .addiShortPos a3 b3 c3, .addiShortNeg a3 b3 c3, .seqShort a3 b3 c3,
      .sltShort a3 b3 c3, .sltnShort a3 b3 c3, .selShort a3 b3 c3]
    let cellOnly : List Instr := [.vadd a5 b5 c5 a1 a4, .vsub a5 b5 c5 a1 a4, .vmul a5 b5 c5 a1 a4, .vfma a5 b5 c5 a1 a4,
      .vmin a5 b5 c5 a1 a4, .vmax a5 b5 c5 a1 a4, .vabs a5 b5 a1 a4 c5, .vneg a5 b5 a1 a4 c5, .vand a5 b5 c5 a4 a1,
      .vor a5 b5 c5 a4 a1, .vxor a5 b5 c5 a4 a1, .vshl a5 b5 c5 a4 a1, .vshr a5 b5 c5 a4 a1, .vsra a5 b5 c5 a4 a1,
      .vsel a5 b5 c5 a4 a1, .vred a5 b5 a1 a4 c5, .vrcp a5 b5 a4 a6, .vrsq a5 b5 a4 a6, .vexp2 a5 b5 a4 a6,
      .vlog2 a5 b5 a4 a6, .vcmp a5 b5 c5 a1 a4 a3, .vcvt a5 b5 a4 b4 a1 b1, .vpack a5 b5 c5 a4 a1, .vunpk a5 b5 c5 a4 a1,
      .vperm a5 b5 c5 a4 a1, .vbcst a5 b5 c5 a4 a1, .vlen a5 b5 a4 a6, .vcat a5 b5 c5 a4 a1, .vspl a5 b5 a4 a6,
      .vidx a5 a4 a11, .send a5 b5 a3 b3 a6, .sende a5 a3 a6 b5 b3, .sendr a5 b5 a3 a6 b3, .sendm a5 b5 a3 a6 b3,
      .sendo a5 a3 a6 b5 b3, .hdr a5 b5 c5 d5, .tagx a5 b5 c5 d5, .falloc a5 a15, .ffree a5 b5 a10,
      .fsto a3 a5 b5 b3 a2 b2, .fldo a5 b5 a3 a7, .vaddF32Short a3 b3 c3, .vmulF32Short a3 b3 c3, .vfmaF32Short a3 b3 c3,
      .vaddI32Short a3 b3 c3, .sendShort a3 b3 a4, .sendIncShort a3 b3 a4, .trel a5 b5 a13, .mma a5 b5 c5 d5,
      .mmai a5 b5 c5 d5, .macc a5 b5 c5 d5, .mzero a5 b5 a10, .meor a5 b5 c5 d5, .mrd a5 b5 c5 d5]
    let tensor : List Instr := [.trel a5 b5 a13, .mma a5 b5 c5 d5, .mmai a5 b5 c5 d5, .macc a5 b5 c5 d5, .mzero a5 b5 a10,
      .meor a5 b5 c5 d5, .mrd a5 b5 c5 d5, .tfetch a5 b5 c5 a8]
    let supervisor : List Instr := [.halt a10 a12, .eret a10 a12, .tlbi a5 a1 b1 a2 b5 a8, .sigv a5 a6 b5 b6,
      .ppin a5 b5 a10, .punp a5 b5 a10, .pevt a5 b5 a10, .frz a5 b5 a10, .thaw a5 b5 a10, .cfgw a5 b5 c5 d5,
      .cfgc a5 b5 a10, .cfgk a5 b5 a10, .cfga a5 b5 a10, .place a5 b5 c5 d5, .ctxs a5 b5 a10, .ctxl a5 b5 a10]
    let machine : List Instr := [.connStatus a5 b5 c5 d5, .connOpen a5 b5 c5 d5, .connClose a5 b5 c5 d5,
      .connReset a5 b5 c5 d5]
    (s.active = .core k → (s.core k).pfx = none → ∀ i, i ∈ cellOnly → exec i s = traps s k .classMode 0) ∧
    (s.active = .cell t → (s.cell t).task = some q → q.pfx = none → q.units < 128 →
      (∀ i, i ∈ coreOnly → exec i s = aborts s t .classMode 0) ∧
      (tileKind t ≠ .m → ∀ i, i ∈ tensor → exec i s = aborts s t .classMode 0)) ∧
    (s.active = .core k → (s.core k).pfx = none → (s.core k).mode = .user →
      ∀ i, i ∈ supervisor → exec i s = traps s k .priv 0) ∧
    (s.active = .core k → (s.core k).pfx = none → (s.core k).mode ≠ .machine →
      ∀ i, i ∈ machine → exec i s = traps s k .priv 0)

/-! ### Integer and address instructions -/

/-- R126: the result of every instruction of major 0x01 that cannot trap, over all operands: rd receives the table's
value, computed exactly over the integers and then wrapped, and nothing else happens but the retirement of the unit. -/
def Obligations.IntegerRegisterResults : Prop :=
  ∀ (s : State) (k : Nat) (d a b c : BitVec 5), CoreReady .user false s k →
    let x := gGet s k a
    let y := gGet s k b
    let n := y.toNat % 64
    exec (.add d a b 0) s = wrote s k 4 d (BitVec.ofInt 64 (x.toInt + y.toInt)) ∧
    exec (.sub d a b 0) s = wrote s k 4 d (BitVec.ofInt 64 (x.toInt - y.toInt)) ∧
    exec (.mul d a b 0) s = wrote s k 4 d (BitVec.ofInt 64 (x.toInt * y.toInt)) ∧
    exec (.mulh d a b 0) s = wrote s k 4 d (BitVec.ofInt 64 (Int.fdiv (x.toInt * y.toInt) (2 ^ 64))) ∧
    exec (.mulhn d a b 0) s = wrote s k 4 d (BitVec.ofNat 64 (x.toNat * y.toNat / 2 ^ 64)) ∧
    exec (.and d a b 0) s = wrote s k 4 d (x &&& y) ∧
    exec (.or d a b 0) s = wrote s k 4 d (x ||| y) ∧
    exec (.xor d a b 0) s = wrote s k 4 d (x ^^^ y) ∧
    exec (.shl d a b 0) s = wrote s k 4 d (BitVec.ofInt 64 (x.toInt * 2 ^ n)) ∧
    exec (.shr d a b 0) s = wrote s k 4 d (BitVec.ofNat 64 (x.toNat / 2 ^ n)) ∧
    exec (.sra d a b 0) s = wrote s k 4 d (BitVec.ofInt 64 (Int.fdiv x.toInt (2 ^ n))) ∧
    exec (.rotr d a b 0) s = wrote s k 4 d (BitVec.ofNat 64 (x.toNat / 2 ^ n + x.toNat % 2 ^ n * 2 ^ (64 - n))) ∧
    exec (.min d a b 0) s = wrote s k 4 d (if x.toInt ≤ y.toInt then x else y) ∧
    exec (.max d a b 0) s = wrote s k 4 d (if x.toInt ≤ y.toInt then y else x) ∧
    exec (.minn d a b 0) s = wrote s k 4 d (if x.toNat ≤ y.toNat then x else y) ∧
    exec (.maxn d a b 0) s = wrote s k 4 d (if x.toNat ≤ y.toNat then y else x) ∧
    exec (.seq d a b 0) s = wrote s k 4 d (flag (x = y)) ∧
    exec (.slt d a b 0) s = wrote s k 4 d (flag (x.toInt < y.toInt)) ∧
    exec (.sltn d a b 0) s = wrote s k 4 d (flag (x.toNat < y.toNat)) ∧
    exec (.sel d a b c) s = wrote s k 4 d (if gGet s k c = 0 then y else x)

/-- R126, R131: division, remainder and the saturating sum. A zero divisor raises DIV_ZERO with the dividend in tval; with
status.IOE = 1 a DIV of −2^63 by −1 and an ADDS that saturates raise INT_OVERFLOW with the result that would have been
written; on all other operands, and with IOE = 0, the result is written. -/
def Sys2Proof.Claims.DivisionAndSaturation : Prop :=
  ∀ (s : State) (k : Nat) (d a b : BitVec 5), CoreReady .user false s k →
    let x := gGet s k a
    let y := gGet s k b
    let ioe := bit (s.core k).status 11 = true
    let checked (v : Word64) (p : Prop) [Decidable p] :=
      if p ∧ ioe then traps s k .intOverflow v else wrote s k 4 d v
    let sum := x.toInt + y.toInt
    (y = 0 →
      exec (.div d a b 0) s = traps s k .divZero x ∧ exec (.divn d a b 0) s = traps s k .divZero x ∧
      exec (.rem d a b 0) s = traps s k .divZero x ∧ exec (.remn d a b 0) s = traps s k .divZero x) ∧
    (y ≠ 0 →
      exec (.div d a b 0) s
        = checked (BitVec.ofInt 64 (Int.tdiv x.toInt y.toInt)) (x.toInt = -2 ^ 63 ∧ y.toInt = -1) ∧
      exec (.divn d a b 0) s = wrote s k 4 d (BitVec.ofNat 64 (x.toNat / y.toNat)) ∧
      exec (.rem d a b 0) s
        = wrote s k 4 d (BitVec.ofInt 64 (x.toInt - y.toInt * Int.tdiv x.toInt y.toInt)) ∧
      exec (.remn d a b 0) s = wrote s k 4 d (BitVec.ofNat 64 (x.toNat % y.toNat))) ∧
    exec (.adds d a b 0) s
      = checked (BitVec.ofInt 64 (max (-2 ^ 63) (min (2 ^ 63 - 1) sum))) (sum < -2 ^ 63 ∨ 2 ^ 63 - 1 < sum)

/-- R127, R129: one-operand instructions and bit fields. CLZ, CTZ and POPC are said by the bits they count. -/
def Sys2Proof.Claims.UnaryAndFieldResults : Prop :=
  ∀ (s : State) (k : Nat) (d a z : BitVec 5) (p l : BitVec 6), CoreReady .user false s k →
    let x := gGet s k a
    let w := 8 * 2 ^ z.toNat
    let pos := p.toNat
    let len := l.toNat + 1
    exec (.neg d a 0) s = wrote s k 4 d (BitVec.ofInt 64 (-x.toInt)) ∧
    exec (.mov d a 0) s = wrote s k 4 d x ∧
    (∃ n, exec (.clz d a 0) s = wrote s k 4 d (BitVec.ofNat 64 n) ∧ n ≤ 64 ∧ x.toNat < 2 ^ (64 - n) ∧
      (n < 64 → 2 ^ (63 - n) ≤ x.toNat)) ∧
    (∃ n, exec (.ctz d a 0) s = wrote s k 4 d (BitVec.ofNat 64 n) ∧ n ≤ 64 ∧ x.toNat % 2 ^ n = 0 ∧
      (n < 64 → x.getLsbD n = true)) ∧
    exec (.popc d a 0) s
      = wrote s k 4 d (BitVec.ofNat 64 ((List.range 64).filter (fun i => x.getLsbD i)).length) ∧
    (z.toNat ≤ 2 →
      exec (.sext d a z 0) s = wrote s k 4 d ((x.setWidth w).signExtend 64) ∧
      exec (.zext d a z 0) s = wrote s k 4 d ((x.setWidth w).setWidth 64)) ∧
    (2 < z.toNat →
      exec (.sext d a z 0) s = traps s k .reservedField 0 ∧ exec (.zext d a z 0) s = traps s k .reservedField 0) ∧
    (pos + len ≤ 64 →
      exec (.bfx d a p l) s = wrote s k 4 d ((x.extractLsb' pos len).setWidth 64) ∧
      ∃ v : Word64, exec (.bfi d a p l) s = wrote s k 4 d v ∧
        ∀ i, i < 64 → v.getLsbD i
          = if pos ≤ i ∧ i < pos + len then x.getLsbD (i - pos) else (gGet s k d).getLsbD i) ∧
    (64 < pos + len →
      exec (.bfx d a p l) s = traps s k .reservedField 0 ∧ exec (.bfi d a p l) s = traps s k .reservedField 0)

/-- Division, the saturating sum, one-operand instructions and bit fields: DivisionAndSaturation and UnaryAndFieldResults of
Claims, together. -/
def Obligations.DivisionUnaryAndFields : Prop := DivisionAndSaturation ∧ UnaryAndFieldResults

/-- R91, R128, R130: immediates. The field is sign-extended from 12 (or 20) bits, and with a prefix P from P:IMM of 23 (or 31)
bits; LIH shifts by the width of its field. The shifts by an immediate take no prefix. -/
def Sys2Proof.Claims.ImmediateResults : Prop :=
  ∀ (s : State) (k : Nat) (d a : BitVec 5) (f : BitVec 12) (u : BitVec 20) (n : BitVec 6),
    CoreReady .user true s k →
    let x := gGet s k a
    let i : Int := match (s.core k).pfx with
      | none => f.toInt
      | some p => (p ++ f).toInt
    let iw := BitVec.ofInt 64 i
    exec (.addi d a f) s = wrote s k 4 d (BitVec.ofInt 64 (x.toInt + i)) ∧
    exec (.andi d a f) s = wrote s k 4 d (x &&& iw) ∧
    exec (.ori d a f) s = wrote s k 4 d (x ||| iw) ∧
    exec (.xori d a f) s = wrote s k 4 d (x ^^^ iw) ∧
    exec (.slti d a f) s = wrote s k 4 d (flag (x.toInt < i)) ∧
    exec (.li d u) s = wrote s k 4 d (match (s.core k).pfx with
      | none => u.signExtend 64
      | some p => (p ++ u).signExtend 64) ∧
    exec (.lih d u) s = wrote s k 4 d (match (s.core k).pfx with
      | none => BitVec.ofNat 64 ((gGet s k d).toNat * 2 ^ 20 + u.toNat)
      | some p => BitVec.ofNat 64 ((gGet s k d).toNat * 2 ^ 31 + (p ++ u).toNat)) ∧
    ((s.core k).pfx = none →
      exec (.shli d a n 0) s = wrote s k 4 d (BitVec.ofInt 64 (x.toInt * 2 ^ n.toNat)) ∧
      exec (.shri d a n 0) s = wrote s k 4 d (BitVec.ofNat 64 (x.toNat / 2 ^ n.toNat)) ∧
      exec (.srai d a n 0) s = wrote s k 4 d (BitVec.ofInt 64 (Int.fdiv x.toInt (2 ^ n.toNat))))

/-- R84, R90: each integer 16-bit form does what the listed full form does with its fields naming g8 to g15, in a unit two
bytes long. -/
def Sys2Proof.Claims.ShortIntegerForms : Prop :=
  ∀ (s : State) (k : Nat) (d a b : BitVec 3) (i : BitVec 7), CoreReady .user false s k →
    let g (r : BitVec 3) : BitVec 5 := 1#2 ++ r
    let x := gGet s k (g a)
    let y := gGet s k (g b)
    exec (.liShort d i) s = wrote s k 2 (g d) (i.signExtend 64) ∧
    exec (.movShort d a 0) s = wrote s k 2 (g d) x ∧
    exec (.addShort d a b) s = wrote s k 2 (g d) (BitVec.ofInt 64 (x.toInt + y.toInt)) ∧
    exec (.subShort d a b) s = wrote s k 2 (g d) (BitVec.ofInt 64 (x.toInt - y.toInt)) ∧
    exec (.addiShortPos d a b) s = wrote s k 2 (g d) (BitVec.ofInt 64 (x.toInt + (b.toNat + 1))) ∧
    exec (.addiShortNeg d a b) s = wrote s k 2 (g d) (BitVec.ofInt 64 (x.toInt - (b.toNat + 1))) ∧
    exec (.seqShort d a b) s = wrote s k 2 (g d) (flag (x = y)) ∧
    exec (.sltShort d a b) s = wrote s k 2 (g d) (flag (x.toInt < y.toInt)) ∧
    exec (.sltnShort d a b) s = wrote s k 2 (g d) (flag (x.toNat < y.toNat)) ∧
    exec (.selShort d a b) s = wrote s k 2 (g d) (if gGet s k (g d) = 0 then y else x)

/-- Immediate instructions with and without a prefix, and the integer 16-bit forms: ImmediateResults and ShortIntegerForms of
Claims, together. -/
def Obligations.ImmediatesAndShortForms : Prop := ImmediateResults ∧ ShortIntegerForms

/-- R82, R116, R122, R136: the frame of the core instructions that only write rd. Every byte of memory, every other isle, all of
this isle but its core, and every g register but rd and the counters of the open loop levels are as before; without single
step the core changes in nothing but its g registers, pc, prefix and loop levels and in what a wait and a trap target leave. -/
def Sys2Proof.Claims.RegisterInstructionsFrame : Prop :=
  ∀ (s t : State) (k : Nat) (d a b c z : BitVec 5) (i12 : BitVec 12) (n6 m6 : BitVec 6) (i20 : BitVec 20) (i : Instr),
    CoreReady .user true s k → (s.core k).pfx = none → z.toNat ≤ 2 → n6.toNat + m6.toNat < 64 →
    i ∈ [.add d a b 0, .sub d a b 0, .mul d a b 0, .mulh d a b 0, .mulhn d a b 0, .and d a b 0, .or d a b 0, .xor d a b 0,
      .shl d a b 0, .shr d a b 0, .sra d a b 0, .rotr d a b 0, .min d a b 0, .max d a b 0, .minn d a b 0, .maxn d a b 0,
      .seq d a b 0, .slt d a b 0, .sltn d a b 0, .sel d a b c, .neg d a 0, .clz d a 0, .ctz d a 0, .popc d a 0, .mov d a 0,
      .sext d a z 0, .zext d a z 0, .addi d a i12, .andi d a i12, .ori d a i12, .xori d a i12, .slti d a i12,
      .shli d a n6 0, .shri d a n6 0, .srai d a n6 0, .bfx d a n6 m6, .bfi d a n6 m6, .li d i20, .lih d i20] →
    exec i s = .next t →
    let x := s.core k
    let y := t.core k
    let counter (r : BitVec 5) := bit x.lend0 63 = true ∧ r = x.lend0.extractLsb' 58 5 ∨
      bit x.lend1 63 = true ∧ r = x.lend1.extractLsb' 58 5
    (∀ m, Memory.read t.mem m = Memory.read s.mem m) ∧ { t with isles := s.isles } = s ∧
    (∀ j, j ≠ k → t.isle j = s.isle j) ∧ { (t.isle k) with core := x } = s.isle k ∧
    (∀ r, r ≠ d → ¬ counter r → gGet t k r = gGet s k r) ∧
    (¬ (x.mode = .user ∧ bit x.status 10 = true) →
      { y with
        g := x.g, pc := x.pc, pfx := x.pfx, lend0 := x.lend0, lend1 := x.lend1, waiting := x.waiting,
        atVector := x.atVector } = x)

/-- g0 and register writes, and the frame of the instructions that only write rd: RegisterReadWrite and RegisterInstructionsFrame
of Claims, together. -/
def Obligations.RegisterFrame : Prop := RegisterReadWrite ∧ RegisterInstructionsFrame

/-! ### Branches, jumps and loops -/

/-- R86, R132: the branches on a control core. The offset is sign-extended from 12 bits, or with a prefix from P:OFF of 23 bits,
and counts halfwords from the branch word itself; a branch that is not taken falls through to the next unit. -/
def Sys2Proof.Claims.CoreBranches : Prop :=
  ∀ (s : State) (k : Nat) (a b : BitVec 5) (o : BitVec 12), CoreReady .user true s k →
    let x := gGet s k a
    let y := gGet s k b
    let off : Int := match (s.core k).pfx with
      | none => o.toInt
      | some p => (p ++ o).toInt
    let target : Word64 := (s.core k).pc + BitVec.ofInt 64 (2 * off)
    let goes (p : Prop) [Decidable p] : Host.Outcome State Fault Refusal :=
      .next (retireCore s k 4 (if p then some target.toNat else none))
    exec (.beq a b o) s = goes (x = y) ∧
    exec (.bne a b o) s = goes (x ≠ y) ∧
    exec (.blt a b o) s = goes (x.toInt < y.toInt) ∧
    exec (.bge a b o) s = goes (y.toInt ≤ x.toInt) ∧
    exec (.bltn a b o) s = goes (x.toNat < y.toNat) ∧
    exec (.bgen a b o) s = goes (y.toNat ≤ x.toNat) ∧
    exec (.bz a o 0) s = goes (x = 0) ∧
    exec (.bnz a o 0) s = goes (x ≠ 0)

/-- R101, R132, R153, R155: the branches in a cell, on scalars that its task has defined. A forward branch moves the routine
offset by its offset in halfwords and costs two cycles when it is taken and one when it is not; an offset of zero or less
raises CLASS_MODE whether or not the branch would be taken. -/
def Sys2Proof.Claims.CellBranches : Prop :=
  ∀ (s : State) (t : Nat) (q : Task) (a b : BitVec 5) (o : BitVec 12) (x y : Word64),
    CellReady false true 2 s t q → a.toNat ≤ 10 → b.toNat ≤ 10 → sGetL s t a = .ok x → sGetL s t b = .ok y →
    let off : Int := match q.pfx with
      | none => o.toInt
      | some p => (p ++ o).toInt
    let pre := if q.pfx = none then 0 else 1
    let goes (p : Prop) [Decidable p] : Host.Outcome State Fault Refusal :=
      if off ≤ 0 then aborts s t .classMode 0
      else if p then .next (retireCell s t 4 (2 + pre) (some (q.pc + off.toNat)))
      else .next (retireCell s t 4 (1 + pre) none)
    exec (.beq a b o) s = goes (x = y) ∧
    exec (.bne a b o) s = goes (x ≠ y) ∧
    exec (.blt a b o) s = goes (x.toInt < y.toInt) ∧
    exec (.bge a b o) s = goes (y.toInt ≤ x.toInt) ∧
    exec (.bltn a b o) s = goes (x.toNat < y.toNat) ∧
    exec (.bgen a b o) s = goes (y.toNat ≤ x.toNat) ∧
    exec (.bz a o 0) s = goes (x = 0) ∧
    exec (.bnz a o 0) s = goes (x ≠ 0)

/-- R84, R90: the 16-bit branches: on a core they test g8 to g15, in a cell t0 to t7, with a 7-bit offset from the halfword
itself. -/
def Sys2Proof.Claims.ShortBranches : Prop :=
  (∀ (s : State) (k : Nat) (a : BitVec 3) (o : BitVec 7), CoreReady .user false s k →
    let x := gGet s k (1#2 ++ a)
    let target : Word64 := (s.core k).pc + BitVec.ofInt 64 (2 * o.toInt)
    exec (.bzShort a o) s = .next (retireCore s k 2 (if x = 0 then some target.toNat else none)) ∧
    exec (.bnzShort a o) s = .next (retireCore s k 2 (if x = 0 then none else some target.toNat))) ∧
  (∀ (s : State) (t : Nat) (q : Task) (a : BitVec 3) (o : BitVec 7) (x : Word64),
    CellReady false false 2 s t q → sGetL s t (0#2 ++ a) = .ok x →
    let taken := Host.Outcome.next (retireCell s t 2 2 (some (q.pc + o.toInt.toNat)))
    let falls := Host.Outcome.next (retireCell s t 2 1 none)
    exec (.bzShort a o) s = (if o.toInt ≤ 0 then aborts s t .classMode 0 else if x = 0 then taken else falls) ∧
    exec (.bnzShort a o) s = (if o.toInt ≤ 0 then aborts s t .classMode 0 else if x = 0 then falls else taken))

/-- Branches on a core, in a cell, and in their 16-bit forms: CoreBranches, CellBranches and ShortBranches of Claims, together. -/
def Obligations.Branches : Prop := CoreBranches ∧ CellBranches ∧ ShortBranches

/-- R78, R86, R133: JAL and JR. JR computes its target before rd is written, so rd may be ra; an odd target raises
MISALIGN_PC with the target in tval and writes nothing. -/
def Sys2Proof.Claims.JumpsAndReturns : Prop :=
  ∀ (s : State) (k : Nat) (d a : BitVec 5) (o : BitVec 20) (i : BitVec 12), CoreReady .user true s k →
    let b := (s.core k).pc
    let off : Int := match (s.core k).pfx with
      | none => o.toInt
      | some p => (p ++ o).toInt
    let imm : Int := match (s.core k).pfx with
      | none => i.toInt
      | some p => (p ++ i).toInt
    let target : Word64 := gGet s k a + BitVec.ofInt 64 imm
    exec (.jal d o) s
      = .next (retireCore (gSet s k d (b + 4)) k 4 (some (b + BitVec.ofInt 64 (2 * off)).toNat)) ∧
    exec (.jr d a i) s
      = if target.getLsbD 0 then traps s k .misalignPc target
        else .next (retireCore (gSet s k d (b + 4)) k 4 (some target.toNat))

/-- R134, R135: LOOP. A zero count goes to the end address and opens no level; otherwise rd receives the count and the first
free level opens with the body's start, its end, the counter register and the mode. A LOOP inside level 1, and one that would
open level 1 beyond level 0's end, raise ILLEGAL_ENC with the LOOP's address; rd = 0 and an empty body raise RESERVED_FIELD.
ILLEGAL_ENC's address is that of the governed word (log entry 24). -/
def Sys2Proof.Claims.LoopOpensALevel : Prop :=
  ∀ (s : State) (k : Nat) (d a : BitVec 5) (i : BitVec 12), CoreReady .user true s k →
    let cr := s.core k
    let off : Int := match cr.pfx with
      | none => i.toInt
      | some p => (p ++ i).toInt
    let n := gGet s k a
    let e : Word64 := cr.pc + BitVec.ofInt 64 (2 * off)
    let active0 := cr.lend0.getLsbD 63 = true
    let active1 := cr.lend1.getLsbD 63 = true
    let lend : Word64 := 1#1 ++ d ++ cr.status.extractLsb' 2 2 ++ e.extractLsb' 1 56
    let lbeg : Word64 := 0#8 ++ (cr.pc + 4).extractLsb' 1 56
    ((d = 0 ∨ off ≤ 2) → exec (.loop d a i) s = traps s k .reservedField 0) ∧
    (d ≠ 0 → 2 < off →
      (active1 → exec (.loop d a i) s = traps s k .illegalEnc cr.pc) ∧
      (¬ active1 → n = 0 → exec (.loop d a i) s = .next (retireCore s k 4 (some e.toNat))) ∧
      (¬ active1 → n ≠ 0 → active0 → (cr.lend0.extractLsb' 0 56).toNat < (e.extractLsb' 1 56).toNat →
        exec (.loop d a i) s = traps s k .illegalEnc cr.pc) ∧
      (¬ active1 → n ≠ 0 → active0 → (e.extractLsb' 1 56).toNat ≤ (cr.lend0.extractLsb' 0 56).toNat →
        exec (.loop d a i) s
          = .next (retireCore (s.updCore k (fun c => ({ c with lbeg1 := lbeg, lend1 := lend }).setG d n)) k 4 none)) ∧
      (¬ active1 → n ≠ 0 → ¬ active0 →
        exec (.loop d a i) s
          = .next (retireCore (s.updCore k (fun c => ({ c with lbeg0 := lbeg, lend0 := lend }).setG d n)) k 4 none)))

/-- LOOP opens a level, and the loop-end step counts it down and closes it: LoopEndStep and LoopOpensALevel of Claims, together.
-/
def Obligations.LoopLevels : Prop := LoopEndStep ∧ LoopOpensALevel

/-- R137: HALT, legal from Supervisor mode, completes and stops issue: until an asynchronous cause may be taken or the isle
is reset, a step of that core leaves the machine as it is but for the passing of time. -/
def Sys2Proof.Claims.HaltStopsIssue : Prop :=
  (∀ (s : State) (k : Nat), CoreReady .supervisor false s k →
    exec (.halt 0 0) s = .next (retireCore (s.updCore k (fun c => { c with halted := true })) k 4 none)) ∧
  (∀ (s : State) (k : Nat), (s.core k).halted = true → (s.core k).pfx = none → coreRuns s k = true →
    nextAsync s k = none → stepCore k s = .next s)

/-! ### System instructions -/

/-- R78, R91 to R93, R99, R100: EXT latches its payload and moves to the halfword after it, and a second EXT is an orphan; a
hint does nothing, with or without a prefix, on a core and in a cell; an illegal encoding traps or aborts with ILLEGAL_ENC.
A prefix on an instruction that takes none raises PREFIX_ORPHAN, here said of ADD and of CYC. -/
def Sys2Proof.Claims.PrefixesHintsAndIllegal : Prop :=
  (∀ (s : State) (k : Nat) (p : BitVec 11) (h : BitVec 25), s.active = .core k →
    let cr := s.core k
    (cr.pfx = none → exec (.ext p) s = .next (s.updCore k (fun c => { c with pc := c.pc + 2, pfx := some p }))) ∧
    (cr.pfx ≠ none → exec (.ext p) s = traps s k .prefixOrphan 0 ∧
      (∀ d a b v, exec (.add d a b v) s = traps s k .prefixOrphan 0) ∧
      (∀ d v w, exec (.cyc d v w) s = traps s k .prefixOrphan 0)) ∧
    exec (.hint h) s = .next (retireCore s k 4 none) ∧
    exec (.hintShort p) s = .next (retireCore s k 2 none) ∧
    exec .nop s = .next (retireCore s k 2 none) ∧
    exec .illegalEncoding s = traps s k .illegalEnc 0) ∧
  (∀ (s : State) (t : Nat) (q : Task) (p : BitVec 11) (h : BitVec 25), CellReady false true 1 s t q →
    let pre := if q.pfx = none then 0 else 1
    (q.pfx = none → q.pc + 1 < q.start + q.size →
      exec (.ext p) s = .next (s.updTask t (fun x => { x with pc := x.pc + 1, pfx := some p }))) ∧
    (q.pfx = none → q.start + q.size ≤ q.pc + 1 →
      exec (.ext p) s = aborts (s.updTask t (fun x => { x with pc := x.pc + 1, pfx := some p })) t .prefixOrphan 0) ∧
    (q.pfx ≠ none → exec (.ext p) s = aborts s t .prefixOrphan 0) ∧
    exec (.hint h) s = .next (retireCell s t 4 (1 + pre) none) ∧
    exec (.hintShort p) s = .next (retireCell s t 2 (1 + pre) none) ∧
    exec .nop s = .next (retireCell s t 2 (1 + pre) none) ∧
    exec .illegalEncoding s = aborts s t .illegalEnc 0)

/-- Fetch faults at trap targets; EXT, hints and illegal encodings: FetchFaults and PrefixesHintsAndIllegal of Claims, together.
-/
def Obligations.FetchFaultsPrefixesAndHints : Prop := FetchFaults ∧ PrefixesHintsAndIllegal

/-- R114, R115, R143, R147: SRD writes the system register to rd and CYC the cycle count; a number that R114 does not list
raises ILLEGAL_ENC, and one above the core's mode PRIV. -/
def Sys2Proof.Claims.SystemRegisterReads : Prop :=
  ∀ (s : State) (k : Nat) (d : BitVec 5), CoreReady .user false s k →
    let cr := s.core k
    let i := s.isle k
    let die := s.die (k / 16)
    let user : List (Nat × Word64) :=
      [(0x000, die.cyc), (0x001, die.sfreq), (0x002, cr.fcsr), (0x003, i.ctb),
       (0x004, BitVec.ofNat 64 (256 * (i.tenant % 256) + i.ctx % 256)), (0x010, cr.lbeg0), (0x011, cr.lend0),
       (0x012, cr.lbeg1), (0x013, cr.lend1)]
    let supervisor : List (Nat × Word64) :=
      [(0x100, cr.status), (0x101, cr.epc), (0x102, cr.cause), (0x103, cr.tval), (0x104, cr.tvec), (0x105, cr.ptroot),
       (0x106, cr.lease), (0x107, cr.capbase)]
    let machine : List (Nat × Word64) :=
      [(0x301, cr.mepc), (0x302, cr.mcause), (0x303, cr.mtval), (0x304, cr.mtvec)]
    let reads (m : Mode) (l : List (Nat × Word64)) : Prop := ∀ x ∈ l,
      exec (.srd d (BitVec.ofNat 12 x.1) 0) s =
        if modeLe m cr.mode = true then wrote s k 4 d x.2 else traps s k .priv 0
    reads .user user ∧ reads .supervisor supervisor ∧ reads .machine machine ∧
    (∀ r : BitVec 12, r.toNat ∉ (user ++ supervisor ++ machine).map (·.1) →
      exec (.srd d r 0) s = traps s k .illegalEnc 0 ∧ exec (.swr d r 0) s = traps s k .illegalEnc 0) ∧
    exec (.cyc d 0 0) s = wrote s k 4 d die.cyc

/-- R31, R115 to R119, R135, R187: SWR writes the register's RW fields with the bits of ra; reserved bits keep reading zero, a
reserved encoding leaves its field, a read-only register stays as it is, MODE is never written, and a Supervisor write
leaves the Machine fields of status. Said bit by bit, with `old` the register before. -/
def Sys2Proof.Claims.SystemRegisterWrites : Prop :=
  ∀ (s : State) (k : Nat) (a : BitVec 5), CoreReady .machine false s k →
    let v := gGet s k a
    let cr := s.core k
    let pick (old mask : Word64) : Word64 := (old &&& ~~~ mask) ||| (v &&& mask)
    let done (f : Core → Core) : Host.Outcome State Fault Refusal := .next (retireCore (s.updCore k f) k 4 none)
    let mode2 := v.extractLsb' 56 2 = 2
    let lend (old : Word64) : Word64 := pick old (if mode2 then 0xFCFFFFFFFFFFFFFF else 0xFFFFFFFFFFFFFFFF)
    let vec (old : Word64) : Word64 :=
      pick old (if (v.extractLsb' 0 2).toNat < 2 then 0x01FFFFFFFFFFFFFF else 0x01FFFFFFFFFFFFFC)
    exec (.swr a 0x002 0) s = done (fun c => { c with fcsr := pick cr.fcsr 0x7033F }) ∧
    exec (.swr a 0x010 0) s = done (fun c => { c with lbeg0 := pick cr.lbeg0 0x00FFFFFFFFFFFFFF }) ∧
    exec (.swr a 0x011 0) s = done (fun c => { c with lend0 := lend cr.lend0 }) ∧
    exec (.swr a 0x012 0) s = done (fun c => { c with lbeg1 := pick cr.lbeg1 0x00FFFFFFFFFFFFFF }) ∧
    exec (.swr a 0x013 0) s = done (fun c => { c with lend1 := lend cr.lend1 }) ∧
    exec (.swr a 0x100 0) s = done (fun c =>
      { c with status := pick cr.status (if v.extractLsb' 8 2 = 2 then 0xCB3 else 0xFB3) }) ∧
    exec (.swr a 0x101 0) s = done (fun c => { c with epc := v }) ∧
    exec (.swr a 0x102 0) s = done (fun c => { c with cause := pick cr.cause 0x1BF }) ∧
    exec (.swr a 0x103 0) s = done (fun c => { c with tval := v }) ∧
    exec (.swr a 0x104 0) s = done (fun c => { c with tvec := vec cr.tvec }) ∧
    exec (.swr a 0x105 0) s = done (fun c => { c with ptroot := pick cr.ptroot 0x000FFFFFFFFFF001 }) ∧
    exec (.swr a 0x106 0) s = done (fun c =>
      { c with lease := if v.extractLsb' 0 16 = 0 then cr.lease else pick cr.lease 0xFFFF }) ∧
    exec (.swr a 0x301 0) s = done (fun c => { c with mepc := v }) ∧
    exec (.swr a 0x302 0) s = done (fun c => { c with mcause := pick cr.mcause 0x1BF }) ∧
    exec (.swr a 0x303 0) s = done (fun c => { c with mtval := v }) ∧
    exec (.swr a 0x304 0) s = done (fun c => { c with mtvec := vec cr.mtvec }) ∧
    (∀ r ∈ [0x000, 0x001, 0x003, 0x004, 0x107], exec (.swr a (BitVec.ofNat 12 r) 0) s = done id) ∧
    (∀ s', CoreReady .supervisor false s' k → (s'.core k).mode = .supervisor →
      exec (.swr a 0x301 0) s' = traps s' k .priv 0 ∧
      ∃ t, exec (.swr a 0x100 0) s' = .next t ∧
        ∀ i, i < 64 → bit (t.core k).status i =
          if i = 0 ∨ i = 4 ∨ i = 5 ∨ i = 10 ∨ i = 11 then bit (gGet s' k a) i else bit (s'.core k).status i)

/-- SRD, SWR and CYC on every system register, with their modes and write masks: SystemRegisterReads and SystemRegisterWrites of
Claims, together. -/
def Obligations.SystemRegisters : Prop := SystemRegisterReads ∧ SystemRegisterWrites

/-- R146: SEV sets the event bit of every core in service that has the same context loaded, its own among them; WFE clears a set
bit, or completes where a cause is pending, and otherwise waits. While it waits its completion step leaves the core at the
WFE, and once the bit is set that step completes it. -/
def Sys2Proof.Claims.EventBits : Prop :=
  ∀ (s : State) (k : Nat), CoreReady .user false s k →
    (∃ t, exec (.sev 0 0) s = .next (retireCore t k 4 none) ∧
      ∀ j, j < 64 → s.present (j / 16) = true →
        ((s.isle j).ctx = (s.isle k).ctx → (t.core j).event = true) ∧
        ((s.isle j).ctx ≠ (s.isle k).ctx → t.isle j = s.isle j)) ∧
    (((s.core k).event = true ∨ pendingAsync s k ≠ []) →
      ∃ t, exec (.wfe 0 0) s = .next (retireCore t k 4 none) ∧ (t.core k).event = false ∧ (t.core k).pc = (s.core k).pc) ∧
    ((s.core k).event = false → pendingAsync s k = [] →
      exec (.wfe 0 0) s = .next (s.updCore k (fun c => { c with waiting := some .event }))) ∧
    (coreRuns s k = true → (s.core k).waiting = some .event → (s.core k).event = true →
      ∃ t, exec (.waitComplete k) s = .next (retireCore t k 4 none) ∧ (t.core k).event = false)

/-- JAL and JR, HALT, and the event bit with SEV and WFE: JumpsAndReturns, HaltStopsIssue and EventBits of Claims, together. -/
def Obligations.JumpsHaltAndEvents : Prop := JumpsAndReturns ∧ HaltStopsIssue ∧ EventBits

/-- R148: TLBI of the loaded context or of one address leaves no selected stage-1 entry in this isle, or with GLOBAL in any isle
that holds state, and leaves every entry of another context; with S2, in Machine mode, it does the same to the stage-2
entries of the loaded tenant. SCOPE 0b10 and S2 raise PRIV below Machine mode. -/
def Sys2Proof.Claims.TranslationInvalidate : Prop :=
  ∀ (s : State) (k : Nat) (a : BitVec 5) (g : BitVec 1), CoreReady .supervisor false s k →
    let c := (s.isle k).ctx
    let v := (gGet s k a).toNat
    let gone (e : TlbEntry) : Prop := e.ctx = c ∧ e.base ≤ v ∧ v < e.base + e.size
    (∃ t, exec (.tlbi a 0 g 0 0 0) s = .next (retireCore t k 4 none) ∧
      (∀ e, e ∈ (t.isle k).tlb ↔ e ∈ (s.isle k).tlb ∧ e.ctx ≠ c) ∧
      (g = 0 → ∀ j, j ≠ k → t.isle j = s.isle j) ∧
      (g = 1 → ∀ j e, e ∈ (t.isle j).tlb → e ∈ (s.isle j).tlb ∧ e.ctx ≠ c)) ∧
    (∃ t, exec (.tlbi a 0 g 1 0 0) s = .next (retireCore t k 4 none) ∧
      (∀ e, e ∈ (t.isle k).tlb ↔ e ∈ (s.isle k).tlb ∧ ¬ gone e) ∧ (t.core k).g = (s.core k).g) ∧
    ((s.core k).mode ≠ .machine →
      (∀ p, p ≠ 3 → exec (.tlbi a 1 g p 0 0) s = traps s k .priv 0) ∧ exec (.tlbi a 0 g 2 0 0) s = traps s k .priv 0) ∧
    ((s.core k).mode = .machine →
      (∃ t, exec (.tlbi a 1 0 0 0 0) s = .next (retireCore t k 4 none) ∧
        ∀ e, e ∈ (t.die (k / 16)).s2cache ↔ e ∈ (s.die (k / 16)).s2cache ∧ e.tenant ≠ (s.isle k).tenant) ∧
      (∃ t, exec (.tlbi a 0 0 2 0 0) s = .next (retireCore t k 4 none) ∧ (t.isle k).tlb = []))

/-- R149: SIGV checks the tag, the alignment and the descriptor's translation in that order, then marks the tag pending and
hands the request to the security engine; with eight requests outstanding it waits. SIGV_RESULT ends a request: it sets the
tag's ctb bit, and sets the tag's CERR bit where the descriptor cannot be read. A nonzero reserved word or a LENGTH of 0 or
above 2^40 gives RESULT 5, and bytes that software changed meanwhile give 1 or 2. -/
def Sys2Proof.Claims.SignatureRequests : Prop :=
  (∀ (s s1 : State) (k : Nat) (a : BitVec 5) (tag : BitVec 6) (l : Loc), CoreReady .supervisor false s k →
    let v := gGet s k a
    let n := tag.toNat
    (bit (s.isle k).ctb n = false → exec (.sigv a tag 0 0) s = traps s k .tagBusy (BitVec.ofNat 64 n)) ∧
    (bit (s.isle k).ctb n = true → v.toNat % 32 ≠ 0 → exec (.sigv a tag 0 0) s = traps s k .misalignData v) ∧
    (bit (s.isle k).ctb n = true → v.toNat % 32 = 0 → translate s (coreReq s k .data) v .load = .ok (l, s1) →
      ((s.isle k).sigs.length < 8 → ∃ t, exec (.sigv a tag 0 0) s = .next (retireCore t k 4 none) ∧
        bit (t.isle k).ctb n = false ∧ (t.isle k).sigs.length = (s1.isle k).sigs.length + 1 ∧
        ∀ i, i < 64 → i ≠ n → bit (t.isle k).ctb i = bit (s1.isle k).ctb i) ∧
      (8 ≤ (s.isle k).sigs.length → exec (.sigv a tag 0 0) s = .next (holdCore s k .reissue)))) ∧
  (∀ (s : State) (k n : Nat) (x : SigReq), (s.isle k).sigs[n]? = some x → x.tag < 64 →
    ∃ t, exec (.sigvResult k n) s = .next t ∧ bit (t.isle k).ctb x.tag = true ∧ (t.core k).event = true ∧
      ((sigResult ((s.mergePts (.core k) x.pts).updIsle k (fun i => { i with sigs := dropAt i.sigs n })) k x).1 = none →
        bit (t.isle k).cerr x.tag = true)) ∧
  (∀ (s s1 : State) (k : Nat) (x : SigReq) (d : List Byte), readVa s (sigReqOf s k x.ctx) x.addr 32 2 = .ok (d, s1) →
    let len := numOf ((d.drop 8).take 8)
    let bad := len = 0 ∨ 2 ^ 40 < len ∨ numOf ((d.drop 28).take 4) ≠ 0
    (sigBytes s k x.ctx x.addr = x.seen → bad → sigResult s k x = (some 5, s1)) ∧
    (sigBytes s k x.ctx x.addr = x.seen → ¬ bad →
      ∃ r, (sigResult s k x).1 = some r ∧ 1 ≤ r ∧ r ≤ 4) ∧
    (sigBytes s k x.ctx x.addr ≠ x.seen → (sigResult s k x).1 = some 1 ∨ (sigResult s k x).1 = some 2))

/-- R178, R187 to R193, R435: a translation. An address that is no sign extension of bit 56 raises ADDR_RANGE; with EN = 0 none is mapped;
else the walk goes down the levels, an invalid entry raising S1_UNMAPPED and a malformed one RESERVED_FIELD, to a leaf whose rights the
access needs. The guest-physical address is homed by the die-select table, and its leaf of stage 2 gives the local address. The
device window needs kind DEV and takes no stage 2. -/
def Sys2Proof.Claims.AddressTranslation : Prop :=
  ∀ (s : State) (rq : Req) (va : Word64) (a : Access),
    let k := agentIsle rq.agent
    let v := va.toNat
    let tr := translate s rq va a
    let far := va.toInt < -2 ^ 56 ∨ 2 ^ 56 ≤ va.toInt
    let ends (s : State) (g : Nat) (kind : BitVec 2) : Prop :=
      (Config.window ≤ g → tr = if kind = 2 then .ok (⟨true, g, 0, kind⟩, s) else .error (.s1Perm, va)) ∧
      (g < Config.window →
        (∀ c, stage2 s (agentDie rq.agent) rq.tenant g a = .error c → tr = .error (c, va)) ∧
        ∀ key u, stage2 s (agentDie rq.agent) rq.tenant g a = .ok (key, u) → tr = .ok (⟨false, g, key, kind⟩, u))
    let right (l : Leaf) : Prop := let u := rq.user = false ∨ l.u = true
      if rq.records = true then l.r = true ∧ u
      else match a with
        | .load => l.r = true ∧ l.kind ≠ 3 ∧ u
        | .store => l.w = true ∧ l.kind ≠ 3 ∧ u
        | .atomic => l.r = true ∧ l.w = true ∧ l.kind ≠ 3 ∧ u
        | .fetch => l.x = true ∧ l.kind.toNat < 2 ∧ u
        | .pref => True
    (far → tr = .error (.addrRange, va)) ∧
    (¬ far → rq.direct = true →
      (2 ^ 52 ≤ v → tr = .error (.addrRange, va)) ∧
      (v < 2 ^ 52 → a = .fetch → Config.window ≤ v → tr = .error (.s1Perm, va)) ∧
      (v < 2 ^ 52 → a ≠ .fetch ∨ v < Config.window → ends s v (if Config.window ≤ v then 2 else 0))) ∧
    (¬ far → rq.direct = false →
      (bit rq.root 0 = false → tr = .error (.s1Unmapped, va)) ∧
      (∀ c, stage1 s rq va = .error c → tr = .error (c, va)) ∧
      ∀ l s1, stage1 s rq va = .ok (l, s1) → (¬ right l → tr = .error (.s1Perm, va)) ∧ (right l → ends s1 l.out l.kind)) ∧
    (bit rq.root 0 = true →
      (∀ e, k < 64 → tlbFind (s.isle k) rq v = some e →
        stage1 s rq va = .ok ({ e.leaf with out := e.leaf.out + (v - e.base) }, s)) ∧
      ((k < 64 → tlbFind (s.isle k) rq v = none) → let w := walk s rq (v % 2 ^ 57) 0 5 (bits rq.root 51 12 * 4096)
        (∀ c, w = .error c → stage1 s rq va = .error c) ∧
        ∀ l size u, w = .ok ((l, size), u) → ∃ t, stage1 s rq va = .ok (l, t) ∧ t.mem = u.mem ∧
          (k < 64 → ∃ e, e ∈ (t.isle k).tlb ∧ e.client = rq.client ∧ e.ctx = rq.ctx ∧ e.tenant = rq.tenant ∧ e.size = size))) ∧
    (∀ n level fuel table, level ≤ 4 →
      let shift := [48, 39, 30, 21, 16].getD level 0
      let size := 2 ^ shift
      let w := walk s rq n level (fuel + 1) table
      let read := walkRead s rq (table + 8 * (n / size % (if level = 4 then 32 else 512)))
      (∀ c, read = .error c → w = .error c) ∧
      ∀ e u, read = .ok (e, u) →
        let addr := e / 2 ^ 8 % 2 ^ 44 * 2 ^ 8
        let clean := e / 2 ^ 60 = 0 ∧ e / 2 ^ 52 % 2 ^ 6 = 0 ∧ e / 2 ^ 6 % 4 = 0
        let table' := e % 4 = 1 ∧ clean ∧ e / 2 ^ 58 % 4 = 0 ∧ level < 4 ∧ (level < 3 → addr % 2 ^ 12 = 0)
        let leaf := e % 4 = 3 ∧ clean ∧ 2 ≤ level ∧ addr % size = 0 ∧ ¬ (e / 8 % 2 = 1 ∧ e / 4 % 2 = 0)
        (e % 2 = 0 → w = .error .s1Unmapped) ∧ (table' → w = walk u rq n (level + 1) fuel addr) ∧
        (leaf → w = .ok ((⟨addr + n % size, BitVec.ofNat 2 (e / 2 ^ 58), decide (e / 32 % 2 = 1), decide (e / 16 % 2 = 1),
          decide (e / 8 % 2 = 1), decide (e / 4 % 2 = 1)⟩, size), u)) ∧
        (e % 2 = 1 → ¬ table' → ¬ leaf → w = .error .reservedField)) ∧
    (∀ d tenant g,
      let hash := (g / 2 ^ 12 % 64) ^^^ (g / 2 ^ 18 % 64) ^^^ (g / 2 ^ 24 % 64) ^^^ (g / 2 ^ 30 % 64) ^^^ (g / 2 ^ 36 % 64)
        ^^^ (g / 2 ^ 42 % 64) ^^^ (g / 2 ^ 48 % 16)
      let h := s.dsel d hash
      let piece := g / 2 ^ 12 % 64
      let count := (List.range 64).countP (fun j => s.dsel d j == h)
      let rank := (List.range piece).countP (fun j => s.dsel d (j ^^^ (hash ^^^ piece)) == h)
      let hit (e : S2Entry) := e.tenant = tenant ∧ e.base ≤ g ∧ g < e.base + e.size
      let may (e : S2Entry) : Prop := match a with
        | .load => e.r = true
        | .fetch => e.r = true
        | .store => e.w = true
        | .atomic => e.r = true ∧ e.w = true
        | .pref => True
      let out (e : S2Entry) : Prop :=
        let x := e.localBase + ((g - e.base) / 2 ^ 18 * count + rank) * 4096 + g % 4096
        (¬ may e → stage2 s d tenant g a = .error .s2Perm) ∧
        (may e → 72 * 2 ^ 30 ≤ x → stage2 s d tenant g a = .error .s2Fault) ∧
        (may e → x < 72 * 2 ^ 30 → ∃ u, stage2 s d tenant g a = .ok (2 ^ 40 * h + x, u) ∧ u.mem = s.mem)
      ((s.die h).fenced = true → stage2 s d tenant g a = .error .remoteFenced) ∧
      ((s.die h).fenced = false →
        (∀ e l, (s.die h).s2cache = e :: l → hit e → out e) ∧
        ((∀ e, e ∈ (s.die h).s2cache → ¬ hit e) →
          (∀ e, s2walk s h tenant g = some e → out e) ∧ (s2walk s h tenant g = none → stage2 s d tenant g a = .error .s2Fault))) ∧
      (let root := (s.die h).s2root.get 0 tenant
       let e0 := s2read s h (bits root 39 16 * 2 ^ 16 + 8 * (g / 2 ^ 39 % 8192))
       let addr (e : Nat) := e / 2 ^ 12 % 2 ^ 28 * 2 ^ 12
       let clean (e : Nat) := e / 2 ^ 40 = 0 ∧ e / 2 ^ 4 % 2 ^ 8 = 0
       let e1 := s2read s h (addr e0 + 8 * (g / 2 ^ 30 % 512))
       let e2 := s2read s h (addr e1 + 8 * (g / 2 ^ 21 % 512))
       let down := bit root 0 = true ∧ e0 % 4 = 1 ∧ clean e0
       let block (e n : Nat) : S2Entry := ⟨tenant, g / n * n, n, addr e, decide (e / 8 % 2 = 1), decide (e / 4 % 2 = 1)⟩
       (down → e1 % 4 = 3 → clean e1 → s2walk s h tenant g = some (block e1 (2 ^ 30))) ∧
       (down → e1 % 4 = 1 → clean e1 → e2 % 4 = 3 → clean e2 → s2walk s h tenant g = some (block e2 (2 ^ 21))) ∧
       (¬ down ∨ e1 % 2 = 0 ∨ ¬ clean e1 ∨ (e1 % 4 = 1 ∧ (e2 % 4 ≠ 3 ∨ ¬ clean e2)) → s2walk s h tenant g = none)))

/-- How an address translates; TLBI drops the selected entries and no others; SIGV and its result: TranslationInvalidate,
SignatureRequests and AddressTranslation of Claims, together. -/
def Obligations.TranslationAndSignatures : Prop := TranslationInvalidate ∧ SignatureRequests ∧ AddressTranslation

/-! ### Scalar floating point -/

/-- R31, R34, R138 to R140, R142: every scalar float instruction computes on the low 32 bits of its operands in the mode fcsr.RM,
sets its flags in fcsr, and then writes its zero-extended result; an enabled FP_INVALID or FP_OVERFLOW is raised instead of
the write, with the result in tval. The comparisons, FCLASS and FMV are said outright; the rounded operations by the
operation of R139 on the operands' values, and how those round is a statement of its own. -/
def Sys2Proof.Claims.FloatInstructions : Prop :=
  ∀ (s : State) (k : Nat) (d a b c : BitVec 5), CoreReady .user false s k →
    let cr := s.core k
    let rm := cr.fcsr.extractLsb' 8 2
    let x := (gGet s k a).toNat % 2 ^ 32
    let y := (gGet s k b).toNat % 2 ^ 32
    let z := (gGet s k c).toNat % 2 ^ 32
    let done (r : Nat × FlagSet) : Host.Outcome State Fault Refusal :=
      let s1 := s.updCore k (fun c => { c with fcsr := c.fcsr ||| BitVec.ofNat 64 (r.2.toNat % 64) })
      let v := BitVec.ofNat 64 r.1
      if bit cr.fcsr 16 = true ∧ bit r.2 4 = true then traps s1 k .fpInvalid v
      else if bit cr.fcsr 17 = true ∧ bit r.2 2 = true then traps s1 k .fpOverflow v
      else wrote s1 k 4 d v
    let nanX := x / 2 ^ 23 % 256 = 255 ∧ x % 2 ^ 23 ≠ 0
    let nanY := y / 2 ^ 23 % 256 = 255 ∧ y % 2 ^ 23 ≠ 0
    let quiet (v : Nat) := v / 2 ^ 22 % 2 = 1
    -- the order of two values that are no NaN: negative magnitudes fall, and −0 equals +0
    let key (v : Nat) : Int := if v < 2 ^ 31 then v else -(v - 2 ^ 31 : Nat)
    let nv (p : Prop) [Decidable p] : FlagSet := if p then 16 else 0
    let bool (p : Prop) [Decidable p] : Nat := if p then 1 else 0
    let signalling := (nanX ∧ ¬ quiet x) ∨ (nanY ∧ ¬ quiet y)
    exec (.fadd d a b 0) s = done (fAdd f32 rm x y) ∧
    exec (.fsub d a b 0) s = done (fSub f32 rm x y) ∧
    exec (.fmul d a b 0) s = done (fMul f32 rm x y) ∧
    exec (.ffma d a b c) s = done (fFma f32 rm x y z) ∧
    exec (.fdiv d a b 0) s = done (fDiv f32 rm x y) ∧
    exec (.fsqrt d a 0) s = done (fSqrt f32 rm x) ∧
    (¬ nanX → ¬ nanY →
      exec (.fmin d a b 0) s = done (if key x < key y ∨ (key x = key y ∧ 2 ^ 31 ≤ x) then x else y, 0) ∧
      exec (.fmax d a b 0) s = done (if key x < key y ∨ (key x = key y ∧ 2 ^ 31 ≤ x) then y else x, 0)) ∧
    (nanX → ¬ nanY →
      exec (.fmin d a b 0) s = done (y, nv signalling) ∧ exec (.fmax d a b 0) s = done (y, nv signalling)) ∧
    (¬ nanX → nanY →
      exec (.fmin d a b 0) s = done (x, nv signalling) ∧ exec (.fmax d a b 0) s = done (x, nv signalling)) ∧
    (nanX → nanY →
      exec (.fmin d a b 0) s = done (x ||| 2 ^ 22, nv signalling) ∧
      exec (.fmax d a b 0) s = done (x ||| 2 ^ 22, nv signalling)) ∧
    exec (.feq d a b 0) s = done (bool (¬ nanX ∧ ¬ nanY ∧ key x = key y), nv signalling) ∧
    exec (.flt d a b 0) s = done (bool (¬ nanX ∧ ¬ nanY ∧ key x < key y), nv (nanX ∨ nanY)) ∧
    exec (.fle d a b 0) s = done (bool (¬ nanX ∧ ¬ nanY ∧ key x ≤ key y), nv (nanX ∨ nanY)) ∧
    exec (.fclass d a 0) s = done (2 ^ (
      let neg := 2 ^ 31 ≤ x
      let ex := x / 2 ^ 23 % 256
      let fr := x % 2 ^ 23
      if nanX then (if quiet x then 9 else 8)
      else if ex = 255 then (if neg then 0 else 7)
      else if ex = 0 ∧ fr = 0 then (if neg then 3 else 4)
      else if ex = 0 then (if neg then 2 else 5)
      else (if neg then 1 else 6)), 0) ∧
    exec (.fmv d a 0) s = done (x, 0)

/-- R27, R28, R30: a rounding to FP32 of the exact number m / 2^j in units of 2^−149. Toward zero gives the greatest magnitude
that does not exceed it; to nearest, where the result is finite, gives one at the least distance, and of two at the same
distance the one of an even pattern; the sign is kept, and NX is set exactly where the result is not the number. -/
def Obligations.RoundingIsCorrect : Prop :=
  ∀ (neg : Bool) (m j : Nat), m ≠ 0 →
    let e : Int := -149 - (j : Int)
    let p0 := roundF f32 0 neg m e
    let p1 := roundF f32 1 neg m e
    let units (x : Nat) := absUnits (unpackF f32 x) * 2 ^ j
    let finite (x : Nat) := x < 2 ^ 31 ∧ x / 2 ^ 23 ≠ 255
    let dist (a b : Nat) := (a - b) + (b - a)
    p0.1 / 2 ^ 31 = (if neg then 1 else 0) ∧ p1.1 / 2 ^ 31 = (if neg then 1 else 0) ∧
    (units (p1.1 % 2 ^ 31) ≤ m ∧ ∀ y, finite y → units y ≤ m → units y ≤ units (p1.1 % 2 ^ 31)) ∧
    (bit p1.2 0 = true ↔ units (p1.1 % 2 ^ 31) ≠ m) ∧
    (p0.1 % 2 ^ 31 ≠ 255 * 2 ^ 23 →
      (∀ y, finite y → dist (units (p0.1 % 2 ^ 31)) m ≤ dist (units y) m) ∧
      (∀ y, finite y → y ≠ p0.1 % 2 ^ 31 → dist (units (p0.1 % 2 ^ 31)) m = dist (units y) m → p0.1 % 2 = 0) ∧
      (bit p0.2 0 = true ↔ units (p0.1 % 2 ^ 31) ≠ m))

/-- R19, R131, R141: FCVT. A block code or a reserved one raises FORMAT_UNSUPPORTED. Between integer formats the operand is read
by its code and clamped to the destination's range; with status.IOE = 1 a value that clamps raises INT_OVERFLOW with the
clamped value. An integer becomes a float by one rounding. -/
def Sys2Proof.Claims.ScalarConversions : Prop :=
  ∀ (s : State) (k : Nat) (d a : BitVec 5) (cs ct : BitVec 4), CoreReady .user false s k →
    let x := gGet s k a
    let rm := (s.core k).fcsr.extractLsb' 8 2
    let width (c : BitVec 4) : Nat := if c.toNat < 2 then 32 else if c.toNat < 4 then 16 else 8
    let signed (c : BitVec 4) : Bool := c.toNat % 2 = 0
    let value (c : BitVec 4) : Int :=
      if signed c then (x.setWidth (width c)).toInt else ((x.setWidth (width c)).toNat : Int)
    let lo (c : BitVec 4) : Int := if signed c then -2 ^ (width c - 1) else 0
    let hi (c : BitVec 4) : Int := if signed c then 2 ^ (width c - 1) - 1 else 2 ^ width c - 1
    (11 ≤ cs.toNat ∨ 11 ≤ ct.toNat → exec (.fcvt d a cs ct 0) s = traps s k .formatUnsupported 0) ∧
    (cs.toNat ≤ 5 → ct.toNat ≤ 5 →
      let v := BitVec.ofInt 64 (max (lo ct) (min (hi ct) (value cs)))
      let clamps := value cs < lo ct ∨ hi ct < value cs
      exec (.fcvt d a cs ct 0) s
        = if clamps ∧ bit (s.core k).status 11 = true then traps s k .intOverflow v
          else .next (retireCore (gSet (setFcsr s k 0) k d v) k 4 none)) ∧
    (cs.toNat ≤ 5 → 6 ≤ ct.toNat → ct.toNat ≤ 10 →
      let r := roundF (floatFmt ct) rm (decide (value cs < 0)) (value cs).natAbs 0
      exec (.fcvt d a cs ct 0) s = .next (settleCore k 4 (floatResult s k d r.1 r.2))) ∧
    (6 ≤ cs.toNat → cs.toNat ≤ 10 → ct.toNat ≤ 10 →
      let r := convert cs ct rm x.toNat
      exec (.fcvt d a cs ct 0) s = .next (settleCore k 4 (floatResult s k d (gImage ct r.1) r.2)))

/-- R28, R30, R35 to R38, R41, R139: the operations on NaNs, infinities and zeros, overflow, and conversions from FP32. A NaN operand, the
first in order, comes out quieted, and a signalling one raises NV; an invalid operation gives the canonical NaN and NV; a result
beyond the range is an infinity or the largest finite number by mode. A float number converted to an integer rounds in the mode
and clamps with NV; to a narrower float a NaN keeps its sign and leading payload bits. -/
def Sys2Proof.Claims.FloatSpecialCases : Prop :=
  ∀ (rm : BitVec 2) (x y z : Nat), x < 2 ^ 32 → y < 2 ^ 32 → z < 2 ^ 32 →
    let top := 255 * 2 ^ 23
    let mag (v : Nat) := v % 2 ^ 31
    let sgn (v : Nat) := v / 2 ^ 31
    let nan (v : Nat) := top < mag v
    let inf (v : Nat) := mag v = top
    let zero (v : Nat) := mag v = 0
    let real (v : Nat) := mag v < top
    let quiet (v : Nat) := v ||| 2 ^ 22
    let snan (v : Nat) := nan v ∧ v / 2 ^ 22 % 2 = 0
    let nv (p : Prop) [Decidable p] : FlagSet := if p then 16 else 0
    let bad : Nat × FlagSet := (0x7FC00000, 16)
    let sign := (sgn x + sgn y) % 2 * 2 ^ 31
    let four (r : Nat × FlagSet) := fAdd f32 rm x y = r ∧ fSub f32 rm x y = r ∧ fMul f32 rm x y = r ∧ fDiv f32 rm x y = r
    let pair := (zero x ∧ inf y) ∨ (inf x ∧ zero y)
    (nan x → four (quiet x, nv (snan x ∨ snan y)) ∧ fSqrt f32 rm x = (quiet x, nv (snan x)) ∧
      fFma f32 rm x y z = (quiet x, nv (snan x ∨ snan y ∨ snan z))) ∧
    (¬ nan x → nan y → four (quiet y, nv (snan y)) ∧ fFma f32 rm x y z = (quiet y, nv (snan y ∨ snan z))) ∧
    (¬ nan x → ¬ nan y →
      (nan z → fFma f32 rm x y z = (quiet z, nv (snan z ∨ pair))) ∧ (¬ nan z → pair → fFma f32 rm x y z = bad) ∧
      (pair → fMul f32 rm x y = bad) ∧
      (inf x ∧ ¬ zero y ∨ inf y ∧ ¬ zero x → fMul f32 rm x y = (sign + top, 0)) ∧
      (inf x → inf y → fAdd f32 rm x y = (if x = y then (x, 0) else bad) ∧ fSub f32 rm x y = (if x = y then bad else (x, 0)) ∧
        fDiv f32 rm x y = bad) ∧
      (inf x → real y → fAdd f32 rm x y = (x, 0) ∧ fSub f32 rm x y = (x, 0) ∧ fDiv f32 rm x y = (sign + top, 0)) ∧
      (real x → inf y → fAdd f32 rm x y = (y, 0) ∧ fSub f32 rm x y = ((y + 2 ^ 31) % 2 ^ 32, 0) ∧
        fDiv f32 rm x y = (sign, 0)) ∧
      (real x → zero y → fDiv f32 rm x y = if zero x then bad else (sign + top, 8)) ∧
      (zero x → real y → ¬ zero y → fDiv f32 rm x y = (sign, 0)) ∧
      (zero x → zero y → fAdd f32 rm x y = (if x = y then x else if rm = 2 then 2 ^ 31 else 0, 0)) ∧
      (real x → ¬ zero x → y = (x + 2 ^ 31) % 2 ^ 32 → fAdd f32 rm x y = (if rm = 2 then 2 ^ 31 else 0, 0))) ∧
    (zero x ∨ x = top → fSqrt f32 rm x = (x, 0)) ∧
    (¬ nan x → ¬ zero x → sgn x = 1 → fSqrt f32 rm x = bad) ∧
    (∀ (neg : Bool) (m e : Nat), let s := if neg then 2 ^ 31 else 0
      let away := rm = 0 ∨ (rm = 2 ∧ neg = true) ∨ (rm = 3 ∧ neg = false)
      (2 ^ 128 ≤ m * 2 ^ e → roundF f32 rm neg m e = (s + if away then top else top - 1, 5)) ∧
      (2 ^ 9 ≤ m * 2 ^ e → roundF (floatFmt 9) rm neg m e = ((if neg then 2 ^ 7 else 0) + 0x7E, 5))) ∧
    (∀ ct : BitVec 4, ct.toNat ≤ 5 →
      let w := if ct.toNat < 2 then 32 else if ct.toNat < 4 then 16 else 8
      let signed := ct.toNat % 2 = 0
      let lo : Int := if signed then -2 ^ (w - 1) else 0
      let hi : Int := if signed then 2 ^ (w - 1) - 1 else 2 ^ w - 1
      let pat (v : Int) := (BitVec.ofInt w v).toNat
      let u := absUnits (unpackF f32 x)
      let rest := u % 2 ^ 149
      let up := (rm = 0 ∧ (2 ^ 149 < 2 * rest ∨ 2 ^ 149 = 2 * rest ∧ u / 2 ^ 149 % 2 = 1)) ∨
        (rm = 2 ∧ sgn x = 1 ∧ rest ≠ 0) ∨ (rm = 3 ∧ sgn x = 0 ∧ rest ≠ 0)
      let n : Int := ((u / 2 ^ 149 + if up then 1 else 0 : Nat) : Int)
      let v : Int := if sgn x = 1 then -n else n
      (nan x → convert 6 ct rm x = (0, 16)) ∧
      (inf x → convert 6 ct rm x = (pat (if sgn x = 1 then lo else hi), 16)) ∧
      (real x → v < lo → convert 6 ct rm x = (pat lo, 16)) ∧ (real x → hi < v → convert 6 ct rm x = (pat hi, 16)) ∧
      (real x → lo ≤ v → v ≤ hi → convert 6 ct rm x = (pat v, if rest = 0 then 0 else 1))) ∧
    (nan x → convert 6 7 rm x = (sgn x * 2 ^ 15 + (0x7E00 ||| x / 2 ^ 13 % 2 ^ 10), nv (snan x)) ∧
      convert 6 8 rm x = (sgn x * 2 ^ 15 + (0x7FC0 ||| x / 2 ^ 16 % 2 ^ 7), nv (snan x)) ∧
      convert 6 9 rm x = (sgn x * 2 ^ 7 + 0x7F, nv (snan x)) ∧
      convert 6 10 rm x = (sgn x * 2 ^ 7 + (0x7E ||| x / 2 ^ 21 % 4), nv (snan x))) ∧
    (inf x → convert 6 7 rm x = (sgn x * 2 ^ 15 + 0x7C00, 0) ∧ convert 6 8 rm x = (sgn x * 2 ^ 15 + 0x7F80, 0) ∧
      convert 6 9 rm x = (0x7F, 16) ∧ convert 6 10 rm x = (sgn x * 2 ^ 7 + 0x7C, 0))

/-- Scalar float instructions, comparisons, conversions and special values with their flags and traps: FloatInstructions,
ScalarConversions and FloatSpecialCases of Claims, together. -/
def Obligations.ScalarFloat : Prop := FloatInstructions ∧ ScalarConversions ∧ FloatSpecialCases

/-! ### Global memory -/

/-- R91, R194 to R196, R198: LD, LDN and LDA. A size above a doubleword is reserved; then alignment, translation, and errors of the
bytes raise their causes, each with no other effect; a load from the device window reads the register there, in the mode that its
block asks for (log entry 33); otherwise rt receives the little-endian bytes, sign-extended (LD, LDA)
or zero-extended (LDN). LDA then acts on the caches as an acquire of system scope. -/
def Obligations.GlobalLoads : Prop :=
  ∀ (s s1 : State) (k : Nat) (t a : BitVec 5) (z : BitVec 3) (o : BitVec 11) (c : Cause) (v : Word64) (l : Loc),
    CoreReady .user true s k →
    let off : Int := match (s.core k).pfx with
      | none => o.toInt
      | some p => (p ++ o).toInt
    let n := 2 ^ z.toNat
    let ea := gGet s k a + BitVec.ofInt 64 off
    let loads : List Instr := [.ld t a z o, .ldn t a z o, .lda t a z o]
    let tr := translate s (coreReq s k .data) ea .load
    let r := loadLoc s1 (.core k) l n
    let raw := numOf r.1
    let signed : Word64 := BitVec.ofInt 64 (if raw < 2 ^ (8 * n - 1) then (raw : Int) else (raw : Int) - 2 ^ (8 * n))
    (4 ≤ z.toNat → ∀ i ∈ loads, exec i s = traps s k .reservedField 0) ∧
    (z.toNat < 4 → ea.toNat % n ≠ 0 → ∀ i ∈ loads, exec i s = traps s k .misalignData ea) ∧
    (z.toNat < 4 → ea.toNat % n = 0 → tr = .error (c, v) → ∀ i ∈ loads, exec i s = traps s k c v) ∧
    (z.toNat < 4 → ea.toNat % n = 0 → tr = .ok (l, s1) → l.dev = false → readFault s1 l.key n = some c →
      ∀ i ∈ loads, exec i s = traps s k c ea) ∧
    (z.toNat < 4 → ea.toNat % n = 0 → tr = .ok (l, s1) → l.dev = false → readFault s1 l.key n = none →
      exec (.ld t a z o) s = wrote r.2 k 4 t signed ∧
      exec (.ldn t a z o) s = wrote r.2 k 4 t (BitVec.ofNat 64 raw) ∧
      exec (.lda t a z o) s = .next (retireCore (fenceCaches (gSet r.2 k t signed) k 1 3) k 4 none) ∧
      r.2.mem = s.mem ∧ { (r.2.core k) with pts := (s.core k).pts } = s.core k) ∧
    (z.toNat < 4 → ea.toNat % n = 0 → tr = .ok (l, s1) → l.dev = true →
      let allowed := modeLe (devMode (devBlock s1 l.gpa)) (s.core k).mode = true
      let x := devRead s1 l.gpa n
      let got : Word64 := BitVec.ofInt 64 (sextInt (numOf x.1) (8 * n))
      (¬ allowed → ∀ i ∈ loads, exec i s = traps s k .s1Perm ea) ∧
      (allowed → exec (.ld t a z o) s = wrote x.2 k 4 t got ∧
        exec (.ldn t a z o) s = wrote x.2 k 4 t (BitVec.ofNat 64 (numOf x.1)) ∧
        exec (.lda t a z o) s = .next (retireCore (fenceCaches (gSet x.2 k t got) k 1 3) k 4 none)))

/-- R177, R194 to R196, R219, R436: ST. Its checks are those of a load without the check of the bytes' errors. A completed store
changes no g register and no byte of memory but the 2^SZ bytes at the location that its address translates to, which take the low
bytes of rt; a store to LOC memory changes those bytes in the isle's view of the line, and memory only in dirty bytes that other
isles of the die held for that line; an isle that can hold no line writes LOC bytes to memory too (log entry 76). A store to the
device window writes the register there, but no housekeeping register (log entries 32, 33). -/
def Sys2Proof.Claims.StoresWrite : Prop :=
  ∀ (s s1 : State) (k : Nat) (t a : BitVec 5) (z : BitVec 3) (o : BitVec 11) (c : Cause) (v : Word64) (l : Loc),
    CoreReady .user true s k → k < 64 →
    let off : Int := match (s.core k).pfx with
      | none => o.toInt
      | some p => (p ++ o).toInt
    let n := 2 ^ z.toNat
    let ea := gGet s k a + BitVec.ofInt 64 off
    let tr := translate s (coreReq s k .data) ea .store
    let byte (i : Nat) : Byte := (gGet s k t).extractLsb' (8 * i) 8
    let line := lineOf l.key
    let keeps := ((s1.isle k).line line).isSome = true ∨ (s1.isle k).caches = true
    (4 ≤ z.toNat → exec (.st t a z o) s = traps s k .reservedField 0 ∧
      exec (.stl t a z o) s = traps s k .reservedField 0) ∧
    (z.toNat < 4 → ea.toNat % n ≠ 0 → exec (.st t a z o) s = traps s k .misalignData ea ∧
      exec (.stl t a z o) s = traps s k .misalignData ea) ∧
    (z.toNat < 4 → ea.toNat % n = 0 → tr = .error (c, v) → exec (.st t a z o) s = traps s k c v ∧
      exec (.stl t a z o) s = traps s k c v) ∧
    (z.toNat < 4 → ea.toNat % n = 0 → tr = .ok (l, s1) → l.dev = false → l.key % 64 + n ≤ 64 →
      ∃ u, exec (.st t a z o) s = .next (retireCore u k 4 none) ∧
        { (u.core k) with pts := (s.core k).pts, unfenced := (s.core k).unfenced } = s.core k ∧
        (l.kind ≠ 1 → ∀ x, Memory.read u.mem x =
          if l.key ≤ x ∧ x < l.key + n then byte (x - l.key) else Memory.read s.mem x) ∧
        (l.kind = 1 → ∀ x, lineOf x ≠ line → Memory.read u.mem x = Memory.read s.mem x) ∧
        (l.kind = 1 → keeps → ∀ x, Memory.read u.mem x = Memory.read s.mem x ∨
          ∃ j v, j ∈ dieIsles (k / 16) ∧ j ≠ k ∧ (s1.isle j).line line = some v ∧ bit v.dirty (x % 64) = true ∧
            Memory.read u.mem x = v.data.getD (x % 64) 0) ∧
        (l.kind = 1 → keeps → (locLine s1 k line).length = 64 → ∀ i, i < 64 → (locLine u k line).getD i 0 =
            if l.key % 64 ≤ i ∧ i < l.key % 64 + n then byte (i - l.key % 64) else (locLine s1 k line).getD i 0) ∧
        (l.kind = 1 → ¬ keeps → ∀ i, i < n → Memory.read u.mem (l.key + i) = byte i ∧
          (locLine u k line).getD (l.key % 64 + i) 0 = byte i)) ∧
    (z.toNat < 4 → ea.toNat % n = 0 → tr = .ok (l, s1) → l.dev = true →
      let allowed := modeLe (devMode (devBlock s1 l.gpa)) (s.core k).mode = true
      (¬ allowed → exec (.st t a z o) s = traps s k .s1Perm ea) ∧
      (allowed → housekeeping s1 l.gpa = false → exec (.st t a z o) s =
        .next (retireCore (devWrite s1 l.gpa ((List.range n).map byte)) k 4 none)) ∧
      (allowed → housekeeping s1 l.gpa = true → exec (.st t a z o) s = .next (retireCore s1 k 4 none)))

/-- R195, R198, R200: STL acts on the caches as a release of system scope and then stores; the store that follows is that of ST.
One whose address faults has no effect at all (log entry 24). -/
def Sys2Proof.Claims.ReleaseStores : Prop :=
  ∀ (s s0 s1 : State) (k : Nat) (t a : BitVec 5) (z : BitVec 3) (o : BitVec 11) (l0 l : Loc),
    CoreReady .user true s k → k < 64 → z.toNat < 4 →
    let off : Int := match (s.core k).pfx with
      | none => o.toInt
      | some p => (p ++ o).toInt
    let n := 2 ^ z.toNat
    let ea := gGet s k a + BitVec.ofInt 64 off
    let f := fenceCaches s k 2 3
    ea.toNat % n = 0 → translate s (coreReq s k .data) ea .store = .ok (l0, s0) → l0.dev = false →
    translate f (coreReq f k .data) ea .store = .ok (l, s1) → l.dev = false →
    exec (.stl t a z o) s = exec (.st t a z o) f ∧
    (l.kind ≠ 1 → ∃ u, exec (.stl t a z o) s = .next (retireCore u k 4 none) ∧ (u.core k).g = (s.core k).g ∧
      ∀ x, Memory.read u.mem x =
        if l.key ≤ x ∧ x < l.key + n then (gGet s k t).extractLsb' (8 * (x - l.key)) 8 else Memory.read f.mem x)

/-- ST and STL: the bytes written, faults and frame: StoresWrite and ReleaseStores of Claims, together. -/
def Obligations.GlobalStores : Prop := StoresWrite ∧ ReleaseStores

/-- R207 to R209, R219: a load of bytes that the same core has just stored, in one line, returns them, whatever the kind of the
memory and whatever the core's copies and times. -/
def Obligations.LoadReturnsTheStore : Prop :=
  ∀ (s : State) (k : Nat) (l : Loc) (b : List Byte), k < 64 → l.key % 64 + b.length ≤ 64 →
    (∀ j v, (s.isle j).line (lineOf l.key) = some v → v.data.length = 64) →
    (loadLoc (storeLoc s (.core k) l b) (.core k) l b.length).1 = b

/-- R189, R197: PREF always completes and never faults; it needs no right. Where its address does not translate, or names a
device, CFG or DEV memory or a poisoned line, nothing happens; otherwise the line comes into the isle's L2, where a bank takes
lines. The core's registers and every byte of memory stay as they are. -/
def Sys2Proof.Claims.Prefetches : Prop :=
  ∀ (s s1 : State) (k : Nat) (w : BitVec 1) (a : BitVec 5) (o : BitVec 11) (e : Cause × Word64) (l : Loc),
    CoreReady .user true s k → k < 64 →
    let off : Int := match (s.core k).pfx with
      | none => o.toInt
      | some p => (p ++ o).toInt
    let ea := gGet s k a + BitVec.ofInt 64 off
    let tr := translate s (coreReq s k .data) ea .pref
    let idle := l.dev = true ∨ l.kind = 2 ∨ l.kind = 3 ∨ lineOf l.key ∈ s1.poison
    (∃ u, exec (.pref w a o 0 0) s = .next (retireCore u k 4 none) ∧ u.mem = s.mem ∧
      { (u.core k) with pts := (s.core k).pts } = s.core k ∧ u.tiles = s.tiles ∧ (u.isle k).spm = (s.isle k).spm) ∧
    (tr = .error e → exec (.pref w a o 0 0) s = .next (retireCore s k 4 none)) ∧
    (tr = .ok (l, s1) → idle → exec (.pref w a o 0 0) s = .next (retireCore s k 4 none)) ∧
    (tr = .ok (l, s1) → ¬ idle → ((s1.isle k).line (lineOf l.key)).isSome = true ∨ (s1.isle k).caches = true →
      ∃ u, exec (.pref w a o 0 0) s = .next (retireCore u k 4 none) ∧ ((u.isle k).line (lineOf l.key)).isSome = true)

/-- R88, R177, R195, R199: AMO and CAS on a word or doubleword: sizes 0b00 and 0b01, DEV memory and the device window raise
ATOMIC_KIND; otherwise
rd receives the old value sign-extended, the location takes the new one, which for a CAS that fails is the old one, and no
other byte of memory changes but those that dirty copies of the line hold on the die. -/
def Obligations.GlobalAtomics : Prop :=
  ∀ (s s1 : State) (k : Nat) (d a b : BitVec 5) (z : BitVec 2) (op : BitVec 5) (l : Loc),
    CoreReady .user false s k → k < 64 →
    let ea := gGet s k a
    let w := if z = 3 then 64 else 32
    let n := w / 8
    let y := (gGet s k b).toNat % 2 ^ w
    let cmp := (gGet s k d).toNat % 2 ^ w
    let tr := translate s (coreReq s k .data) ea .atomic
    let num (v : Nat) : Int := if v < 2 ^ (w - 1) then (v : Int) else (v : Int) - 2 ^ w
    let home := if l.kind = 1 then (flushForAtomic s1 k (lineOf l.key)).mem else s1.mem
    let old := numOf (Memory.readN home l.key n)
    let new : Nat := match op.toNat with
      | 0 => (old + y) % 2 ^ w
      | 1 => old &&& y
      | 2 => old ||| y
      | 3 => old ^^^ y
      | 4 => if num old < num y then old else y
      | 5 => if num old < num y then y else old
      | 6 => if old < y then old else y
      | 7 => if old < y then y else old
      | _ => y
    let done (i : Instr) (v : Nat) : Prop :=
      ∃ u, exec i s = .next (retireCore (gSet u k d (BitVec.ofInt 64 (num old))) k 4 none) ∧
        (u.core k).g = (s.core k).g ∧ numOf (Memory.readN u.mem l.key n) = v ∧
        ∀ x, x < l.key ∨ l.key + n ≤ x → Memory.read u.mem x = Memory.read home x
    (z.toNat < 2 → exec (.amo d a b z op 0) s = traps s k .atomicKind ea ∧
      exec (.cas d a b z 0) s = traps s k .atomicKind ea) ∧
    (2 ≤ z.toNat → ea.toNat % n ≠ 0 → exec (.amo d a b z op 0) s = traps s k .misalignData ea ∧
      exec (.cas d a b z 0) s = traps s k .misalignData ea) ∧
    (2 ≤ z.toNat → ea.toNat % n = 0 → tr = .ok (l, s1) → l.dev = false → l.kind = 2 →
      exec (.amo d a b z op 0) s = traps s k .atomicKind ea ∧ exec (.cas d a b z 0) s = traps s k .atomicKind ea) ∧
    (2 ≤ z.toNat → ea.toNat % n = 0 →
      (∀ c v, tr = .error (c, v) → exec (.amo d a b z op 0) s = traps s k c v ∧ exec (.cas d a b z 0) s = traps s k c v) ∧
      (tr = .ok (l, s1) → l.dev = true → modeLe (devMode (devBlock s1 l.gpa)) (s.core k).mode = true →
        exec (.amo d a b z op 0) s = traps s k .atomicKind ea ∧ exec (.cas d a b z 0) s = traps s k .atomicKind ea) ∧
      (∀ c, tr = .ok (l, s1) → l.dev = false → l.kind ≠ 2 → readFault s1 l.key n = some c →
        exec (.amo d a b z op 0) s = traps s k c ea ∧ exec (.cas d a b z 0) s = traps s k c ea)) ∧
    (2 ≤ z.toNat → op.toNat ≤ 8 → ea.toNat % n = 0 → tr = .ok (l, s1) → l.dev = false → l.kind ≠ 2 →
      readFault s1 l.key n = none →
      done (.amo d a b z op 0) new ∧ done (.cas d a b z 0) (if old = cmp then y else old))

/-- R88, R200: FENCE. Kind 0 is reserved; scopes 4 to 7, and in a cell those beyond the isle, raise SCOPE_ILLEGAL. From the die's
scope upward a release writes every dirty LOC byte of the isle home, and an acquire keeps no clean LOC line, and the clean bytes
of a partly dirty one are those of its home (log entry 76). A FENCE of both kinds ends the window in which a fetch may see replaced bytes (R95). -/
def Sys2Proof.Claims.Fences : Prop :=
  (∀ (s : State) (k : Nat) (kind : BitVec 2) (sc : BitVec 3), CoreReady .user false s k →
    (kind = 0 → exec (.fence kind sc 0) s = traps s k .reservedField 0) ∧
    (kind ≠ 0 → 4 ≤ sc.toNat → exec (.fence kind sc 0) s = traps s k .scopeIllegal 0) ∧
    (kind ≠ 0 → sc.toNat < 4 → ∃ u, exec (.fence kind sc 0) s = .next (retireCore u k 4 none) ∧
      (u.core k).g = (s.core k).g ∧
      (sc.toNat < 2 → u.mem = s.mem ∧ (u.isle k).l2 = (s.isle k).l2) ∧
      (kind = 2 → 2 ≤ sc.toNat → ∀ line v, (s.isle k).line line = some v → v.coh = false →
        (∀ i, i < 64 → bit v.dirty i = true → Memory.read u.mem (64 * line + i) = v.data.getD i 0) ∧
        ∃ v', (u.isle k).line line = some v' ∧ v'.dirty = 0) ∧
      (kind = 1 → u.mem = s.mem) ∧
      (kind ≠ 2 → 2 ≤ sc.toNat → ∀ e ∈ (u.isle k).l2, e.2.coh = true ∨ e.2.dirty ≠ 0) ∧
      (kind = 1 → 2 ≤ sc.toNat → ∀ e ∈ (u.isle k).l2, e.2.coh = false → ∀ i, i < 64 → bit e.2.dirty i = false →
        e.2.data.getD i 0 = Memory.read u.mem (64 * e.1 + i)) ∧
      (kind = 3 → 2 ≤ sc.toNat → ∀ j, j ≠ k → u.isle j = s.isle j) ∧
      (kind = 3 → (u.core k).unfenced = []))) ∧
  (∀ (s : State) (t : Nat) (q : Task) (kind : BitVec 2) (sc : BitVec 3), CellReady false false 2 s t q →
    (kind = 0 → exec (.fence kind sc 0) s = aborts s t .reservedField 0) ∧
    (kind ≠ 0 → 2 ≤ sc.toNat → exec (.fence kind sc 0) s = aborts s t .scopeIllegal 0) ∧
    (kind ≠ 0 → sc.toNat < 2 → exec (.fence kind sc 0) s = .next (retireCell s t 4 2 none)))

/-! ### Scratchpad -/

/-- R179, R182, R184, R195: what stops a scratchpad access of `n` bytes at `ea` by an instruction of context `c`: a byte beyond
32 MiB or in a bank that is not a SCRATCH bank of the context raises SPM_BOUNDS; a byte of a buffer that an engine owns, and a
write to a buffer's header, raise OWNER_BIT; an uncorrectable byte that is read raises MEM_UE. -/
def Sys2Proof.Claims.ScratchpadProtection : Prop :=
  ∀ (i : Isle) (c n : Nat) (ea : Word64) (wr reads : Bool), 0 < n →
    let a := ea.toNat
    let scratch (x : Nat) : Prop :=
      let b := i.banks.get Bank.reset (x / 2 ^ 17)
      b.mode = .scratch ∧ b.ctx = c
    let inside := a + n ≤ 2 ^ 25 ∧ ∀ x, a ≤ x → x < a + n → scratch x
    let blocked (x : Nat) : Prop := ∃ e, i.bufferAt x = some e ∧
      if x < e.base + 16 then wr = true else i.header e.base % 2 = 1
    (¬ inside → spmFault i c ea n wr reads = some (.spmBounds, ea)) ∧
    (inside → ∀ x, a ≤ x → x < a + n → blocked x → (∀ y, a ≤ y → y < x → ¬ blocked y) →
      spmFault i c ea n wr reads = some (.ownerBit, BitVec.ofNat 64 x)) ∧
    (inside → (∀ x, a ≤ x → x < a + n → ¬ blocked x) →
      ((∃ u ∈ i.spmUe, a ≤ u ∧ u < a + n) → reads = true → spmFault i c ea n wr reads = some (.memUe, ea)) ∧
      ((∀ u ∈ i.spmUe, ¬ (a ≤ u ∧ u < a + n)) ∨ reads = false → spmFault i c ea n wr reads = none))

/-- R90, R201: LDS and STS on a core, in the 32-bit and the 16-bit form: aligned accesses of one, two, four or eight bytes, loads
sign-extended, the offset in bytes (in the short form a multiple of 8). A store changes no byte of the scratchpad but those
it names. -/
def Sys2Proof.Claims.CoreScratchpadAccess : Prop :=
  ∀ (s : State) (k : Nat) (t a : BitVec 5) (z : BitVec 3) (o : BitVec 11) (t3 a3 : BitVec 3) (o4 : BitVec 4),
    CoreReady .user true s k →
    let off : Int := match (s.core k).pfx with
      | none => o.toInt
      | some p => (p ++ o).toInt
    let i := s.isle k
    let value (ea : Word64) (n : Nat) : Word64 :=
      let raw := numOf (i.spmRead ea.toNat n)
      BitVec.ofInt 64 (if raw < 2 ^ (8 * n - 1) then (raw : Int) else (raw : Int) - 2 ^ (8 * n))
    let stored (x : Instr) (len n : Nat) (ea v : Word64) : Prop :=
      ∃ u, exec x s = .next (retireCore u k len none) ∧ (u.core k).g = (s.core k).g ∧ u.mem = s.mem ∧
        (∀ j, j ≠ k → u.isle j = s.isle j) ∧
        ∀ y, Memory.read (u.isle k).spm y =
          if ea.toNat ≤ y ∧ y < ea.toNat + n then v.extractLsb' (8 * (y - ea.toNat)) 8 else Memory.read i.spm y
    let fault (ea : Word64) (n : Nat) (wr rd : Bool) := spmFault i i.ctx ea n wr rd
    let n := 2 ^ z.toNat
    let ea := gGet s k a + BitVec.ofInt 64 off
    let ea3 := gGet s k (1#2 ++ a3) + BitVec.ofNat 64 (8 * o4.toNat)
    (4 ≤ z.toNat → exec (.lds t a z o) s = traps s k .reservedField 0 ∧
      exec (.sts t a z o) s = traps s k .reservedField 0) ∧
    (z.toNat < 4 → ea.toNat % n ≠ 0 → exec (.lds t a z o) s = traps s k .misalignData ea ∧
      exec (.sts t a z o) s = traps s k .misalignData ea) ∧
    (z.toNat < 4 → ea.toNat % n = 0 →
      (∀ c v, fault ea n false true = some (c, v) → exec (.lds t a z o) s = traps s k c v) ∧
      (∀ c v, fault ea n true false = some (c, v) → exec (.sts t a z o) s = traps s k c v) ∧
      (fault ea n false true = none → exec (.lds t a z o) s = wrote s k 4 t (value ea n)) ∧
      (fault ea n true false = none → stored (.sts t a z o) 4 n ea (gGet s k t))) ∧
    ((s.core k).pfx = none → ea3.toNat % 8 = 0 →
      (fault ea3 8 false true = none → exec (.ldsShort t3 a3 o4) s = wrote s k 2 (1#2 ++ t3) (value ea3 8)) ∧
      (fault ea3 8 true false = none → stored (.stsShort t3 a3 o4) 2 8 ea3 (gGet s k (1#2 ++ t3))))

/-- R90, R201, R204: LDS and STS in a cell move SZ + 1 lanes of four bytes (in the short form eight, with an offset that is a
multiple of 32); a load clears the lanes above. They take 4 cycles for up to four lanes and else 5. -/
def Sys2Proof.Claims.CellScratchpadAccess : Prop :=
  ∀ (s : State) (t : Nat) (q : Task) (r a : BitVec 5) (z : BitVec 3) (o : BitVec 11) (r3 a3 : BitVec 3) (o4 : BitVec 4)
    (x : Word64) (v : Lanes), CellReady false true 5 s t q → a.toNat ≤ 10 →
    let pre := if q.pfx = none then 0 else 1
    let off : Int := match q.pfx with
      | none => o.toInt
      | some p => (p ++ o).toInt
    let k := tileIsle t
    let i := s.isle k
    let fault (ea : Word64) (n : Nat) (wr rd : Bool) := spmFault i (tileCtx s t) ea n wr rd
    let lane (ea : Word64) (n : Nat) : Lanes := Lanes.ofFn (fun j =>
      if j < n then BitVec.ofNat 32 (numOf (i.spmRead (ea.toNat + 4 * j) 4)) else 0)
    let stored (e : Instr) (len n cost : Nat) (ea : Word64) (v : Lanes) : Prop :=
      ∃ u, exec e s = .next (retireCell u t len cost none) ∧ u.cell t = s.cell t ∧ u.mem = s.mem ∧
        ∀ y, Memory.read (u.isle k).spm y =
          if ea.toNat ≤ y ∧ y < ea.toNat + 4 * n then
            (v.get ((y - ea.toNat) / 4)).extractLsb' (8 * ((y - ea.toNat) % 4)) 8
          else Memory.read i.spm y
    let n := z.toNat + 1
    let cost := (if n ≤ 4 then 4 else 5) + pre
    let ea := x + BitVec.ofInt 64 off
    let ea3 := x + BitVec.ofNat 64 (32 * o4.toNat)
    (r.toNat ≤ 7 → sGetL s t a = .ok x →
      (ea.toNat % 4 ≠ 0 → exec (.lds r a z o) s = aborts s t .misalignData ea) ∧
      (∀ c w, ea.toNat % 4 = 0 → fault ea (4 * n) false true = some (c, w) →
        exec (.lds r a z o) s = aborts s t c w) ∧
      (ea.toNat % 4 = 0 → fault ea (4 * n) false true = none →
        exec (.lds r a z o) s = wroteL s t 4 cost r (lane ea n))) ∧
    (r.toNat ≤ 9 → sGetL s t a = .ok x → lGet s t r = .ok v → ea.toNat % 4 = 0 → fault ea (4 * n) true false = none →
      stored (.sts r a z o) 4 n cost ea v) ∧
    (8 ≤ r.toNat → exec (.lds r a z o) s = aborts s t .reservedField 0) ∧
    (10 ≤ r.toNat → exec (.sts r a z o) s = aborts s t .reservedField 0) ∧
    (q.pfx = none → sGetL s t (0#2 ++ a3) = .ok x → ea3.toNat % 4 = 0 →
      (fault ea3 32 false true = none → exec (.ldsShort r3 a3 o4) s = wroteL s t 2 5 (0#2 ++ r3) (lane ea3 8)) ∧
      (fault ea3 32 true false = none → lGet s t (0#2 ++ r3) = .ok v → stored (.stsShort r3 a3 o4) 2 8 5 ea3 v))

/-- Scratchpad protection, and LDS and STS on a core and in a cell: ScratchpadProtection, CoreScratchpadAccess and
CellScratchpadAccess of Claims, together. -/
def Obligations.ScratchpadAccess : Prop := ScratchpadProtection ∧ CoreScratchpadAccess ∧ CellScratchpadAccess

/-- R88, R199, R202, R204: AMOS, TSB and TCB, of either class on scalars: the old word (sign-extended) or bit goes to rd and the new
one to the scratchpad, of which no other byte changes. In a cell they take 6 cycles. -/
def Sys2Proof.Claims.ScratchpadAtomics : Prop :=
  ∀ (s : State) (x : Runner) (d a b : BitVec 5) (z : BitVec 2) (op : BitVec 5) (p v : Word64),
    BothReady false 6 s x → readable x a → readable x b → writable x d →
    sGet s x a = .ok p → sGet s x b = .ok v →
    let k := runnerIsle x
    let i := s.isle k
    let w := if z = 3 then 64 else 32
    let old := numOf (i.spmRead p.toNat (w / 8))
    let num (v : Nat) : Int := if v < 2 ^ (w - 1) then (v : Int) else (v : Int) - 2 ^ w
    let done (e : Instr) (at' n new : Nat) (r : Word64) : Prop :=
      ∃ u, exec e s = retires s x (sSet u x d r) 4 6 ∧ (∀ j, (u.isle j).core = (s.isle j).core) ∧ u.tiles = s.tiles ∧
        u.mem = s.mem ∧ numOf ((u.isle k).spmRead at' n) = new ∧
        ∀ y, y < at' ∨ at' + n ≤ y → Memory.read (u.isle k).spm y = Memory.read i.spm y
    let byte := (p + BitVec.ofNat 64 (v.toNat % 2 ^ 32 / 8)).toNat
    let oldByte := numOf (i.spmRead byte 1)
    let j := v.toNat % 8
    (z.toNat < 2 → exec (.amos d a b z op 0) s = stops s x .atomicKind p) ∧
    (2 ≤ z.toNat → p.toNat % (w / 8) ≠ 0 → exec (.amos d a b z op 0) s = stops s x .misalignData p) ∧
    (2 ≤ z.toNat → p.toNat % (w / 8) = 0 → spmFault i (ctxOf s x) p (w / 8) true true = none →
      done (.amos d a b z op 0) p.toNat (w / 8) (amoResult op.toNat w old v.toNat) (BitVec.ofInt 64 (num old))) ∧
    (spmFault i (ctxOf s x) (BitVec.ofNat 64 byte) 1 true true = none →
      done (.tsb d a b 0) byte 1 (oldByte ||| 2 ^ j) (BitVec.ofNat 64 (oldByte / 2 ^ j % 2)) ∧
      done (.tcb d a b 0) byte 1 (oldByte - oldByte / 2 ^ j % 2 * 2 ^ j) (BitVec.ofNat 64 (oldByte / 2 ^ j % 2)))

/-- R183 to R185, R203: the ownership instructions, of either class. DECL writes the header of a new buffer and answers 0; GIVE makes
a CORE-owned buffer the engines' and answers 0, and answers 1 where they own it already; TAKE answers 0 where no reference
is held or CORE owns it, and else 1; DROP removes a CORE-owned buffer without references, and its tag with it (R256), and
answers 0, and else 1. -/
def Sys2Proof.Claims.BufferOwnership : Prop :=
  ∀ (s : State) (x : Runner) (d a b : BitVec 5) (p v : Word64) (e : BufEntry),
    BothReady false 2 s x → readable x a → readable x b → writable x d →
    sGet s x a = .ok p → sGet s x b = .ok v → p.toNat % 64 = 0 →
    let k := runnerIsle x
    let i := s.isle k
    let c := ctxOf s x
    let answers (u : State) (r : Word64) := retires s x (sSet u x d r) 4 2
    let len := v.toNat % 2 ^ 32
    let engine := i.header e.base % 2 = 1
    let held := i.buffer p.toNat = some e ∧ (i.bank (e.base / 2 ^ 17)).mode = .scratch ∧ (i.bank (e.base / 2 ^ 17)).ctx = c
    (v.toNat < 2 ^ 52 → 64 ≤ len → len % 64 = 0 → len ≤ 2 ^ 25 → i.spmOk c p.toNat len = true →
      (∀ f ∈ i.dir, ¬ (f.base < p.toNat + len ∧ p.toNat < f.base + f.len)) →
      (∀ y, p.toNat ≤ y → y < p.toNat + len → (i.bank (y / 2 ^ 17)).busy = false) → i.dir.length < 512 →
      ∃ u, exec (.ownDecl d a b 0) s = answers u 0 ∧
        (u.isle k).dir = i.dir ++ [⟨p.toNat, len, 0, false, false⟩] ∧ u.mem = s.mem ∧
        (u.isle k).header p.toNat = len * 2 ^ 96 + v.toNat / 2 ^ 32 % 2 ^ 19 * 2 ^ 77 + v.toNat / 2 ^ 51 % 2 * 2 ^ 76) ∧
    (held → v.toNat < 4 → engine → exec (.ownGive d a b 0) s = answers s 1) ∧
    (held → v.toNat < 4 → ¬ engine → ∃ u, exec (.ownGive d a b 0) s = answers u 0 ∧
      (u.isle k).header e.base % 2 = 1 ∧ fieldOf ((u.isle k).header e.base) 25 24 = v.toNat ∧ (u.isle k).dir = i.dir) ∧
    (held → engine → e.refs = 0 → ∃ u, exec (.ownTake d a 0) s = answers u 0 ∧
      (u.isle k).header e.base % 2 = 0 ∧
      (u.isle k).dir = i.dir.map (fun f => if f.base = e.base then { f with wrote := false } else f)) ∧
    (held → engine → e.refs ≠ 0 → exec (.ownTake d a 0) s = answers s 1) ∧
    (held → ¬ engine → exec (.ownTake d a 0) s = answers s 0) ∧
    (held → engine ∨ e.refs ≠ 0 → exec (.ownDrop d a 0) s = answers s 1) ∧
    (held → ¬ engine → e.refs = 0 → ∃ u, exec (.ownDrop d a 0) s = answers u 0 ∧
      (∀ f, f ∈ (u.isle k).dir ↔ f ∈ i.dir ∧ f.base ≠ e.base) ∧ (u.isle k).spm = i.spm ∧
      (let h := i.header e.base
       let r := fieldOf h 47 40
       (fieldOf h 35 35 = 1 → ((u.isle k).scale r).live = (i.scale r).live - 1) ∧
       (fieldOf h 35 35 = 0 → (u.isle k).scales = i.scales))) ∧
    (i.buffer p.toNat = none → exec (.ownTake d a 0) s = stops s x .spmBounds p)

/-- Scratchpad atomics and bit operations, and buffer ownership: ScratchpadAtomics and BufferOwnership of Claims, together. -/
def Obligations.ScratchpadAtomicsAndOwnership : Prop := ScratchpadAtomics ∧ BufferOwnership

/-- R206 to R209, R212, R213: the times of a COH line. A load hits the isle's copy while its time is within the lease, and otherwise reads
the home, extends the lease and leaves a copy; a write, and an atomic that writes, is performed at the home after every lease, with the
isle's own copy taking the new value and no other copy changing; an atomic that writes nothing is a load at the home. -/
def Sys2Proof.Claims.LeasedLines : Prop :=
  ∀ (s : State) (g : Agent) (key n : Nat) (b : List Byte),
    let line := key / 64
    let k := agentIsle g
    let p := s.pts g
    let wts := (s.times' line).1
    let rts := (s.times' line).2
    let home (u : State) := Memory.readN u.mem (64 * line) 64
    let copy (u : State) := (u.isle k).line line
    let far (u : State) := ∀ j, j ≠ k → (u.isle j).line line = (s.isle j).line line
    let lease := rts.max (max p wts + s.leaseLen g)
    let missed (r : List Byte × State) : Prop := r.1 = Memory.readN s.mem key n ∧ r.2.mem = s.mem ∧ r.2.pts g = max p wts ∧
      r.2.times' line = (wts, lease) ∧ far r.2 ∧
      ∀ c, k < 64 → copy r.2 = some c → c.coh = true ∧ c.data = home s ∧ c.cw = wts ∧ c.cr = lease
    let wrote (u : State) : Prop := let ts := max p (rts + 1)
      u.mem = Memory.writeN s.mem key b ∧ u.pts g = ts ∧ u.times' line = (ts, ts) ∧ far u ∧
      (∀ c, k < 64 → copy s = some c → c.coh = true →
        copy u = some { c with data := home u, cw := ts, cr := ts }) ∧
      (2 ^ 47 ≤ ts → ts < 2 ^ 48 → u.rollover = true)
    (∀ c, k < 64 → copy s = some c → c.coh = true → p ≤ c.cr → let r := cohLoad s g key n
      r.1 = (c.data.drop (key % 64)).take n ∧ r.2.mem = s.mem ∧ r.2.pts g = max p c.cw ∧ r.2.times' line = s.times' line ∧
        far r.2 ∧ copy r.2 = some c ∧ ∃ m, (g, m) ∈ r.2.hits) ∧
    ((k < 64 → ∀ c, copy s = some c → c.coh = false ∨ c.cr < p) → missed (cohLoad s g key n)) ∧
    wrote (cohStore s g key b) ∧
    (∀ f : List Byte → Option (List Byte),
      (f (Memory.readN s.mem key n) = some b → (atomicCoh s g key n f).1 = Memory.readN s.mem key n ∧
        wrote (atomicCoh s g key n f).2) ∧
      (f (Memory.readN s.mem key n) = none → missed (atomicCoh s g key n f)))

/-- The times of COH lines; PREF completes and changes no data; FENCE completes, writing back and dropping lines by scope:
Prefetches, Fences and LeasedLines of Claims, together. -/
def Obligations.PrefetchesAndFences : Prop := Prefetches ∧ Fences ∧ LeasedLines

/-! ### Vector instructions of cells -/

/-- R20, R23, R169 to R172: the integer element types. Lane by lane on signed elements of w bits, wrapped, or with Q = 1
saturated with SAT in vf; the minimum, the maximum and VCMP take unsigned order with Q = 1; the logic and the shifts by the
low bits of rb's element; VRED adds in the fixed tree order. Results are written sign-extended, VCMP's as masks. -/
def Obligations.VectorIntegerResults : Prop :=
  ∀ (s : State) (c : Nat) (k : Task) (d a b : BitVec 5) (q : BitVec 1) (t : BitVec 4) (x y z : Lanes),
    CellReady false false 3 s c k → d.toNat ≤ 7 → a.toNat ≤ 10 → b.toNat ≤ 10 → t = 0 ∨ t = 2 ∨ t = 4 →
    lGet s c a = .ok x → lGet s c b = .ok y → lGet s c d = .ok z →
    let w := if t = 0 then 32 else if t = 2 then 16 else 8
    let int (v : Word32) : Int := (v.setWidth w).toInt
    let nat (v : Word32) : Nat := (v.setWidth w).toNat
    let ext (v : Int) : Word32 := (BitVec.ofInt w v).signExtend 32
    let lo : Int := -2 ^ (w - 1)
    let hi : Int := 2 ^ (w - 1) - 1
    let past (v : Int) : Prop := q = 1 ∧ (v < lo ∨ hi < v)
    let fit (v : Int) : Int := if q = 1 then max lo (min hi v) else v
    let arith (f : Nat → Int) (i : Instr) : Prop :=
      ((∃ j, j < 8 ∧ past (f j)) →
        exec i s = wroteL (setVf s c 64) c 4 2 d (Lanes.ofFn (fun j => ext (fit (f j))))) ∧
      ((∀ j, j < 8 → ¬ past (f j)) →
        exec i s = wroteL (setVf s c 0) c 4 2 d (Lanes.ofFn (fun j => ext (f j))))
    let plain (f : Nat → Word32) (i : Instr) : Prop := exec i s = wroteL (setVf s c 0) c 4 2 d (Lanes.ofFn f)
    let less (u v : Word32) : Bool := if q = 1 then decide (nat u < nat v) else decide (int u < int v)
    let sh (j : Nat) := (y.get j).toNat % w
    arith (fun j => int (x.get j) + int (y.get j)) (.vadd d a b q t) ∧
    arith (fun j => int (x.get j) - int (y.get j)) (.vsub d a b q t) ∧
    arith (fun j => int (x.get j) * int (y.get j)) (.vmul d a b q t) ∧
    arith (fun j => int (x.get j) * int (y.get j) + int (z.get j)) (.vfma d a b q t) ∧
    arith (fun j => (int (x.get j)).natAbs) (.vabs d a q t 0) ∧
    arith (fun j => -int (x.get j)) (.vneg d a q t 0) ∧
    plain (fun j => ext (int (if less (y.get j) (x.get j) then y.get j else x.get j))) (.vmin d a b q t) ∧
    plain (fun j => ext (int (if less (x.get j) (y.get j) then y.get j else x.get j))) (.vmax d a b q t) ∧
    plain (fun j => ext (int (x.get j &&& y.get j))) (.vand d a b t 0) ∧
    plain (fun j => ext (int (x.get j ||| y.get j))) (.vor d a b t 0) ∧
    plain (fun j => ext (int (x.get j ^^^ y.get j))) (.vxor d a b t 0) ∧
    plain (fun j => ext (int (x.get j) * 2 ^ sh j)) (.vshl d a b t 0) ∧
    plain (fun j => ext ((nat (x.get j) / 2 ^ sh j : Nat) : Int)) (.vshr d a b t 0) ∧
    plain (fun j => ext (Int.fdiv (int (x.get j)) (2 ^ sh j))) (.vsra d a b t 0) ∧
    (∀ r : BitVec 3, r.toNat ≤ 5 → plain (fun j =>
      let p := x.get j
      let o := y.get j
      let holds : Bool := match r.toNat with
        | 0 => !less p o && !less o p
        | 1 => less p o || less o p
        | 2 => less p o
        | 3 => !less o p
        | 4 => less o p
        | _ => !less p o
      if holds then 0xFFFFFFFF else 0) (.vcmp d a b q t r)) ∧
    (q = 0 → exec (.vred d a q t 0) s = wroteL (setVf s c 0) c 4 3 d
      (Lanes.ofFn (fun j => if j = 0 then ext (int (x.get 0) + int (x.get 1) + int (x.get 2) + int (x.get 3)
        + int (x.get 4) + int (x.get 5) + int (x.get 6) + int (x.get 7)) else 0))) ∧
    (q = 1 →
      let add (u v : Int × Bool) : Int × Bool :=
        (max lo (min hi (u.1 + v.1)), u.2 || v.2 || decide (u.1 + v.1 < lo ∨ hi < u.1 + v.1))
      let l (j : Nat) : Int × Bool := (int (x.get j), false)
      let sum := add (add (add (l 0) (l 1)) (add (l 2) (l 3))) (add (add (l 4) (l 5)) (add (l 6) (l 7)))
      exec (.vred d a q t 0) s = wroteL (setVf s c (if sum.2 then 64 else 0)) c 4 3 d
        (Lanes.ofFn (fun j => if j = 0 then ext sum.1 else 0)))

/-- R32 to R34, R169 to R174: the float element types FP32, FP16 and BF16. Each lane's operation rounds in vf.VRM, the flags of the
lanes are joined in vf, and an enabled FP_INVALID or FP_OVERFLOW aborts the task with no lane written. VRED takes the
additions in the fixed tree order; VCVT converts between any two element formats that are not block formats. -/
def Sys2Proof.Claims.VectorFloatResults : Prop :=
  ∀ (s : State) (c : Nat) (k : Task) (d a b : BitVec 5) (t e : BitVec 4) (r : BitVec 3) (x y z : Lanes),
    CellReady false false 4 s c k → d.toNat ≤ 7 → a.toNat ≤ 10 → b.toNat ≤ 10 → r.toNat ≤ 5 →
    lGet s c a = .ok x → lGet s c b = .ok y → lGet s c d = .ok z →
    let vf := (s.cell c).vf
    let rm := vf.extractLsb' 8 2
    let p := floatFmt t
    let lx (j : Nat) := (x.get j).toNat
    let ly (j : Nat) := (y.get j).toNat
    let lz (j : Nat) := (z.get j).toNat
    let flags (f : Nat → Nat × FlagSet) : FlagSet :=
      (f 0).2 ||| (f 1).2 ||| (f 2).2 ||| (f 3).2 ||| (f 4).2 ||| (f 5).2 ||| (f 6).2 ||| (f 7).2
    let gives (cost : Nat) (v : Lanes) (fl : FlagSet) : Host.Outcome State Fault Refusal :=
      let s1 := setVf s c fl
      if bit vf 16 = true ∧ bit fl 4 = true then aborts s1 c .fpInvalid 0
      else if bit vf 17 = true ∧ bit fl 2 = true then aborts s1 c .fpOverflow 0
      else wroteL s1 c 4 cost d v
    let each (cost : Nat) (i : Instr) (f : Nat → Nat × FlagSet) : Prop :=
      exec i s = gives cost (Lanes.ofFn (fun j => laneOf t (f j).1)) (flags f)
    let add (u v : Nat × FlagSet) : Nat × FlagSet :=
      let o := fAdd p rm u.1 v.1
      (o.1, u.2 ||| v.2 ||| o.2)
    let l (j : Nat) : Nat × FlagSet := (lx j, 0)
    let sum := add (add (add (l 0) (l 1)) (add (l 2) (l 3))) (add (add (l 4) (l 5)) (add (l 6) (l 7)))
    (t = 6 ∨ t = 7 ∨ t = 8 →
      each 2 (.vadd d a b 0 t) (fun j => fAdd p rm (lx j) (ly j)) ∧
      each 2 (.vsub d a b 0 t) (fun j => fSub p rm (lx j) (ly j)) ∧
      each 2 (.vmul d a b 0 t) (fun j => fMul p rm (lx j) (ly j)) ∧
      each 2 (.vfma d a b 0 t) (fun j => fFma p rm (lx j) (ly j) (lz j)) ∧
      each 2 (.vmin d a b 0 t) (fun j => fMinMax p false (lx j) (ly j)) ∧
      each 2 (.vmax d a b 0 t) (fun j => fMinMax p true (lx j) (ly j)) ∧
      each 2 (.vabs d a 0 t 0) (fun j => (laneAbs p (lx j), 0)) ∧
      each 2 (.vneg d a 0 t 0) (fun j => (laneNeg p (lx j), 0)) ∧
      each 4 (.vrcp d a t 0) (fun j => fRcp p rm (lx j)) ∧
      each 4 (.vrsq d a t 0) (fun j => fRsq p rm (lx j)) ∧
      each 4 (.vexp2 d a t 0) (fun j => fExp2 p rm (lx j)) ∧
      each 4 (.vlog2 d a t 0) (fun j => fLog2 p rm (lx j)) ∧
      exec (.vred d a 0 t 0) s
        = gives 3 (Lanes.ofFn (fun j => if j = 0 then laneOf t sum.1 else 0)) sum.2 ∧
      exec (.vcmp d a b 0 t r) s
        = gives 2 (Lanes.ofFn (fun j => if (fCmp p r.toNat (lx j) (ly j)).1 then 0xFFFFFFFF else 0))
            (flags (fun j => (0, (fCmp p r.toNat (lx j) (ly j)).2)))) ∧
    (t.toNat ≤ 10 → e.toNat ≤ 10 →
      exec (.vcvt d a e t 0 0) s
        = gives 2 (Lanes.ofFn (fun j => laneOf e (convert t e rm (lx j)).1)) (flags (fun j => convert t e rm (lx j)))) ∧
    (11 ≤ t.toNat ∨ 11 ≤ e.toNat → exec (.vcvt d a e t 0 0) s = aborts s c .formatUnsupported 0)

/-- R88, R171, R175, R176: the instructions that move whole lanes or packed elements and set no flag. -/
def Obligations.VectorMoves : Prop :=
  ∀ (s : State) (c : Nat) (k : Task) (d a b : BitVec 5) (t : BitVec 4) (x y z : Lanes),
    CellReady false false 2 s c k → d.toNat ≤ 7 → a.toNat ≤ 10 → b.toNat ≤ 10 →
    lGet s c a = .ok x → lGet s c b = .ok y → lGet s c d = .ok z →
    let n := (y.l1 ++ y.l0).toNat
    let moves (i : Instr) (cost : Nat) (f : Nat → Word32) : Prop := exec i s = wroteL s c 4 cost d (Lanes.ofFn f)
    let half (v : Word32) (j : Nat) : BitVec 16 := v.extractLsb' (16 * j) 16
    let byte (v : Word32) (j : Nat) : BitVec 8 := v.extractLsb' (8 * j) 8
    let ext16 (v : BitVec 16) : Word32 := if t = 2 then v.signExtend 32 else v.setWidth 32
    let ext8 (v : BitVec 8) : Word32 := if t = 4 then v.signExtend 32 else v.setWidth 32
    let four (v : Lanes) (j : Nat) : Word32 :=
      byte (v.get (4 * j + 3)) 0 ++ byte (v.get (4 * j + 2)) 0 ++ byte (v.get (4 * j + 1)) 0 ++ byte (v.get (4 * j)) 0
    let two (v : Lanes) (j : Nat) : Word32 := half (v.get (2 * j + 1)) 0 ++ half (v.get (2 * j)) 0
    (t ∈ [0, 2, 4, 6, 7, 8] →
      moves (.vsel d a b t 0) 2 (fun j => if z.get j = 0 then y.get j else x.get j)) ∧
    (t ∈ [2, 3, 7, 8] →
      moves (.vpack d a b t 0) 2 (fun j => if j < 4 then two x j else two y (j - 4)) ∧
      moves (.vunpk d a b t 0) 2 (fun j => ext16 (half (x.get (4 * (n % 2) + j / 2)) (j % 2)))) ∧
    (t ∈ [4, 5, 9, 10] →
      moves (.vpack d a b t 0) 2 (fun j => if j < 2 then four x j else if j < 4 then four y (j - 2) else 0) ∧
      moves (.vunpk d a b t 0) 2 (fun j => ext8 (byte (x.get (2 * (n % 4) + j / 4)) (j % 4)))) ∧
    moves (.vperm d a b 0 0) 2 (fun j => if (y.get j).toNat < 8 then x.get (y.get j).toNat else 0) ∧
    moves (.vbcst d a b 0 0) 2 (fun _ => if n < 8 then x.get n else 0) ∧
    moves (.vcat d a b 0 0) 2 (fun j => if j < 4 then x.get j else y.get (j - 4)) ∧
    moves (.vspl d a 0 0) 2 (fun j => if j < 4 then x.get (j + 4) else 0) ∧
    moves (.vidx d 0 0) 1 (fun j => BitVec.ofNat 32 j) ∧
    exec (.vlen d 8 0 0) s
      = wroteL s c 4 1 d (Lanes.ofScalar (BitVec.ofNat 64 ((k.hdr.extractLsb' 49 3).toNat + 1))) ∧
    exec (.vlen d 9 0 0) s = wroteL s c 4 1 d (Lanes.ofScalar (BitVec.ofNat 64 k.len1)) ∧
    (a ≠ 8 → a ≠ 9 → exec (.vlen d a 0 0) s = aborts s c .reservedField 0)

/-- R84, R90: the four 16-bit vector forms are VADD.F32, VMUL.F32, VFMA.F32 and VADD.I32 on t0 to t7 with Q = 0, two bytes long:
they leave the state that the 32-bit form leaves but for the routine offset. -/
def Sys2Proof.Claims.ShortVectorForms : Prop :=
  ∀ (s : State) (c : Nat) (k : Task) (d a b : BitVec 3) (x y z : Lanes),
    CellReady false false 2 s c k →
    lGet s c (0#2 ++ a) = .ok x → lGet s c (0#2 ++ b) = .ok y → lGet s c (0#2 ++ d) = .ok z →
    let vf := (s.cell c).vf
    let rm := vf.extractLsb' 8 2
    let p := floatFmt 6
    let gives (f : Nat → Nat × FlagSet) : Host.Outcome State Fault Refusal :=
      let fl := (f 0).2 ||| (f 1).2 ||| (f 2).2 ||| (f 3).2 ||| (f 4).2 ||| (f 5).2 ||| (f 6).2 ||| (f 7).2
      let s1 := setVf s c fl
      if bit vf 16 = true ∧ bit fl 4 = true then aborts s1 c .fpInvalid 0
      else if bit vf 17 = true ∧ bit fl 2 = true then aborts s1 c .fpOverflow 0
      else wroteL s1 c 2 2 (0#2 ++ d) (Lanes.ofFn (fun j => BitVec.ofNat 32 (f j).1))
    exec (.vaddF32Short d a b) s = gives (fun j => fAdd p rm (x.get j).toNat (y.get j).toNat) ∧
    exec (.vmulF32Short d a b) s = gives (fun j => fMul p rm (x.get j).toNat (y.get j).toNat) ∧
    exec (.vfmaF32Short d a b) s = gives (fun j => fFma p rm (x.get j).toNat (y.get j).toNat (z.get j).toNat) ∧
    exec (.vaddI32Short d a b) s
      = wroteL (setVf s c 0) c 2 2 (0#2 ++ d) (Lanes.ofFn (fun j => x.get j + y.get j))

/-- Vector instructions on float element types, and the 16-bit vector forms: VectorFloatResults and ShortVectorForms of Claims,
together. -/
def Obligations.VectorFloat : Prop := VectorFloatResults ∧ ShortVectorForms

/-- R32, R82, R87, R156, R159, R169: what the operands of a vector instruction must be, here of VADD, and what its flags do. A destination
above t7, a source above hdr and Q with a float type raise RESERVED_FIELD, an unaccepted type FORMAT_UNSUPPORTED, and an
undefined temporary TEMP_UNDEF with its number; each aborts the task. Flags accumulate in vf, and mark the task's tokens. -/
def Sys2Proof.Claims.VectorOperandsAndFlags : Prop :=
  ∀ (s : State) (c : Nat) (k : Task) (d a b : BitVec 5) (q : BitVec 1) (t : BitVec 4) (f : FlagSet),
    CellReady false false 2 s c k →
    let undefined (r : BitVec 5) : Prop := r.toNat ≤ 7 ∧ k.t.toList.getD r.toNat none = none
    let arith := t ∈ [0, 2, 4, 6, 7, 8]
    (8 ≤ d.toNat ∨ 11 ≤ a.toNat ∨ 11 ≤ b.toNat ∨ (q = 1 ∧ (t = 6 ∨ t = 7 ∨ t = 8)) →
      exec (.vadd d a b q t) s = aborts s c .reservedField 0) ∧
    (d.toNat ≤ 7 → a.toNat ≤ 10 → b.toNat ≤ 10 → q = 0 → ¬ arith →
      exec (.vadd d a b q t) s = aborts s c .formatUnsupported 0) ∧
    (d.toNat ≤ 7 → a.toNat ≤ 10 → b.toNat ≤ 10 → q = 0 → arith → undefined a →
      exec (.vadd d a b q t) s = aborts s c .tempUndef (BitVec.ofNat 64 a.toNat)) ∧
    (d.toNat ≤ 7 → a.toNat ≤ 10 → b.toNat ≤ 10 → q = 0 → arith → ¬ undefined a → undefined b →
      exec (.vadd d a b q t) s = aborts s c .tempUndef (BitVec.ofNat 64 b.toNat)) ∧
    ((setVf s c f).cell c).vf = (s.cell c).vf ||| f.setWidth 32 ∧
    ((setVf s c f).cell c).task
      = some { k with tinx := k.tinx || bit f 0, tsat := k.tsat || bit f 6 || bit f 2 }

/-- R153, R154, R157, R159: the retirement of a unit in a cell and the end of its task. The unit and cycle counts rise, and the
offset moves; at the routine's end the task ends, its tokens may leave, and its unused frames return; past it, and beyond
128 units or 512 cycles, the task is aborted with ROUTINE_OVERRUN. An abort drops the task and its unsent tokens and writes
one trap record with the cause, the routine's class and the unit's offset. -/
def Sys2Proof.Claims.CellRetirementAndAbort : Prop :=
  ∀ (s : State) (t len cost : Nat) (target : Option Nat) (q : Task) (c : Cause) (v : Word64),
    (s.cell t).task = some q →
    let pc := match target with
      | some a => a
      | none => q.pc + len / 2
    let u := retireCell s t len cost target
    let r := abortTask s t c v
    let k := tileIsle t
    (pc < q.start + q.size →
      (u.cell t).task = some { q with pc := pc, pfx := none, units := q.units + 1, cycles := q.cycles + cost } ∧
      u.isles = s.isles ∧ (u.cell t).latch = (s.cell t).latch) ∧
    (pc = q.start + q.size → (u.cell t).task = none ∧
      (u.cell t).latch = (s.cell t).latch.map (fun l => { l with out := true })) ∧
    (q.start + q.size < pc → u = abortTask s t .routineOverrun (BitVec.ofNat 64 pc)) ∧
    (∀ d a b ty, s.active = .cell t → q.pfx = none → 128 ≤ q.units →
      exec (.vadd d a b 0 ty) s = aborts s t .routineOverrun 0) ∧
    (r.cell t).task = none ∧ (r.cell t).latch = (s.cell t).latch.filter (·.out) ∧ r.mem = s.mem ∧
    ((s.isle k).ringCount < 64 →
      let x := (r.isle k).ringAt (s.isle k).trTail
      (r.isle k).trTail = ((s.isle k).trTail + 1) % 128 ∧ x.code = causeCode c ∧ x.tval = v ∧ x.agent = 0 ∧
      x.cls = q.cls ∧ x.offset = (if q.pfx = none then q.pc else q.pc - 1) ∧ x.hdr = q.hdr ∧ x.in0 = q.i0 ∧
      x.in1 = q.i1 ∧ x.acted = false)

/-- Vector operand checks and flags, and the retirement, end and abort of a task: VectorOperandsAndFlags and
CellRetirementAndAbort of Claims, together. -/
def Obligations.CellTasks : Prop := VectorOperandsAndFlags ∧ CellRetirementAndAbort

/-! ### Tokens sent by cells and by control cores -/

/-- R60 to R63, R86, R155, R163, R164: every send of a cell. Its entry of the destination table must be valid, the task must have a send
slot left, and the destination must lie in a region that the job declares; then one token enters the output latch, not
yet released, with the kind of the instruction, the destination of the entry, the context of the page, and FRAME and ITER
by the tag mode: KEEP, INC, ADD with the prefix, TMP with the tag scalar of rf, NEW with a frame drawn from the reservation.
A task started by an ERR token sends that token's payload in place of data; data of a reserved TYPE aborts with
FORMAT_UNSUPPORTED (R19). -/
def Obligations.SendInstructions : Prop :=
  ∀ (s : State) (t : Nat) (q : Task) (x r : BitVec 5) (m l : BitVec 3) (o : BitVec 6) (w : Word64) (f : Nat) (v : Lanes)
    (x3 : BitVec 3) (o4 : BitVec 4),
    let e := (s.tile t).dests.get 0 o.toNat
    let e4 := (s.tile t).dests.get 0 o4.toNat
    let job := s.findJob (tileCtx s t) (tileJob s t)
    let cost := (l.toNat + 4) / 4
    let pre := if q.pfx = none then 0 else 1
    let tag (m : Nat) : Nat × Nat :=
      match m with
      | 1 => (hFrame q.hdr, (hIter q.hdr + 1) % 1024)
      | 2 => (hFrame q.hdr, (((hIter q.hdr : Int) +
          (match q.pfx with
            | none => 0
            | some p => p.toInt)) % 1024).toNat)
      | 3 => (w.toNat % 2 ^ 12, w.toNat / 2 ^ 16 % 2 ^ 10)
      | 4 => (f, hIter q.hdr)
      | _ => (hFrame q.hdr, hIter q.hdr)
    let latched (i : Instr) (len cost out m kind : Nat) (ty : BitVec 4) (n : Nat) (bits3 : Bool × Bool × Bool)
        (v : Lanes) : Prop :=
      ∃ u tok, exec i s = .next (retireCell u t len cost none) ∧
        (u.cell t).latch = (s.cell t).latch ++ [⟨tok, false⟩] ∧ tok.lanes = v ∧ u.mem = s.mem ∧
        hKind tok.hdr = kind ∧ hType tok.hdr = ty ∧ hLen tok.hdr = n ∧ bit tok.hdr 63 = false ∧
        (hGap tok.hdr, hSat tok.hdr, hInx tok.hdr) = bits3 ∧ (hFrame tok.hdr, hIter tok.hdr) = tag m ∧
        hDest tok.hdr = ((s.tile t).dests.get 0 out).toNat % 2 ^ 19 ∧ hCtx tok.hdr = tileCtx s t % 256 ∧
        ((u.cell t).task.map (·.sends)) = some (q.sends + 1)
    let control (a b : Word32) : Lanes := ⟨a, b, 0, 0, 0, 0, 0, 0⟩
    let marks := (hGap q.hdr, hSat q.hdr || q.tsat, hInx q.hdr || q.tinx)
    let none3 := (false, false, false)
    let first (n : Nat) : Lanes := Lanes.ofFn (fun j => if j ≤ n then v.get j else 0)
    let ready := bit e 31 = true ∧ q.sends < q.slots ∧ destOk job (e.toNat % 2 ^ 19) = true
    let ready4 := bit e4 31 = true ∧ q.sends < q.slots ∧ destOk job (e4.toNat % 2 ^ 19) = true
    let tags := m.toNat ≤ 4 ∧ (m ≠ 3 → r = 0) ∧ (m = 3 → r.toNat ≤ 10 ∧ sGetL s t r = .ok w) ∧
      (m = 4 → (∃ rest, q.reserved = f :: rest) ∧ f < 4096)
    (CellReady false (m == 2) 2 s t q → x.toNat ≤ 9 → tags →
      (bit e 31 = false → exec (.send x r m l o) s = aborts s t .routeInvalid (BitVec.ofNat 64 o.toNat)) ∧
      (bit e 31 = true → q.slots ≤ q.sends → exec (.send x r m l o) s = aborts s t .routineOverrun 2) ∧
      (bit e 31 = true → q.sends < q.slots → destOk job (e.toNat % 2 ^ 19) = false →
        exec (.send x r m l o) s = aborts s t .routeInvalid 0) ∧
      (ready → lGet s t x = .ok v →
        (q.err = none → 14 ≤ (hType q.hdr).toNat → exec (.send x r m l o) s = aborts s t .formatUnsupported 0) ∧
        (q.err = none → (hType q.hdr).toNat < 14 → latched (.send x r m l o) 4 (cost + pre) o.toNat m.toNat 0 (hType q.hdr) l.toNat marks
          (first l.toNat)) ∧
        (∀ p, q.err = some p → latched (.send x r m l o) 4 (cost + pre) o.toNat m.toNat 5 1 1 none3
          (control (p.extractLsb' 0 32) (p.extractLsb' 32 32))) ∧
        latched (.sendr x r m o 0) 4 (1 + pre) o.toNat m.toNat 2 1 0 none3 (control v.l0 0) ∧
        latched (.sendm x r m o 0) 4 (1 + pre) o.toNat m.toNat 3 1 0 none3 (control (v.l0 &&& 0xFFFF) 0)) ∧
      (ready →
        latched (.sende r m o 0 0) 4 (1 + pre) o.toNat m.toNat 1 1 0 none3 (control 0 0) ∧
        latched (.sendo r m o 0 0) 4 (1 + pre) o.toNat m.toNat 4 1 1 none3
          (control (BitVec.ofNat 32 (s.cell t).pts) (BitVec.ofNat 32 ((s.cell t).pts / 2 ^ 32 % 2 ^ 16))))) ∧
    (CellReady false false 2 s t q → ready4 → lGet s t (0#2 ++ x3) = .ok v → q.err = none → (hType q.hdr).toNat < 14 →
      latched (.sendShort x3 l o4) 2 cost o4.toNat 0 0 (hType q.hdr) l.toNat marks (first l.toNat) ∧
      latched (.sendIncShort x3 l o4) 2 cost o4.toNat 1 0 (hType q.hdr) l.toNat marks (first l.toNat)) ∧
    (CellReady false false 2 s t q → m = 4 → r = 0 → x.toNat ≤ 9 → ready → q.reserved = [] →
      exec (.send x r m l o) s = aborts s t .frameExhausted 0)

/-- R67, R68, R165, R167: headers, tags and frames. HDR writes the field its code names; TAGX packs a tag; FALLOC draws the first
reserved frame, which becomes LIVE and empty, and FFREE returns a LIVE frame of the context to the free list; FSTO stores a
token in an empty pair of slots, with the cell's own tile as its destination, and FLDO takes it out. FSTO of a reserved TYPE
aborts with FORMAT_UNSUPPORTED (R19); the PORT of the stored token is the model's (log entry 67). -/
def Sys2Proof.Claims.FrameInstructions : Prop :=
  ∀ (s : State) (t : Nat) (q : Task) (d a b : BitVec 5) (z n : BitVec 3) (x y : Word64) (v : Lanes) (tok : Token)
    (f : Nat) (rest : List Nat),
    CellReady false false 2 s t q → d.toNat ≤ 7 → a.toNat ≤ 10 → b.toNat ≤ 10 →
    let k := tileIsle t
    let c := tileCtx s t
    let fr := (s.isle k).frames.get Frame.reset (x.toNat % 2 ^ 12)
    let live := fr.st = .live ∧ fr.ctx = c
    let fx := x.toNat % 2 ^ 12
    let slot (g : Frame) (j : Nat) := g.slots.get none j
    let after (u : State) (g : Nat) := (u.isle k).frames.get Frame.reset g
    (sGetL s t a = .ok x → sGetL s t b = .ok y →
      (∀ j : BitVec 5, j.toNat ≤ 10 → exec (.hdr d a j 0) s = wroteL s t 4 1 d (Lanes.ofScalar (BitVec.ofNat 64
        (match j.toNat with
          | 0 => bits x 7 0 | 1 => bits x 13 8 | 2 => bits x 17 14 | 3 => bits x 20 18 | 4 => bits x 26 21
          | 5 => bits x 38 27 | 6 => bits x 48 39 | 7 => bits x 51 49 + 1 | 8 => bits x 55 52 | 9 => bits x 59 56
          | _ => bits x 63 60)))) ∧
      (∀ j : BitVec 5, 11 ≤ j.toNat → exec (.hdr d a j 0) s = aborts s t .reservedField 0) ∧
      exec (.tagx d a b 0) s
        = wroteL s t 4 1 d (Lanes.ofScalar (BitVec.ofNat 64 (y.toNat % 2 ^ 10 * 2 ^ 16 + fx)))) ∧
    (q.reserved = [] → exec (.falloc d 0) s = aborts s t .frameExhausted 0) ∧
    (q.reserved = f :: rest → ∃ u, exec (.falloc d 0) s = .next (retireCell (sSetL u t d (BitVec.ofNat 64 f)) t 4 1 none) ∧
      (after u f).st = .live ∧ (after u f).slots = [] ∧
      (u.cell t).task = some { q with reserved := rest, drawn := q.drawn ++ [f] }) ∧
    (sGetL s t a = .ok x → ¬ live →
      exec (.ffree a 0 0) s = aborts s t .frameInvalid (BitVec.ofNat 64 fx) ∧
      (lGet s t b = .ok v → exec (.fsto n a b z 0 0) s = aborts s t .frameInvalid (BitVec.ofNat 64 fx)) ∧
      exec (.fldo d a z 0) s = aborts s t .frameInvalid (BitVec.ofNat 64 fx)) ∧
    (sGetL s t a = .ok x → live → ∃ u, exec (.ffree a 0 0) s = .next (retireCell u t 4 1 none) ∧
      (after u fx).st = .free ∧ (u.isle k).freeList = (s.isle k).freeList ++ [fx] ∧
      ∀ g, g ≠ fx → after u g = (s.isle k).frames.get Frame.reset g) ∧
    (sGetL s t a = .ok x → lGet s t b = .ok v → live →
      (slot fr z.toNat ≠ none ∨ slot fr (z.toNat ^^^ 1) ≠ none →
        exec (.fsto n a b z 0 0) s = aborts s t .slotCollision 0) ∧
      (slot fr z.toNat = none → slot fr (z.toNat ^^^ 1) = none → 14 ≤ (hType q.hdr).toNat →
        exec (.fsto n a b z 0 0) s = aborts s t .formatUnsupported 0) ∧
      (slot fr z.toNat = none → slot fr (z.toNat ^^^ 1) = none → (hType q.hdr).toNat < 14 →
        ∃ u w, exec (.fsto n a b z 0 0) s = .next (retireCell u t 4 2 none) ∧ slot (after u fx) z.toNat = some w ∧
          w.lanes = Lanes.ofFn (fun j => if j ≤ n.toNat then v.get j else 0) ∧ hKind w.hdr = 0 ∧ hFrame w.hdr = fx ∧
          hCtx w.hdr = c % 256 ∧ hDest w.hdr = ownDest s t % 2 ^ 19 ∧
          hIter w.hdr = x.toNat / 2 ^ 16 % 2 ^ 10 ∧ hLen w.hdr = n.toNat ∧ hType w.hdr = hType q.hdr ∧
          (∀ j, j ≠ z.toNat → slot (after u fx) j = slot fr j))) ∧
    (sGetL s t a = .ok x → live →
      (slot fr z.toNat = none → exec (.fldo d a z 0) s = aborts s t .frameInvalid (BitVec.ofNat 64 fx)) ∧
      (slot fr z.toNat = some tok → ∃ u, exec (.fldo d a z 0) s = .next (retireCell (lSet u t d
          (Lanes.ofFn (fun j => if j ≤ hLen tok.hdr then tok.lanes.get j else 0))) t 4 2 none) ∧
        slot (after u fx) z.toNat = none ∧ ∀ j, j ≠ z.toNat → slot (after u fx) j = slot fr j))

/-- R168: INJ. A header with a reserved kind or bit 63 set, an ERR, or a control token whose length is not its kind's raises
RESERVED_FIELD with the header; a destination that no job of the context declares raises ROUTE_INVALID; a DATA token takes its
lanes from the scratchpad at rb, an ORD token the core's time. Once the port has credit, the token leaves the isle's injection
port in the loaded context, a control token with TYPE N32; until then INJ waits at its own address with nothing sent. Which
steps find the port without credit is the model's choice (log entry 8). -/
def Sys2Proof.Claims.Injection : Prop :=
  ∀ (s : State) (k : Nat) (a b : BitVec 5), CoreReady .user false s k →
    let h := gGet s k a
    let p := gGet s k b
    let c := (s.isle k).ctx
    let kind := hKind h
    let n := 4 * (hLen h + 1)
    let fixed := if kind = 4 ∨ kind = 6 then 1 else 0
    let shape := bit h 63 = false ∧ kind ≤ 6 ∧ kind ≠ 5 ∧ (kind = 0 ∨ hLen h = fixed)
    let typed := kind = 0 → (hType h).toNat < 14
    let routed := destOk (declaringJob s c (hVreg h)) (hDest h) = true
    let lane (j : Nat) : Word32 :=
      if j ≤ hLen h then BitVec.ofNat 32 (numOf ((s.isle k).spmRead (p.toNat + 4 * j) 4)) else 0
    let lanes := Lanes.ofFn lane
    let hdr := if kind = 0 then putBits h 7 0 c else putBits (putBits h 7 0 c) 55 52 1
    let sent (v : Lanes) : Host.Outcome State Fault Refusal :=
      if .inject k ∈ s.stuck then .next (holdCore s k .reissue)
      else .next (retireCore { s with flights := s.flights ++ [flightOf s (.inject k) (k / 16) none ⟨hdr, v⟩] } k 4 none)
    (¬ shape → exec (.inj a b 0 0) s = traps s k .reservedField h) ∧
    (shape → ¬ typed → exec (.inj a b 0 0) s = traps s k .formatUnsupported 0) ∧
    (shape → typed → ¬ routed → exec (.inj a b 0 0) s = traps s k .routeInvalid h) ∧
    (shape → typed → routed → kind = 4 → exec (.inj a b 0 0) s
      = sent ⟨BitVec.ofNat 32 (s.core k).pts, BitVec.ofNat 32 ((s.core k).pts / 2 ^ 32 % 2 ^ 16), 0, 0, 0, 0, 0, 0⟩) ∧
    (shape → typed → routed → kind ≠ 4 →
      (p.toNat % 4 ≠ 0 → exec (.inj a b 0 0) s = traps s k .misalignData p) ∧
      (∀ x v, p.toNat % 4 = 0 → spmFault (s.isle k) c p n false true = some (x, v) →
        exec (.inj a b 0 0) s = traps s k x v) ∧
      (p.toNat % 4 = 0 → spmFault (s.isle k) c p n false true = none →
        exec (.inj a b 0 0) s
          = if tokenReserved ⟨hdr, lanes⟩ then traps s k .reservedField 0 else sent lanes))

/-- Frame instructions of a cell, and INJ on a control core: FrameInstructions and Injection of Claims, together. -/
def Obligations.FramesAndInjection : Prop := FrameInstructions ∧ Injection

/-! ### Scale registers -/

/-- R87, R91, R257, R262, R265, R266: the scale instructions that make words of words, or of one value, of either class: SADD,
SMAX and SMIN with k from the prefix or else the signed scalar ra, SNORM, SCPY, SGEN and SZERO. They read through the name sa,
write the register that the name sd has or receives, keep a NaN block's word, clamp E to 0 to 254, and in a cell set SAT in
vf where a word clamps. An empty name raises SCALE_UNBOUND and a name that can have no register QUOTA. -/
def Sys2Proof.Claims.ScaleArithmetic : Prop :=
  ∀ (s s1 : State) (x : Runner) (d a : BitVec 8) (ra : BitVec 5) (v : Word64) (src r : Nat),
    BothReady true 8 s x → readable x ra →
    let k := runnerIsle x
    let c := ctxOf s x
    let e (w : BitVec 16) : Nat := w.toNat / 256
    let old (w : Nat) : BitVec 16 := ((s.isle k).scale src).word w
    let kk : Int := match payload s x with
      | none => v.toInt
      | some p => p.toInt
    let new (z : Int) (qs : Nat) : BitVec 16 := BitVec.ofNat 16 (256 * (max 0 (min 254 z)).toNat + qs)
    let shift (f : Int → Int) (w : BitVec 16) : BitVec 16 := if e w = 255 then w else new (f (e w)) (w.toNat % 256)
    let quad (w : BitVec 16) (j : Nat) : Nat := w.toNat / 4 ^ j % 4
    let least (w : BitVec 16) : Nat := min (e w) (min (min (quad w 0) (quad w 1)) (min (quad w 2) (quad w 3)))
    let norm (w : BitVec 16) : BitVec 16 :=
      if e w = 255 then w
      else BitVec.ofNat 16 (256 * (e w - least w) + (quad w 0 - least w) + 4 * (quad w 1 - least w)
        + 16 * (quad w 2 - least w) + 64 * (quad w 3 - least w))
    let fills (i : Instr) (sat : Bool) (f : Nat → BitVec 16) : Prop :=
      ∃ u, exec i s = retires s x u 4 8 ∧ (∀ w, w < 256 → ((u.isle k).scale r).word w = f w) ∧
        (∀ r', r' ≠ r → (u.isle k).scale r' = (s1.isle k).scale r') ∧ (u.isle k).scaleMap = (s1.isle k).scaleMap ∧
        u.mem = s.mem ∧
        match x with
        | .core j => u.core j = s.core j
        | .cell t => (u.cell t).vf = if sat then (s.cell t).vf ||| 64 else (s.cell t).vf
    let clamps (f : Int → Int) : Bool := (List.range 256).any (fun w =>
      e (old w) ≠ 255 && (decide (f (e (old w)) < 0) || decide (254 < f (e (old w)))))
    ((payload s x = none → sGet s x ra = .ok v) → (payload s x ≠ none → ra = 0) →
      ((s.isle k).scaleName c a.toNat = none →
        exec (.sadd d a ra) s = stops s x .scaleUnbound (BitVec.ofNat 64 a.toNat)) ∧
      ((s.isle k).scaleName c a.toNat = some src → scaleAlloc s k c d.toNat = none →
        exec (.sadd d a ra) s = stops s x .quota (BitVec.ofNat 64 d.toNat)) ∧
      ((s.isle k).scaleName c a.toNat = some src → scaleAlloc s k c d.toNat = some (r, s1) →
        fills (.sadd d a ra) (clamps (fun z => z + kk)) (fun w => shift (fun z => z + kk) (old w)) ∧
        fills (.smax d a ra) (clamps (fun z => max z kk)) (fun w => shift (fun z => max z kk) (old w)) ∧
        fills (.smin d a ra) (clamps (fun z => min z kk)) (fun w => shift (fun z => min z kk) (old w)))) ∧
    ((payload s x = none ∨ payload s x = some 0) → scaleAlloc s k c d.toNat = some (r, s1) →
      ((s.isle k).scaleName c a.toNat = some src →
        fills (.snorm d a 0) false (fun w => norm (old w)) ∧ fills (.scpy d a 0) false old) ∧
      (sGet s x ra = .ok v → fills (.sgen d ra 0) false (fun _ => v.extractLsb' 0 16)) ∧
      fills (.szero d 0) false (fun _ => 0)) ∧
    (∀ p, payload s x = some p → p ≠ 0 → exec (.szero d 0) s = stops s x .reservedField 0)

/-- R256, R257: a name that has a register keeps it; otherwise it receives the lowest FREE register of the isle, NAMED, of the
context and with generation 0, provided the context holds fewer than its quota. -/
def Sys2Proof.Claims.ScaleRegisterAllocation : Prop :=
  ∀ (s : State) (k c n : Nat), c < 256 → n < 256 →
    let i := s.isle k
    let held := ((List.range 256).filter (fun r => (i.scale r).st != .free && (i.scale r).ctx == c)).length
    (∀ r, i.scaleName c n = some r → scaleAlloc s k c n = some (r, s)) ∧
    (i.scaleName c n = none → (∀ r, r < 256 → (i.scale r).st ≠ .free) → scaleAlloc s k c n = none) ∧
    (i.scaleName c n = none → quotaSreg s c ≤ held → scaleAlloc s k c n = none) ∧
    (∀ r, i.scaleName c n = none → held < quotaSreg s c → r < 256 → (i.scale r).st = .free →
      (∀ j, j < r → (i.scale j).st ≠ .free) →
      ∃ u, scaleAlloc s k c n = some (r, u) ∧ (u.isle k).scaleName c n = some r ∧
        ((u.isle k).scale r).st = .named ∧ ((u.isle k).scale r).ctx = c ∧ ((u.isle k).scale r).gen = 0 ∧
        (∀ j, j ≠ r → (u.isle k).scale j = i.scale j) ∧
        ∀ c' n', c' < 256 → n' < 256 → (c', n') ≠ (c, n) → (u.isle k).scaleName c' n' = i.scaleName c' n')

/-- Scale arithmetic, and allocation and release of scale registers: ScaleArithmetic and ScaleRegisterAllocation of Claims,
together. -/
def Obligations.ScaleRegisters : Prop := ScaleArithmetic ∧ ScaleRegisterAllocation

/-- R195, R258, R262 to R265: SLD reads 512 bytes of scratchpad into the register, raises its generation and, with STAMP, stamps the
data buffer's header with the new tag; SST writes them there, SBIND stamps a header with the register's tag, SUNB empties a name,
and SMULV adds a signed byte per row of four words. The bytes must lie in SCRATCH banks of the context, aligned, owned by the core. -/
def Obligations.ScaleLoadsStoresAndTags : Prop :=
  ∀ (s s1 : State) (x : Runner) (d a : BitVec 8) (ra : BitVec 5) (v : Word64) (src r : Nat),
    BothReady true 12 s x → readable x ra → (payload s x = none ∨ payload s x = some 0) → sGet s x ra = .ok v →
    let k := runnerIsle x
    let c := ctxOf s x
    let i := s.isle k
    let p := v.toNat
    let old (w : Nat) : BitVec 16 := (i.scale src).word w
    let byte (y : Nat) : Nat := (i.spm.get 0 y).toNat
    let half (y : Nat) : BitVec 16 := BitVec.ofNat 16 (byte y + 256 * byte (y + 1))
    let sbyte (y : Nat) : Int := if byte y < 128 then (byte y : Int) else (byte y : Int) - 256
    let row (w : Nat) : BitVec 16 :=
      let e := (old w).toNat / 256
      if e = 255 then old w
      else BitVec.ofNat 16 (256 * (max 0 (min 254 ((e : Int) + sbyte (p + w / 4)))).toNat + (old w).toNat % 256)
    (p < 2 ^ 25 → scaleSpm s x v 512 64 false none = .ok () → scaleAlloc s k c d.toNat = some (r, s1) →
      ∃ u, exec (.sld d ra 0) s = retires s x u 4 12 ∧
        (∀ w, w < 256 → ((u.isle k).scale r).word w = half (p + 2 * w)) ∧
        ((u.isle k).scale r).gen = (((s1.isle k).scale r).gen + 1) % 16 ∧ u.mem = s.mem) ∧
    (let spot := BitVec.ofNat 64 (p % 2 ^ 25)
     let h := p / 2 ^ 32 % 2 ^ 25
     p / 2 ^ 57 = 1 → p / 2 ^ 25 % 2 ^ 7 = 0 → scaleSpm s x spot 512 64 false (some h) = .ok () →
      scaleAlloc s k c d.toNat = some (r, s1) →
      ∃ u, exec (.sld d ra 0) s = retires s x u 4 12 ∧
        (∀ w, w < 256 → ((u.isle k).scale r).word w = half (p % 2 ^ 25 + 2 * w)) ∧
        ((u.isle k).scale r).gen = (((s1.isle k).scale r).gen + 1) % 16 ∧ fieldOf ((u.isle k).header h) 35 35 = 1 ∧
        fieldOf ((u.isle k).header h) 47 36 = (16 * r + ((u.isle k).scale r).gen) % 2 ^ 12 ∧
        1 ≤ ((u.isle k).scale r).live) ∧
    (p < 2 ^ 25 → p % 64 ≠ 0 → exec (.sld d ra 0) s = stops s x .misalignData v) ∧
    (i.scaleName c d.toNat = none → p < 2 ^ 25 →
      exec (.sst d ra 0) s = stops s x .scaleUnbound (BitVec.ofNat 64 d.toNat) ∧
      exec (.sbind d ra 0) s = stops s x .scaleUnbound (BitVec.ofNat 64 d.toNat)) ∧
    (i.scaleName c d.toNat = some src → p < 2 ^ 25 → scaleSpm s x v 512 64 true none = .ok () →
      ∃ u, exec (.sst d ra 0) s = retires s x u 4 12 ∧ u.mem = s.mem ∧
        (∀ w, w < 256 → (u.isle k).spm.get 0 (p + 2 * w) = (old w).extractLsb' 0 8 ∧
          (u.isle k).spm.get 0 (p + 2 * w + 1) = (old w).extractLsb' 8 8) ∧
        ∀ y, y < p ∨ p + 512 ≤ y → (u.isle k).spm.get 0 y = i.spm.get 0 y) ∧
    (i.scaleName c d.toNat = some src → p < 2 ^ 25 → scaleSpm s x 0 0 1 false (some p) = .ok () →
      fieldOf (i.header p) 35 35 = 0 →
      ∃ u, exec (.sbind d ra 0) s = retires s x u 4 4 ∧ fieldOf ((u.isle k).header p) 35 35 = 1 ∧
        fieldOf ((u.isle k).header p) 47 36 = (16 * src + (i.scale src).gen) % 2 ^ 12 ∧
        ((u.isle k).scale src).live = (i.scale src).live + 1) ∧
    (c < 256 → ∃ u, exec (.sunb d 0) s = retires s x u 4 4 ∧ (u.isle k).scaleName c d.toNat = none ∧
      (i.scaleName c d.toNat = some src →
        ((u.isle k).scale src).st = if (i.scale src).live = 0 then .free else .orphan)) ∧
    (i.scaleName c a.toNat = some src → scaleSpm s x v 64 1 false none = .ok () → scaleAlloc s k c d.toNat = some (r, s1) →
      ∃ u, exec (.smulv d a ra) s = retires s x u 4 10 ∧ ∀ w, w < 256 → ((u.isle k).scale r).word w = row w)

/-! ### The tile fetch unit and the matrix engine -/

/-- R268 to R272: TFETCH in a cell takes the lowest FREE slot of the fetch unit, records its arguments there and answers the
handle, 0 where no slot is FREE; on a core it accepts a prefetch. TREL releases a READY slot that no queued step names and marks
any other as RELEASING. A fetch whose turn it is (R210) and whose port has credit completes and leaves a READY slot with 64
rows, and one that reloads a restored slot (R285) leaves it in its state and sends no token; one that faults leaves a FAULTED
slot and a record of the tile fetch unit. -/
def Sys2Proof.Claims.MatrixFetches : Prop :=
  ∀ (s : State) (t : Nat) (q : Task) (d a b : BitVec 5) (n : BitVec 8) (x w : Word64),
    let pre := if q.pfx = none then 0 else 1
    let slot (u : State) (j : Nat) := (u.tile t).slot j
    let job := s.findJob (tileCtx s t) (tileJob s t)
    let clean := bits w 31 10 = 0 ∧ (bit w 51 = false → bits w 50 32 = 0) ∧ (bit w 9 = false → bits w 7 0 = 0)
    let routed := bit w 51 = true → destOk job (bits w 50 32) = true
    (CellReady true true 2 s t q → (q.pfx.getD 0 ≠ 0) → d.toNat ≤ 7 → a.toNat ≤ 10 → b.toNat ≤ 10 →
      exec (.tfetch d a b n) s = aborts s t .reservedField 0 ∧ exec (.trel a 0 0) s = aborts s t .reservedField 0) ∧
    (CellReady true true 2 s t q → q.pfx.getD 0 = 0 → d.toNat ≤ 7 → a.toNat ≤ 10 → b.toNat ≤ 10 →
      sGetL s t a = .ok x → sGetL s t b = .ok w →
      (¬ clean → exec (.tfetch d a b n) s = aborts s t .reservedField 0) ∧
      (clean → ¬ routed → exec (.tfetch d a b n) s = aborts s t .routeInvalid 0) ∧
      (clean → routed → (∀ j, j < 8 → (slot s j).st ≠ .free) →
        exec (.tfetch d a b n) s = .next (retireCell (sSetL s t d 0) t 4 (2 + pre) none)) ∧
      (∀ j, clean → routed → bit w 9 = false → j < 8 → (slot s j).st = .free → (∀ i, i < j → (slot s i).st ≠ .free) →
        ∃ u, exec (.tfetch d a b n) s
            = .next (retireCell (sSetL u t d (BitVec.ofNat 64 (j + 1))) t 4 (2 + pre) none) ∧
          (slot u j).st = .fetching ∧ (slot u j).tid = n.toNat ∧ (slot u j).coord = x ∧ (slot u j).keep = bit w 8 ∧
          (slot u j).data = [] ∧ (slot u j).tok = bit w 51 ∧ (slot u j).frame = bits w 63 52 ∧
          (∀ i, i ≠ j → slot u i = slot s i) ∧ u.mem = s.mem) ∧
      (∀ j r s1, clean → routed → bit w 9 = true → j < 8 → (slot s j).st = .free →
        (∀ i, i < j → (slot s i).st ≠ .free) →
        scaleAlloc s (tileIsle t) (tileCtx s t) (bits w 7 0) = some (r, s1) →
        ∃ u, exec (.tfetch d a b n) s
            = .next (retireCell (sSetL u t d (BitVec.ofNat 64 (j + 1))) t 4 (2 + pre) none) ∧
          (slot u j).st = .fetching ∧ (slot u j).scl = some (bits w 7 0) ∧
          (slot u j).tag = some (r, (((s1.isle (tileIsle t)).scale r).gen + 1) % 16) ∧ u.mem = s.mem) ∧
      (clean → routed → bit w 9 = true → (∃ j, j < 8 ∧ (slot s j).st = .free) →
        scaleAlloc s (tileIsle t) (tileCtx s t) (bits w 7 0) = none →
        exec (.tfetch d a b n) s = aborts s t .quota (BitVec.ofNat 64 (bits w 7 0)))) ∧
    (CellReady true true 1 s t q → q.pfx.getD 0 = 0 → a.toNat ≤ 10 → sGetL s t a = .ok x →
      let j := x.toNat - 1
      (x.toNat = 0 ∨ 8 < x.toNat → exec (.trel a 0 0) s = aborts s t .reservedField 0) ∧
      (1 ≤ x.toNat → x.toNat ≤ 8 → ∃ u, exec (.trel a 0 0) s = .next (retireCell u t 4 (1 + pre) none) ∧
        u.mem = s.mem ∧ (∀ i, i ≠ j → slot u i = slot s i) ∧
        ((slot s j).st = .fetching → (slot u j).st = .releasing) ∧
        ((slot s j).st = .ready → (slot s j).queued = 0 → slot u j = Slot.reset) ∧
        ((slot s j).st = .ready → (slot s j).queued ≠ 0 → (slot u j).st = .releasing) ∧
        ((slot s j).st = .free ∨ (slot s j).st = .consumed ∨ (slot s j).st = .releasing ∨ (slot s j).st = .faulted →
          slot u j = slot s j))) ∧
    (∀ h v l s1, fetchLive s t = true → 1 ≤ h → h ≤ 8 → slotPending (slot s (h - 1)) = true →
      fetchTurn (s.tile t) (h - 1) = true → PortId.fetch t ∉ s.stuck → runFetch s t (h - 1) = ((v, l, s1), none) →
      exec (.fetchFault t h) s = .next s ∧
      ∃ u, exec (.fetchComplete t h) s = .next u ∧
        ((slot s (h - 1)).st = .fetching → (slot s (h - 1)).reload = none → (slot u (h - 1)).st = .ready ∧
          (v.tok = true → u.flights.length = s1.flights.length + 2)) ∧
        (∀ st, (slot s (h - 1)).st = st → (st = .ready ∨ st = .consumed) → (slot s (h - 1)).reload = some st →
          (slot u (h - 1)).st = st ∧ (slot u (h - 1)).reload = none ∧ u.flights = s1.flights) ∧
        ((slot s (h - 1)).st ≠ .releasing → (slot s (h - 1)).data.length ≤ 64 → (slot u (h - 1)).data.length = 64) ∧
        ((slot s (h - 1)).st = .releasing → (slot s (h - 1)).queued = 0 → slot u (h - 1) = Slot.reset) ∧
        ∀ i, i ≠ h - 1 → slot u i = slot s1 i) ∧
    (∀ h v l s1 c y, fetchLive s t = true → 1 ≤ h → h ≤ 8 → (slot s (h - 1)).st ≠ .releasing →
      slotPending (slot s (h - 1)) = true → fetchTurn (s.tile t) (h - 1) = true →
        runFetch s t (h - 1) = ((v, l, s1), some (c, y)) → c ≠ .remoteFenced →
      exec (.fetchComplete t h) s = .next s ∧
      ∃ u r, exec (.fetchFault t h) s = .next u ∧ (slot u (h - 1)).st = .faulted ∧ reported u (tileIsle t) r ∧
        r.agent = 4 ∧ r.code = causeCode c ∧ r.tval = y ∧ r.opid = h ∧ r.pos = v.data.length ∧ u.mem = s1.mem)

/-- R268, R271: TFETCH on a core reads the descriptor of its operand, accepts a prefetch while fewer than eight wait, waits
otherwise, and answers bit 12 with the tag that step 3 of R269 makes; a prefetch that completes leaves the list, and one that
faults stays with a record of the copy engine (the agent is the model's reading: R242, R425). Its accesses wait for their turn
in the engine's order (R210), and its ready token for credit. -/
def Sys2Proof.Claims.CorePrefetches : Prop :=
  ∀ (s : State) (k : Nat) (d a b : BitVec 5) (n : BitVec 8),
    let w := gGet s k b
    let c := (s.isle k).ctx
    let co := gGet s k a
    let clean := bits w 31 10 = 0 ∧ bit w 8 = false ∧ (bit w 51 = false → bits w 50 32 = 0) ∧
      (bit w 9 = false → bits w 7 0 = 0)
    let routed := bit w 51 = true → destOk (declaringJob s c (bits w 37 32)) (bits w 50 32) = true
    (CoreReady .user true s k → (s.core k).pfx.getD 0 ≠ 0 → exec (.tfetch d a b n) s = traps s k .reservedField 0) ∧
    (CoreReady .user true s k → (s.core k).pfx.getD 0 = 0 →
      (¬ clean → exec (.tfetch d a b n) s = traps s k .reservedField 0) ∧
      (∀ e y, clean → readDesc s (engReq s (.core k) .copy c) n.toNat matrixFmt = .error (e, y) →
        exec (.tfetch d a b n) s = traps s k e y) ∧
      (∀ ds s1, clean → readDesc s (engReq s (.core k) .copy c) n.toNat matrixFmt = .ok (ds, s1) →
        (ds.spm = true → exec (.tfetch d a b n) s = traps s k .descInvalid 0) ∧
        (ds.spm = false → bit w 9 = true → fmtIsBlock ds.fmt = false →
          exec (.tfetch d a b n) s = traps s k .scaleShape 0) ∧
        (ds.spm = false → fmtIsBlock ds.fmt = true → bits co 3 0 ≠ 0 → exec (.tfetch d a b n) s = traps s k .descInvalid co) ∧
        (ds.spm = false → (bit w 9 = true → fmtIsBlock ds.fmt = true) → (fmtIsBlock ds.fmt = true → bits co 3 0 = 0) →
          (¬ routed → exec (.tfetch d a b n) s = traps s k .routeInvalid 0) ∧
          (routed → 8 ≤ (s.isle k).prefetches.length → exec (.tfetch d a b n) s = .next (holdCore s k .reissue)) ∧
          (routed → (s.isle k).prefetches.length < 8 → bit w 9 = false →
            ∃ u p, exec (.tfetch d a b n) s = .next (retireCore (gSet u k d 0x1000) k 4 none) ∧
              (u.isle k).prefetches = (s1.isle k).prefetches ++ [p] ∧ p.ctx = c ∧ p.desc = ds ∧ p.coord = co ∧
              p.tag = none ∧ p.tok = bit w 51 ∧ p.tdest = bits w 50 32 ∧ p.frame = bits w 63 52 ∧ u.mem = s1.mem) ∧
          (routed → (s.isle k).prefetches.length < 8 → bit w 9 = true → scaleAlloc s1 k c (bits w 7 0) = none →
            exec (.tfetch d a b n) s = traps s k .quota (BitVec.ofNat 64 (bits w 7 0))) ∧
          (∀ r s2, routed → (s.isle k).prefetches.length < 8 → bit w 9 = true → scaleAlloc s1 k c (bits w 7 0) = some (r, s2) →
            ∃ u, exec (.tfetch d a b n) s = .next (retireCore (gSet u k d
                (BitVec.ofNat 64 (4096 + 16 * r + (((s2.isle k).scale r).gen + 1) % 16))) k 4 none) ∧
              ((u.isle k).scale r).gen = (((s2.isle k).scale r).gen + 1) % 16)))) ∧
    (∀ i p l s1, (s.isle k).prefetches[i]? = some p → p.record = none → s.present (isleDie k) = true →
      (s.die (isleDie k)).fenced = false → prefetchTurn s k p = true → PortId.engine k ∉ s.stuck →
      (prefetchRun s k p = ((l, s1), none) → ∃ u, exec (.prefetchComplete k i) s = .next u ∧
        (u.isle k).prefetches = dropAt (s1.isle k).prefetches i ∧ u.mem = s1.mem ∧
        (p.tok = false → u.flights = s1.flights) ∧ (p.tok = true → u.flights.length = s1.flights.length + 2)) ∧
      (∀ e y, prefetchRun s k p = ((l, s1), some (e, y)) → e ≠ .remoteFenced →
        ∃ u r, exec (.prefetchComplete k i) s = .next u ∧ reported u k r ∧ r.agent = 3 ∧ r.code = causeCode e ∧ r.tval = y ∧
          r.opid = p.id))

/-- TFETCH and TREL in a tile, and TFETCH prefetches of a core: MatrixFetches and CorePrefetches of Claims, together. -/
def Obligations.TileFetches : Prop := MatrixFetches ∧ CorePrefetches

/-- R273, R274, R279 to R282: the commands of the matrix engine. At most four may be issued in one task; each joins the
engine's queue in order. MMA and MMAI need two READY slots, a format pair of R44 that is also the accumulator's, and current
tags; they move the slots to CONSUMED, or keep READY where KEEP is set. MRD reads eight elements. -/
def Sys2Proof.Claims.MatrixCommands : Prop :=
  ∀ (s : State) (t : Nat) (q : Task) (d a b c : BitVec 5) (x y z : Word64),
    CellReady true false 3 s t q → d.toNat ≤ 7 → a.toNat ≤ 10 → b.toNat ≤ 10 → c.toNat ≤ 10 →
    sGetL s t a = .ok x → sGetL s t b = .ok y → sGetL s t c = .ok z →
    let queue (u : State) := (u.tile t).eng.queue
    let slot (u : State) (j : Nat) := (u.tile t).slot j
    let va := slot s (x.toNat - 1)
    let vb := slot s (y.toNat - 1)
    let handle (x : Word64) := 1 ≤ x.toNat ∧ x.toNat ≤ 8
    let pair := (issueView s t z.toNat).pair
    let fits := pair = none ∨ pair = some (va.fmt, vb.fmt)
    let counted (u : State) := ((u.cell t).task.map (·.engCmds)) = some (q.engCmds + 1)
    let issued (i : Instr) (cost : Nat) (e : EngCmd) : Prop :=
      ∃ u, exec i s = .next (retireCell u t 4 cost none) ∧ queue u = queue s ++ [e] ∧ counted u ∧ u.mem = s.mem ∧
        (u.tile t).slots = (s.tile t).slots
    let stepped (i : Instr) (int : Bool) : Prop :=
      ∃ u sa sb, exec i s = .next (retireCell u t 4 2 none) ∧ counted u ∧ u.mem = s.mem ∧
        queue u = queue s ++ [.step z.toNat (x.toNat - 1) (y.toNat - 1) int sa sb] ∧
        (x ≠ y → slot u (x.toNat - 1) = { va with st := if va.keep then .ready else .consumed, queued := va.queued + 1 } ∧
          slot u (y.toNat - 1) = { vb with st := if vb.keep then .ready else .consumed, queued := vb.queued + 1 }) ∧
        (x = y → slot u (x.toNat - 1)
          = { va with st := if va.keep then .ready else .consumed, queued := va.queued + 1 }) ∧
        ∀ j, j ≠ x.toNat - 1 → j ≠ y.toNat - 1 → slot u j = slot s j
    (4 ≤ q.engCmds →
      exec (.mma a b c 0) s = aborts s t .routineOverrun 3 ∧ exec (.mmai a b c 0) s = aborts s t .routineOverrun 3 ∧
      exec (.macc a b 0 0) s = aborts s t .routineOverrun 3 ∧ exec (.mzero a 0 0) s = aborts s t .routineOverrun 3 ∧
      exec (.meor a b 0 0) s = aborts s t .routineOverrun 3) ∧
    (q.engCmds < 4 → ¬ (handle x ∧ handle y ∧ z.toNat ≤ 1) →
      exec (.mma a b c 0) s = aborts s t .reservedField 0 ∧ exec (.mmai a b c 0) s = aborts s t .reservedField 0) ∧
    (q.engCmds < 4 → handle x → handle y → z.toNat ≤ 1 →
      (va.st ≠ .ready → exec (.mma a b c 0) s = aborts s t .descInvalid x ∧
        exec (.mmai a b c 0) s = aborts s t .descInvalid x) ∧
      (va.st = .ready → vb.st ≠ .ready → exec (.mma a b c 0) s = aborts s t .descInvalid y ∧
        exec (.mmai a b c 0) s = aborts s t .descInvalid y) ∧
      (va.st = .ready → vb.st = .ready →
        (va.fmt = vb.fmt → (va.fmt = 2 ∨ va.fmt = 4) → fits → stepped (.mmai a b c 0) true) ∧
        ((va.fmt = vb.fmt ∧ fmtIsFloat va.fmt = true ∨ va.fmt = 9 ∧ vb.fmt = 10 ∨ va.fmt = 10 ∧ vb.fmt = 9) → fits →
          stepped (.mma a b c 0) false) ∧
        (va.fmt = vb.fmt → fmtIsBlock va.fmt = true → fits →
          tagCurrent (s.isle (tileIsle t)) (tileCtx s t) va.tag = true →
          tagCurrent (s.isle (tileIsle t)) (tileCtx s t) vb.tag = true → stepped (.mma a b c 0) false) ∧
        (fmtIsInt va.fmt = true → exec (.mma a b c 0) s = aborts s t .formatUnsupported (Config.pairTval va.fmt vb.fmt)) ∧
        (va.fmt ≠ 2 → va.fmt ≠ 4 → exec (.mmai a b c 0) s
          = aborts s t .formatUnsupported (Config.pairTval va.fmt vb.fmt)))) ∧
    (q.engCmds < 4 →
      (x.toNat ≤ 1 → 1 ≤ bits y 6 0 → bits y 6 0 ≤ 64 → bit y 7 = false → bits y 9 8 ≠ 3 → bits y 63 10 = 0 →
        issued (.macc a b 0 0) 1 (.macc x.toNat (bits y 6 0) (y.extractLsb' 8 2))) ∧
      (1 < x.toNat → exec (.macc a b 0 0) s = aborts s t .reservedField 0 ∧
        exec (.mzero a 0 0) s = aborts s t .reservedField 0 ∧ exec (.meor a b 0 0) s = aborts s t .reservedField 0) ∧
      (x.toNat ≤ 1 → issued (.mzero a 0 0) 1 (.mzero x.toNat)) ∧
      (x.toNat ≤ 1 → y.toNat < 2 ^ 32 → issued (.meor a b 0 0) 1 (.meor x.toNat y.toNat))) ∧
    (let acc := (s.tile t).eng.acc x.toNat
     let e := y.toNat
     let ov := acc.ovf && bit (s.cell t).vf 18
     let lane (j : Nat) : Word32 :=
       if acc.absorb.isSome then 0x7FC00000
       else match acc.mode with
         | .empty => 0
         | .float => (acc.val (e + j)).extractLsb' 0 32
         | .int => BitVec.ofInt 32 (max (-2147483648) (min 2147483647 (acc.val (e + j)).toInt))
     (1 < x.toNat ∨ 4096 ≤ e ∨ e % 8 ≠ 0 → exec (.mrd d a b 0) s = aborts s t .reservedField 0) ∧
     (x.toNat ≤ 1 → e < 4096 → e % 8 = 0 →
       (ov = true → exec (.mrd d a b 0) s = aborts (setVf s t flagACC) t .accOverflow 0) ∧
       (ov = false → ∃ u, exec (.mrd d a b 0) s = .next (retireCell (lSet u t d (Lanes.ofFn lane)) t 4 3 none) ∧
         (u.tile t).eng = (s.tile t).eng ∧ u.mem = s.mem)))

/-- R45 to R48, R273, R275 to R277, R281: the engine. A queued step with both tiles there retires, counts in its accumulator, and
gives it four blocks, in windows of L blocks, unless a NaN, infinity or NaN block makes it absorbing; a whole window is
accumulated, one INT block adding its exact dot product saturated to 64 bits; MACC, MZERO and MEOR act in queue order. On a
frozen tile the open windows close with the last command (R283). -/
def Sys2Proof.Claims.MatrixEngine : Prop :=
  ∀ (s : State) (t : Nat) (rest : List EngCmd), engineLive s t = true → (∀ o, PortId.op t slotREDUCE o ∉ s.stuck) →
    let queue (u : State) := (u.tile t).eng.queue
    let acc (u : State) (a : Nat) := (u.tile t).eng.acc a
    let slot (j : Nat) := (s.tile t).slot j
    let goesOn := (s.tile t).frozen = true → rest ≠ []
    (∀ (n a b : Nat) (int : Bool) (sa sb : Tbl (BitVec 16)), queue s = .step n a b int sa sb :: rest → n < 2 →
      (slot a).data.length = 64 → (slot b).data.length = 64 →
      let blocks := (List.range 4).map (fun j => (⟨(slot a).fmt, (slot b).fmt, slotBlock (slot a) sa j, slotBlock (slot b) sb j⟩ : Block))
      let bad := blocks.any (fun x => x.a.any (rowInvalid x.fa) || x.b.any (rowInvalid x.fb))
      ∃ u, exec (.engineStep t) s = .next u ∧ queue u = rest ∧ (goesOn → acc u (1 - n) = acc s (1 - n)) ∧
        (¬ goesOn → ∀ i, i < 2 → (acc u i).window = []) ∧
        ((acc s n).expect = none → goesOn → (acc u n).count = (acc s n).count + 1 ∧ (acc u n).expect = none ∧
          (acc u n).l = (acc s n).l ∧
          (acc u n).absorb = (if (acc s n).absorb.isSome then (acc s n).absorb
            else if bad then some (causeCode .fpInvalid, originOf t) else none) ∧
          ((acc s n).mode = .empty → (acc u n).mode = (if int then .int else .float) ∧ (acc u n).fa = (slot a).fmt ∧
            (acc u n).fb = (slot b).fmt) ∧
          ((acc s n).absorb = none → bad = true → (acc u n).window = [] ∧ (acc u n).closing = []) ∧
          (fmtIsFloat (slot a).fmt = false → (acc s n).absorb = none → bad = false →
            (acc s n).window.length < (acc s n).l → ∃ new,
              (acc u n).closing = (acc s n).closing ++ new ∧ (∀ w, w ∈ new → w.length = (acc s n).l) ∧
              (acc u n).window.length < (acc s n).l ∧
              new.flatten ++ (acc u n).window = (acc s n).window ++ blocks ∧ (acc u n).vals = (acc s n).vals))) ∧
    (∀ (a : Nat) (w : List Block) (more : List (List Block)), a < 2 → (acc s a).closing = w :: more →
      ∃ u, exec (.promotionWindow t a) s = .next u ∧ acc u (1 - a) = acc s (1 - a) ∧ u.mem = s.mem ∧
        ((acc s a).mode ≠ .int ∨ (u.op t slotREDUCE).record = none → (acc u a).closing = more) ∧
        (∀ b : Block, (acc s a).mode = .int → (acc s a).v = [] → w = [b] → fmtIsInt b.fa = true →
          let elem (f : BitVec 4) (l : List (BitVec 16 × List Nat)) (r i : Nat) : Int := (matInt f ((blockRow l r).2.getD i 0)).1
          let dot (m n : Nat) : Int := ((List.range 16).map (fun i => elem b.fa b.a m i * elem b.fb b.b n i)).sum
          (∀ m n, m < 64 → n < 64 → (dot m n).natAbs < 2 ^ 39) →
          (acc u a).closing = more ∧ (acc u a).v = [] ∧ ∀ m n, m < 64 → n < 64 → ((acc u a).val (64 * m + n)).toInt
            = max (-(2 ^ 63)) (min (2 ^ 63 - 1) (((acc s a).val (64 * m + n)).toInt + dot m n)))) ∧
    (∀ (a l : Nat) (v : BitVec 2), queue s = .macc a l v :: rest → a < 2 → (acc s a).closing = [] → (acc s a).window = [] →
      goesOn → ∃ u, exec (.maccPerform t) s = .next u ∧ queue u = rest ∧ acc u a = { acc s a with l := l, ovm := v } ∧
        acc u (1 - a) = acc s (1 - a)) ∧
    (∀ a : Nat, queue s = .mzero a :: rest → a < 2 → goesOn →
      ∃ u, exec (.mzeroPerform t) s = .next u ∧ queue u = rest ∧ (acc u a).mode = .empty ∧ (acc u a).count = 0 ∧
        (acc u a).expect = none ∧ (acc u a).absorb = none ∧ (∀ i, (acc u a).val i = 0) ∧ (acc u a).l = (acc s a).l ∧
        (acc u a).ovm = (acc s a).ovm ∧ acc u (1 - a) = acc s (1 - a)) ∧
    (∀ a n : Nat, queue s = .meor a n :: rest → a < 2 → goesOn →
      ∃ u, exec (.meorPerform t) s = .next u ∧ queue u = rest ∧
        ((acc s a).count < n → acc u a = { acc s a with expect := some n }) ∧ u.mem = s.mem)

/-- Matrix commands of a cell, and the engine that carries them out: MatrixCommands and MatrixEngine of Claims, together. -/
def Obligations.MatrixWork : Prop := MatrixCommands ∧ MatrixEngine

/-! ### Stream operators -/

/-- R161, R287, R306, R307: operator registers. The address names a slot that the tile's kind has and that is in use, else
RESERVED_FIELD or ROUTE_INVALID with the address; slot 15 is the cell's, from Supervisor mode only and never in class L. A
write changes the RW bits of its register alone, a read returns it and clears a register of kind RC, and OPSNAP stores the
counters of SELECT or COUNT in the scratchpad, clears them and returns their sum. -/
def Sys2Proof.Claims.OperatorRegisters : Prop :=
  ∀ (s : State) (x : Runner) (a b d : BitVec 5) (p v : Word64),
    readable x a → readable x b → writable x d → sGet s x a = .ok p → sGet s x b = .ok v →
    let t := opTile x p
    let c := bits p 7 4
    let r := bits p 3 0
    let op (u : State) := u.op t c
    let placed := bits p 63 15 = 0 ∧ (kindSlots (tileKind t)).contains c = true ∧
      match x with
      | .core _ => True
      | .cell _ => bits p 14 8 = 0
    (BothReady false 12 s x → c = 15 →
      (∀ k, x = .core k → (s.core k).mode = .user → exec (.opw a b 0 0) s = stops s x .priv p ∧
        exec (.opr d a 0) s = stops s x .priv p ∧ exec (.opsnap d a b 0) s = stops s x .priv p) ∧
      (∀ q, x = .cell q → exec (.opw a b 0 0) s = stops s x .classMode p ∧
        exec (.opr d a 0) s = stops s x .classMode p ∧ exec (.opsnap d a b 0) s = stops s x .classMode p) ∧
      (∀ k, x = .core k → (s.core k).mode ≠ .user → bits p 63 15 = 0 → bits v 63 32 = 0 →
        (1 < r → exec (.opw a b 0 0) s = stops s x .reservedField p) ∧
        (r = 1 → exec (.opw a b 0 0) s = retires s x s 4 3) ∧
        (r = 0 → ∃ u, exec (.opw a b 0 0) s = retires s x u 4 3 ∧ u.mem = s.mem ∧
          (u.cell t).vf = ((s.cell t).vf &&& 0xFFF8FCFF ||| v.extractLsb' 0 32 &&& 0x00070300) &&&
            ~~~ (v.extractLsb' 0 32 &&& 0x7F)) ∧
        (r = 0 → exec (.opr d a 0) s = retires s x (sSet s x d ((s.cell t).vf.zeroExtend 64)) 4 4) ∧
        (r = 1 → exec (.opr d a 0) s = retires s x (sSet s x d ((cstat (s.cell t)).zeroExtend 64)) 4 4))) ∧
    (BothReady false 12 s x → c ≠ 15 →
      (¬ placed → exec (.opw a b 0 0) s = stops s x .reservedField p ∧ exec (.opr d a 0) s = stops s x .reservedField p ∧
        exec (.opsnap d a b 0) s = stops s x .reservedField p) ∧
      (placed → 2 ^ 32 ≤ v.toNat → exec (.opw a b 0 0) s = stops s x .reservedField p) ∧
      (placed → slotInUse s x t c = false →
        exec (.opr d a 0) s = stops s x .routeInvalid p ∧
        (v.toNat < 2 ^ 32 → exec (.opw a b 0 0) s = stops s x .routeInvalid p)) ∧
      (placed → slotInUse s x t c = true → v.toNat < 2 ^ 32 →
        (∀ m, opMap c r = some (.rw m) → ¬ (c = slotLUT ∧ r = 3) → c ≠ slotMEMORY →
          (r = 0 → opValid c ((op s).reg 0 &&& ~~~ m ||| v.extractLsb' 0 32 &&& m) = true) →
          ∃ u, exec (.opw a b 0 0) s = retires s x u 4 3 ∧ u.mem = s.mem ∧
            (op u).reg r = ((op s).reg r &&& ~~~ m) ||| (v.extractLsb' 0 32 &&& m) ∧
            ∀ j, j ≠ r → (op u).reg j = (op s).reg j) ∧
        (∀ m, opMap c r = some (.rw m) → r = 0 → opValid c ((op s).reg 0 &&& ~~~ m ||| v.extractLsb' 0 32 &&& m) = false →
          exec (.opw a b 0 0) s = stops s x .reservedField p) ∧
        (opMap c r = none → r ≠ 15 → exec (.opw a b 0 0) s = stops s x .reservedField p ∧
          exec (.opr d a 0) s = stops s x .reservedField p) ∧
        ((opMap c r = some .ro ∨ opMap c r = some .rc) → exec (.opw a b 0 0) s = retires s x s 4 3)) ∧
      (placed → slotInUse s x t c = true → ¬ (c = slotLUT ∧ r = 3) →
        (r = 15 → exec (.opr d a 0) s = retires s x (sSet s x d ((opStat (s.tile t) (op s)).zeroExtend 64)) 4 4) ∧
        (∀ m, (opMap c r = some (.rw m) ∨ opMap c r = some .ro) →
          exec (.opr d a 0) s = retires s x (sSet s x d (((op s).reg r).zeroExtend 64)) 4 4) ∧
        (opMap c r = some .rc → ∃ u,
          exec (.opr d a 0) s = retires s x (sSet u x d (((op s).reg r).zeroExtend 64)) 4 4 ∧ (op u).reg r = 0 ∧
          (∀ j, j ≠ r → (op u).reg j = (op s).reg j) ∧ u.mem = s.mem)) ∧
      (placed → slotInUse s x t c = true → r = 0 → c ≠ slotSELECT → c ≠ slotCOUNT →
        exec (.opsnap d a b 0) s = stops s x .reservedField p) ∧
      (placed → slotInUse s x t c = true → r = 0 → c = slotCOUNT → spmCheck s x v 16 64 true false = .ok () →
        ∃ u, exec (.opsnap d a b 0) s = retires s x (sSet u x d (BitVec.ofNat 64 (((op s).reg 1).toNat + ((op s).reg 2).toNat
            + ((op s).reg 3).toNat + ((op s).reg 4).toNat))) 4 12 ∧ u.mem = s.mem ∧
          (∀ j, 1 ≤ j → j ≤ 4 → (op u).reg j = 0 ∧ ∀ i, i < 4 →
            (u.isle (runnerIsle x)).spm.get 0 (v.toNat + 4 * (j - 1) + i) = ((op s).reg j).extractLsb' (8 * i) 8)) ∧
      (placed → slotInUse s x t c = true → r = 0 → c = slotSELECT → spmCheck s x v 256 64 true false = .ok () →
        ∃ u w, exec (.opsnap d a b 0) s = retires s x (sSet u x d w) 4 12 ∧ u.mem = s.mem ∧ (op u).cnt = [] ∧
          ∀ j i, j < 64 → i < 4 → (u.isle (runnerIsle x)).spm.get 0 (v.toNat + 4 * j + i)
            = BitVec.ofNat 8 ((op s).cnt.get 0 j / 2 ^ (8 * i))))

/-- R20, R73, R288, R290, R295, R296, R299, R300: MAP, CONVERT, LUT and FILTER on a DATA token of their type. The token is consumed and the
results leave on their output along its routes, with FRAME and ITER of the input, SAT and INX of the input and of the
operation; a token of another type is left at its head and reported by a record of the operator. Nothing fires without credit.
CONVERT with MRG = 1 joins packets whose headers agree into
packets of eight elements (R73). What it holds under an earlier setting leaves first (log entry 68). -/
def Sys2Proof.Claims.ElementOperators : Prop :=
  ∀ (s : State) (t : Nat) (tok : Token) (rest : List Token) (d0 d1 : List Nat),
    hKind tok.hdr = 0 →
    let credit (c : Nat) := ∀ o, PortId.op t c o ∉ s.stuck
    let fires (c : Nat) := opLive s t c = true ∧ (s.op t c).input 0 = tok :: rest ∧ routed s t c 0 d0 ∧ credit c
    let el := elemsOf tok
    let r0 (c : Nat) := (s.op t c).reg 0
    let sends (i : Instr) (c : Nat) (l0 l1 : List Token) : Prop :=
      ∃ u, exec i s = .next u ∧ (u.op t c).input 0 = rest ∧ u.mem = s.mem ∧
        u.flights = s.flights ++ flying s t c 0 d0 l0 ++ flying s t c 1 d1 l1
    let turned (i : Instr) (c : Nat) : Prop :=
      ∃ u r, exec i s = .next u ∧ (u.op t c).input 0 = tok :: rest ∧ u.flights = s.flights ∧ u.mem = s.mem ∧
        reported u (tileIsle t) r ∧ r.agent = 2 ∧ r.slot = c ∧ r.code = causeCode .formatUnsupported ∧ r.hdr = tok.hdr ∧
        (u.op t c).record.isSome = true
    let out (ty : BitVec 4) (es : List Nat) (sat inx : Bool) : Token :=
      dataToken ty es (hIter tok.hdr) (hFrame tok.hdr) false (hSat tok.hdr || sat) (hInx tok.hdr || inx)
    (fires slotMAP → bit (r0 slotMAP) 11 = false →
      let ty := (r0 slotMAP).extractLsb' 4 4
      let w := fmtWidth ty
      let c0 := ((s.op t slotMAP).reg 1).toNat % 2 ^ w
      let c1 := ((s.op t slotMAP).reg 2).toNat % 2 ^ w
      let f (a : Nat) : Nat × Bool × Bool :=
        if fmtIsInt ty then mapInt (bits (r0 slotMAP) 3 0) ty (bit (r0 slotMAP) 10) ((r0 slotMAP).extractLsb' 8 2) a c0 c1
        else mapFloat (bits (r0 slotMAP) 3 0) ty ((r0 slotMAP).extractLsb' 8 2) a c0 c1
      (hType tok.hdr ≠ ty → turned (.mapFire t) slotMAP) ∧
      (hType tok.hdr = ty → sends (.mapFire t) slotMAP
        [out ty (el.map (fun a => (f a).1)) (el.any (fun a => (f a).2.2)) (el.any (fun a => (f a).2.1))] [])) ∧
    (∀ tok1 rest1, fires slotMAP → bit (r0 slotMAP) 11 = true → (s.op t slotMAP).input 1 = tok1 :: rest1 → hKind tok1.hdr = 0 →
      let ty := (r0 slotMAP).extractLsb' 4 4
      let c1 := ((s.op t slotMAP).reg 2).toNat % 2 ^ fmtWidth ty
      let f (ab : Nat × Nat) : Nat × Bool × Bool :=
        if fmtIsInt ty then mapInt (bits (r0 slotMAP) 3 0) ty (bit (r0 slotMAP) 10) ((r0 slotMAP).extractLsb' 8 2) ab.1 ab.2 c1
        else mapFloat (bits (r0 slotMAP) 3 0) ty ((r0 slotMAP).extractLsb' 8 2) ab.1 ab.2 c1
      let rs := (el.zip (elemsOf tok1)).map f
      hType tok.hdr = ty → hType tok1.hdr = ty → hLen tok.hdr = hLen tok1.hdr →
        sends (.mapFire t) slotMAP [out ty (rs.map (·.1)) (hSat tok1.hdr || rs.any (·.2.2)) (hInx tok1.hdr || rs.any (·.2.1))] [] ∧
        ∃ u, exec (.mapFire t) s = .next u ∧ (u.op t slotMAP).input 1 = rest1) ∧
    (fires slotCONVERT →
      let src := (r0 slotCONVERT).extractLsb' 0 4
      let dst := (r0 slotCONVERT).extractLsb' 4 4
      let f (a : Nat) := convert src dst ((r0 slotCONVERT).extractLsb' 8 2) a
      let o := s.op t slotCONVERT
      let before := if bit (r0 slotCONVERT) 10 then [] else o.buf.take 1
      (hType tok.hdr ≠ src → turned (.convertFire t) slotCONVERT) ∧
      (hType tok.hdr = src → fmtIsBlock src = true → fmtIsBlock dst = false → o.block = none →
        sends (.convertFire t) slotCONVERT
          (before ++ [out dst ((blockElems src tok).take 8) false false, out dst ((blockElems src tok).drop 8) false false]) []) ∧
      (hType tok.hdr = src → fmtIsBlock dst = true → o.buf = [] → o.pend = [] → (∀ h ty, o.block = some (h, ty) → ty = dst) →
        ∃ u, exec (.convertFire t) s = .next u ∧ (u.op t slotCONVERT).input 0 = rest ∧ u.mem = s.mem ∧
          (o.elems.length + hLen tok.hdr + 1 < 16 → u.flights = s.flights ∧
            (u.op t slotCONVERT).elems = o.elems ++ tokenLanes tok ∧ (u.op t slotCONVERT).block.isSome = true) ∧
          (16 ≤ o.elems.length + hLen tok.hdr + 1 → ∃ b, u.flights = s.flights ++ flying s t slotCONVERT 0 d0 [b] ∧
            hType b.hdr = dst ∧ hLen b.hdr = (blockBytes dst + 3) / 4 % 8 ∧
            (u.op t slotCONVERT).elems = (o.elems ++ tokenLanes tok).drop 16)) ∧
      (hType tok.hdr = src → fmtIsBlock src = false → fmtIsBlock dst = false → bit (r0 slotCONVERT) 10 = false →
        bit tok.hdr 63 = false → (s.op t slotCONVERT).block = none →
        ∃ o, sends (.convertFire t) slotCONVERT (before ++ [o]) [] ∧ hKind o.hdr = 0 ∧ hType o.hdr = dst ∧ hLen o.hdr = hLen tok.hdr ∧
          hIter o.hdr = hIter tok.hdr ∧ hFrame o.hdr = hFrame tok.hdr ∧
          hSat o.hdr = (hSat tok.hdr || el.any (fun a => convertSat src dst a (f a).2)) ∧
          hInx o.hdr = (hInx tok.hdr || el.any (fun a => bit (f a).2 0)) ∧
          o.lanes = Lanes.ofList (el.map (fun a => laneOf dst (f a).1))) ∧
      (hType tok.hdr = src → fmtIsBlock src = false → fmtIsBlock dst = false → bit (r0 slotCONVERT) 10 = true →
        o.block = none →
        let conv := el.map (fun a => laneOf dst (f a).1)
        let sat := hSat tok.hdr || el.any (fun a => convertSat src dst a (f a).2)
        let inx := hInx tok.hdr || el.any (fun a => bit (f a).2 0)
        let holds (l : List Token) (n : List Word32) (sat inx : Bool) : Prop := ∃ u h, exec (.convertFire t) s = .next u ∧
          (u.op t slotCONVERT).input 0 = rest ∧ u.mem = s.mem ∧ u.flights = s.flights ++ flying s t slotCONVERT 0 d0 l ∧
          (u.op t slotCONVERT).buf = [h] ∧ h.lanes = Lanes.ofList n ∧ hLen h.hdr + 1 = n.length ∧ hSat h.hdr = sat ∧ hInx h.hdr = inx
        let whole (l : List Token) (n more : List Word32) (sat inx : Bool) : Prop := ∃ u x, exec (.convertFire t) s = .next u ∧
          (u.op t slotCONVERT).input 0 = rest ∧ u.mem = s.mem ∧ u.flights = s.flights ++ flying s t slotCONVERT 0 d0 (l ++ [x]) ∧
          x.lanes = Lanes.ofList n ∧ hLen x.hdr = 7 ∧ hType x.hdr = dst ∧ hSat x.hdr = sat ∧ hInx x.hdr = inx ∧
          ((more = [] → (u.op t slotCONVERT).buf = []) ∧ (more ≠ [] → ∃ h, (u.op t slotCONVERT).buf = [h] ∧
            h.lanes = Lanes.ofList more ∧ hLen h.hdr + 1 = more.length))
        (o.buf = [] → (hLen tok.hdr ≠ 7 → holds [] conv sat inx) ∧ (hLen tok.hdr = 7 → whole [] conv [] sat inx)) ∧
        (∀ h, o.buf = [h] →
          let agrees := bits h.hdr 48 0 = bits tok.hdr 48 0 ∧ hType h.hdr = dst ∧ hKind h.hdr = 0 ∧ bit h.hdr 63 = bit tok.hdr 63
          let all := (List.range (hLen h.hdr + 1)).map h.lanes.get ++ conv
          (agrees → all.length < 8 → holds [] all (hSat h.hdr || sat) (hInx h.hdr || inx)) ∧
          (agrees → 8 ≤ all.length → whole [] (all.take 8) (all.drop 8) (hSat h.hdr || sat) (hInx h.hdr || inx)) ∧
          (¬ agrees → hLen tok.hdr ≠ 7 → holds [h] conv sat inx) ∧ (¬ agrees → hLen tok.hdr = 7 → whole [h] conv [] sat inx)))) ∧
    (∀ h, opLive s t slotCONVERT = true → (s.op t slotCONVERT).buf = [h] → credit slotCONVERT →
      routed s t slotCONVERT 0 d0 → hKind h.hdr = 0 →
      ∃ u, exec (.mergeHoldExpiry t) s = .next u ∧ (u.op t slotCONVERT).buf = [] ∧ u.mem = s.mem ∧
        u.flights = s.flights ++ flying s t slotCONVERT 0 d0 [h]) ∧
    (fires slotLUT →
      let ty := (r0 slotLUT).extractLsb' 0 4
      let ix (a : Nat) : Int := intOf ty a - ((s.op t slotLUT).reg 1).toInt
      let clamped := bit (r0 slotLUT) 8
      let at' (a : Nat) : Nat := if clamped then (max 0 (min 255 (ix a))).toNat else (ix a % 256).toNat
      (hType tok.hdr ≠ ty → turned (.lutFire t) slotLUT) ∧
      (hType tok.hdr = ty → sends (.lutFire t) slotLUT
        [out ((r0 slotLUT).extractLsb' 4 4) (el.map (fun a => ((s.op t slotLUT).lut.get 0 (at' a)).toNat))
          (el.any (fun a => clamped && (decide (ix a < 0) || decide (255 < ix a)))) false] [])) ∧
    ((s.op t slotLUT).used = true → ∀ w : Option Word32,
      let i := bits ((s.op t slotLUT).reg 2) 7 0
      ∃ u, exec (.lutDataAccess t w) s = .next u ∧ u.mem = s.mem ∧
        ((u.op t slotLUT).reg 2).toNat = (i + 1) % 256 ∧ (∀ j, j ≠ i → (u.op t slotLUT).lut.get 0 j = (s.op t slotLUT).lut.get 0 j) ∧
        (u.op t slotLUT).lut.get 0 i = w.getD ((s.op t slotLUT).lut.get 0 i)) ∧
    (fires slotFILTER → bit (r0 slotFILTER) 3 = false →
      let ty := (r0 slotFILTER).extractLsb' 4 4
      let c := ((s.op t slotFILTER).reg 1).toNat % 2 ^ fmtWidth ty
      let keep (a : Nat) : Bool := (elemCmp ty false (bits (r0 slotFILTER) 2 0) a c).1
      let kept := el.filter keep
      let gone := el.filter (fun a => !keep a)
      let dropped := bit (r0 slotFILTER) 8
      (hType tok.hdr ≠ ty → turned (.filterFire t) slotFILTER) ∧
      (hType tok.hdr = ty → (dropped = true → routed s t slotFILTER 1 d1) →
        sends (.filterFire t) slotFILTER (if kept.isEmpty then [] else [out ty kept false false])
          (if dropped && !gone.isEmpty then [out ty gone false false] else []))) ∧
    (∀ tok1 rest1, fires slotFILTER → bit (r0 slotFILTER) 3 = true → (s.op t slotFILTER).input 1 = tok1 :: rest1 → hKind tok1.hdr = 0 →
      let ty := (r0 slotFILTER).extractLsb' 4 4
      let pairs := el.zip (elemsOf tok1)
      let kept := (pairs.filter (fun x => x.2 != 0)).map (·.1)
      let gone := (pairs.filter (fun x => x.2 == 0)).map (·.1)
      let dropped := bit (r0 slotFILTER) 8
      (hLen tok.hdr ≠ hLen tok1.hdr → ∃ u r, exec (.filterFire t) s = .next u ∧ (u.op t slotFILTER).input 0 = tok :: rest ∧
        u.flights = s.flights ∧ reported u (tileIsle t) r ∧ r.agent = 2 ∧ r.code = causeCode .reservedField) ∧
      (hLen tok.hdr = hLen tok1.hdr → hType tok.hdr = ty → (dropped = true → routed s t slotFILTER 1 d1) →
        sends (.filterFire t) slotFILTER (if kept.isEmpty then [] else [out ty kept (hSat tok1.hdr) (hInx tok1.hdr)])
          (if dropped && !gone.isEmpty then [out ty gone (hSat tok1.hdr) (hInx tok1.hdr)] else []) ∧
        ∃ u, exec (.filterFire t) s = .next u ∧ (u.op t slotFILTER).input 1 = rest1))

/-- R73, R288, R290, R291, R297, R301, R305: a token that is not DATA at an operator. It is consumed and goes on along the routes of
the enabled outputs in its place, an EOR with the count of the DATA and ERR tokens sent on that output since the last EOR; a MARK
leaves its identifier in STAT, and at a join only the first of its snapshot goes on. COUNT passes an EOR unchanged, counts GAP and
ERR tokens and may put an EOR before an EOS; MERGE may gather the EOS of its inputs into one; SELECT keeps an ERR token for its
column; DELAY in HOLD mode holds every token but EOS, which empties its line. -/
def Sys2Proof.Claims.ControlTokens : Prop :=
  ∀ (s : State) (t i : Nat) (tok : Token) (rest : List Token) (ds : Nat → List Nat), hKind tok.hdr ≠ 0 →
    let o (c : Nat) := s.op t c
    let r0 (c : Nat) := (o c).reg 0
    let kind := hKind tok.hdr
    let counted (c out : Nat) : Token :=
      if kind = 2 then { tok with lanes := ⟨BitVec.ofNat 32 ((o c).sent.get 0 out), 0, 0, 0, 0, 0, 0, 0⟩ } else tok
    let fires (c i : Nat) (outs : List Nat) : Prop :=
      opLive s t c = true ∧ (o c).input i = tok :: rest ∧ ∀ j, PortId.op t c j ∉ s.stuck ∧ (j ∈ outs → routed s t c j (ds j))
    let takes (e : Instr) (c i : Nat) (l : List Flight) (f : Op → Prop) : Prop :=
      ∃ u, exec e s = .next u ∧ (u.op t c).input i = rest ∧ u.mem = s.mem ∧ u.flights = s.flights ++ l ∧ f (u.op t c)
    let later (c : Nat) : Prop := kind = 3 ∧ marksFirst s t c (bits tok.lanes.l0 15 0) = false
    let forwards (e : Instr) (c i : Nat) (outs : List Nat) : Prop :=
      fires c i outs →
        (¬ later c → takes e c i (outs.flatMap (fun j => flying s t c j (ds j) [counted c j])) (fun x =>
          (kind = 2 → ∀ j, j ∈ outs → x.sent.get 0 j = 0) ∧ (kind = 3 → x.snapId = bits tok.lanes.l0 15 0))) ∧
        (later c → takes e c i [] (fun x => x.snapId = bits tok.lanes.l0 15 0))
    let out (c : Nat) (l : List Token) := flying s t c 0 (ds 0) l
    let up (n : Nat) := BitVec.ofNat 32 (min (((o slotCOUNT).reg n).toNat + 1) (2 ^ 32 - 1))
    let sent0 := (o slotCOUNT).sent.get 0 0
    let eor (n : Nat) : Token := ⟨putBits (putBits (putBits tok.hdr 59 56 2) 55 52 1) 51 49 0, Lanes.ofList [BitVec.ofNat 32 n]⟩
    let line := (o slotDELAY).buf ++ [tok]
    forwards (.mapFire t) slotMAP 0 [0] ∧ forwards (.lutFire t) slotLUT 0 [0] ∧
    forwards (.filterFire t) slotFILTER 0 (if bit (r0 slotFILTER) 8 then [0, 1] else [0]) ∧
    forwards (.splitFire t) slotSPLIT 0 (splitOuts (o slotSPLIT)) ∧
    (∀ x l, (o slotMAP).input 0 = x :: l → hKind x.hdr = 0 → bit (r0 slotMAP) 11 = true → forwards (.mapFire t) slotMAP 1 [0]) ∧
    (bit (r0 slotDELAY) 0 = false → forwards (.delayWindow t) slotDELAY 0 [0]) ∧
    ((o slotCONVERT).buf = [] → (o slotCONVERT).block = none → forwards (.convertFire t) slotCONVERT 0 [0]) ∧
    ((o slotSELECT).col = none → kind ≠ 5 → forwards (.selectFire t) slotSELECT 0 (if bit (r0 slotSELECT) 15 then [0, 1] else [0])) ∧
    (kind = 5 → fires slotSELECT 0 [] → (∀ c, (o slotSELECT).col = some c → hIter c.hdr = hIter tok.hdr) →
      takes (.selectFire t) slotSELECT 0 [] (fun x => ∃ c, x.col = some c ∧
        c.errs = ((o slotSELECT).col.map (·.errs)).getD [] ++ [tok] ∧ c.vals = ((o slotSELECT).col.map (·.vals)).getD [])) ∧
    (fires slotCOUNT 0 [0] →
      (kind = 2 → takes (.countFire t) slotCOUNT 0 (out slotCOUNT [tok]) (fun x => x.sent.get 0 0 = 0)) ∧
      (kind = 6 → takes (.countFire t) slotCOUNT 0 (out slotCOUNT [tok]) (fun x => x.reg 3 = up 3)) ∧
      (kind = 5 → (bits (r0 slotCOUNT) 15 0 = 0 ∨ (o slotCOUNT).cnt.get 0 0 + 1 < bits (r0 slotCOUNT) 15 0) →
        takes (.countFire t) slotCOUNT 0 (out slotCOUNT [tok]) (fun x => x.reg 4 = up 4)) ∧
      (kind = 5 → bits (r0 slotCOUNT) 15 0 ≠ 0 → bits (r0 slotCOUNT) 15 0 ≤ (o slotCOUNT).cnt.get 0 0 + 1 →
        takes (.countFire t) slotCOUNT 0 (out slotCOUNT [tok, eor (sent0 + 1)]) (fun x => x.reg 4 = up 4 ∧ x.cnt.get 0 0 = 0)) ∧
      (kind = 1 → bit (r0 slotCOUNT) 16 = true →
        takes (.countFire t) slotCOUNT 0 (out slotCOUNT [eor sent0, tok]) (fun x => x.sent.get 0 0 = 0)) ∧
      (kind = 1 → bit (r0 slotCOUNT) 16 = false → takes (.countFire t) slotCOUNT 0 (out slotCOUNT [tok]) (fun _ => True)) ∧
      (kind = 3 ∨ kind = 4 → takes (.countFire t) slotCOUNT 0 (out slotCOUNT [tok]) (fun _ => True))) ∧
    (mergeNext (o slotMERGE) = some i → kind ≠ 1 ∨ bit (r0 slotMERGE) 6 = false → forwards (.mergeFire t i) slotMERGE i [0]) ∧
    (fires slotMERGE i [0] → mergeNext (o slotMERGE) = some i → kind = 1 → bit (r0 slotMERGE) 6 = true →
      let all := ∀ j, j < 4 → bit (r0 slotMERGE) j = true → j = i ∨ j ∈ (o slotMERGE).eosSeen
      (all → takes (.mergeFire t i) slotMERGE i (out slotMERGE [tok]) (fun x => x.eosSeen = [])) ∧
      (¬ all → takes (.mergeFire t i) slotMERGE i [] (fun x => i ∈ x.eosSeen ∧ ∀ j, j ∈ (o slotMERGE).eosSeen → j ∈ x.eosSeen))) ∧
    (fires slotDELAY 0 [0] → bit (r0 slotDELAY) 0 = true →
      (kind = 1 → takes (.delayHold t) slotDELAY 0 (out slotDELAY line) (fun x => x.buf = [])) ∧
      (kind ≠ 1 → line.length ≤ bits (r0 slotDELAY) 8 4 + 1 → takes (.delayHold t) slotDELAY 0 [] (fun x => x.buf = line)) ∧
      (kind ≠ 1 → bits (r0 slotDELAY) 8 4 + 1 < line.length →
        takes (.delayHold t) slotDELAY 0 (out slotDELAY (line.take 1)) (fun x => x.buf = line.drop 1)))

/-- R62, R74, R288, R290, R297, R298, R301, R305: SELECT, COUNT, MERGE, SPLIT and DELAY. SELECT gathers a column and, when it is full or a
token of another ITER comes, sends the indices of its K best, and the scores where VOUT is set, eight to a token, and counts them;
a column with ERR tokens sends these; COUNT counts tokens and elements and passes them on, with an EOR after each period; MERGE forwards the
head of the input whose turn it is; SPLIT cuts a packet or sends it to one or to all of its outputs; DELAY sends for each
element a window of the last ones, or holds tokens in a line. -/
def Sys2Proof.Claims.StreamOperators : Prop :=
  ∀ (s : State) (t i : Nat) (tok : Token) (rest : List Token) (ds : Nat → List Nat),
    hKind tok.hdr = 0 →
    let o (c : Nat) := s.op t c
    let r0 (c : Nat) := (o c).reg 0
    let fires (c i : Nat) := opLive s t c = true ∧ (o c).input i = tok :: rest ∧
      ∀ j, routed s t c j (ds j) ∧ PortId.op t c j ∉ s.stuck
    let sends (e : Instr) (c i j : Nat) (l : List Token) (f : Op → Prop) : Prop :=
      ∃ u, exec e s = .next u ∧ (u.op t c).input i = rest ∧ u.mem = s.mem ∧
        u.flights = s.flights ++ flying s t c j (ds j) l ∧ f (u.op t c)
    let lanes := (List.range (hLen tok.hdr + 1)).map tok.lanes.get
    let ty := (r0 slotSELECT).extractLsb' 11 4
    let bestOf (l : List Word32) : List (Nat × Nat) :=
      (ranking ty (bit (r0 slotSELECT) 10) (l.map (fun v => v.toNat % 2 ^ fmtWidth ty))).take (bits (r0 slotSELECT) 9 6 + 1)
    let cut (l : List (Nat × Nat)) : List (List (Nat × Nat)) := if l.length ≤ 8 then [l] else [l.take 8, l.drop 8]
    (fires slotSELECT 0 → hType tok.hdr = (r0 slotSELECT).extractLsb' 11 4 →
      (∀ c, (o slotSELECT).col = some c → hIter c.hdr = hIter tok.hdr) →
      let old := ((o slotSELECT).col.map (·.vals)).getD []
      let n := bits (r0 slotSELECT) 5 0 + 1
      let all := (old ++ lanes).take n
      let hdr := ((o slotSELECT).col.map (·.hdr)).getD tok.hdr
      (old.length + lanes.length < n →
        sends (.selectFire t) slotSELECT 0 0 [] (fun x => ∃ c, x.col = some c ∧ c.vals = old ++ lanes ∧ c.hdr = hdr)) ∧
      (n ≤ old.length + lanes.length → (o slotSELECT).pend = [] →
        let errs := ((o slotSELECT).col.map (·.errs)).getD []
        let best := bestOf all
        (errs = [] → ∃ sat inx,
          let tk (f : BitVec 4) (l : List Nat) := dataToken f l (hIter hdr) (hFrame hdr) false sat inx
          let places := (cut best).map (fun p => tk 0 (p.map (·.2)))
          let counts (x : Op) := x.col = none ∧ ∀ j, x.cnt.get 0 j =
            if j ∈ best.map (·.2) then min ((o slotSELECT).cnt.get 0 j + 1) (2 ^ 32 - 1) else (o slotSELECT).cnt.get 0 j
          (bit (r0 slotSELECT) 15 = false → sends (.selectFire t) slotSELECT 0 0 places counts) ∧
          (bit (r0 slotSELECT) 15 = true → ∃ u, exec (.selectFire t) s = .next u ∧ (u.op t slotSELECT).input 0 = rest ∧
            counts (u.op t slotSELECT) ∧ u.flights = s.flights ++ flying s t slotSELECT 0 (ds 0) places
              ++ flying s t slotSELECT 1 (ds 1) ((cut best).map (fun p => tk ty (p.map (·.1)))))) ∧
        (errs ≠ [] → ∃ u, exec (.selectFire t) s = .next u ∧ (u.op t slotSELECT).input 0 = rest ∧
          (u.op t slotSELECT).col = none ∧ (u.op t slotSELECT).cnt = (o slotSELECT).cnt ∧ u.flights = s.flights ++
            errs.flatMap (fun e => flying s t slotSELECT 0 (ds 0) [e] ++ flying s t slotSELECT 1 (ds 1) [e])))) ∧
    (∀ c, fires slotSELECT 0 → hType tok.hdr = (r0 slotSELECT).extractLsb' 11 4 → (o slotSELECT).col = some c →
      hIter c.hdr ≠ hIter tok.hdr → c.errs = [] → c.vals ≠ [] → (o slotSELECT).pend = [] → bit (r0 slotSELECT) 15 = false →
      lanes.length < bits (r0 slotSELECT) 5 0 + 1 → sends (.selectFire t) slotSELECT 0 0
        ((cut (bestOf c.vals)).map (fun p => dataToken 0 (p.map (·.2)) (hIter c.hdr) (hFrame c.hdr) false c.sat c.inx))
        (fun x => ∃ c', x.col = some c' ∧ c'.vals = lanes ∧ c'.hdr = tok.hdr)) ∧
    (fires slotCOUNT 0 →
      let n := (o slotCOUNT).cnt.get 0 0 + 1
      let period := bits (r0 slotCOUNT) 15 0
      let up (r k : Nat) := BitVec.ofNat 32 (min (((o slotCOUNT).reg r).toNat + k) (2 ^ 32 - 1))
      (period = 0 ∨ n < period → sends (.countFire t) slotCOUNT 0 0 [tok] (fun x =>
        x.reg 1 = up 1 1 ∧ x.reg 2 = up 2 (hLen tok.hdr + 1) ∧ x.reg 3 = (o slotCOUNT).reg 3 ∧
        x.reg 4 = (o slotCOUNT).reg 4 ∧ x.cnt.get 0 0 = n)) ∧
      (period ≠ 0 → period ≤ n → ∃ e, sends (.countFire t) slotCOUNT 0 0 [tok, e] (fun x =>
        x.cnt.get 0 0 = 0 ∧ x.sent.get 0 0 = 0) ∧ hKind e.hdr = 2 ∧
        e.lanes = Lanes.ofList [BitVec.ofNat 32 ((o slotCOUNT).sent.get 0 0 + 1)])) ∧
    (fires slotMERGE i → mergeNext (o slotMERGE) = some i → sends (.mergeFire t i) slotMERGE i 0 [tok] (fun x =>
      x.rr = (i + 1) % 4 ∧ ∀ j, j ≠ i → x.input j = (o slotMERGE).input j)) ∧
    (fires slotMERGE i → mergeNext (o slotMERGE) ≠ some i → exec (.mergeFire t i) s = .next s) ∧
    (fires slotSPLIT 0 → splitOuts (o slotSPLIT) ≠ [] →
      let outs := splitOuts (o slotSPLIT)
      let nth (j : Nat) := outs.getD (j % outs.length) 0
      (bits (r0 slotSPLIT) 1 0 = 0 →
        sends (.splitFire t) slotSPLIT 0 (outs.headD 0) (cutPieces tok (bits (r0 slotSPLIT) 8 6 + 1)) (fun _ => True) ∧
        ((cutPieces tok (bits (r0 slotSPLIT) 8 6 + 1)).map (fun p => hLen p.hdr + 1)).sum = hLen tok.hdr + 1) ∧
      (bits (r0 slotSPLIT) 1 0 = 1 → sends (.splitFire t) slotSPLIT 0 (nth (o slotSPLIT).rr) [tok]
        (fun x => x.rr = ((o slotSPLIT).rr + 1) % outs.length)) ∧
      (bits (r0 slotSPLIT) 1 0 = 2 → sends (.splitFire t) slotSPLIT 0 (nth (hIter tok.hdr)) [tok] (fun _ => True)) ∧
      (bits (r0 slotSPLIT) 1 0 = 3 → ∃ u, exec (.splitFire t) s = .next u ∧ (u.op t slotSPLIT).input 0 = rest ∧
        u.flights = s.flights ++ outs.flatMap (fun j => flying s t slotSPLIT j (ds j) [tok]))) ∧
    (fires slotDELAY 0 → bit (r0 slotDELAY) 0 = false →
      let w := bits (r0 slotDELAY) 3 1 + 1
      (o slotDELAY).elems.length ≤ (o slotDELAY).hist.length →
      ∃ l, sends (.delayWindow t) slotDELAY 0 0 l
          (fun x => x.elems = ((tokenLanes tok).reverse ++ (o slotDELAY).elems).take 8) ∧
        l.length = hLen tok.hdr + 1 ∧ ∀ n, n < l.length → ∃ p, l[n]? = some p ∧ hLen p.hdr + 1 = w ∧
          hType p.hdr = hType tok.hdr ∧ (hSat tok.hdr = true → hSat p.hdr = true) ∧ (hInx tok.hdr = true → hInx p.hdr = true) ∧
          ∀ j, j < w → j ≤ n → p.lanes.get j = elemLane (hType tok.hdr) (tok.lanes.get (n - j))) ∧
    (fires slotDELAY 0 → bit (r0 slotDELAY) 0 = false → exec (.delayHold t) s = .next s) ∧
    (fires slotDELAY 0 → bit (r0 slotDELAY) 0 = true →
      let line := (o slotDELAY).buf ++ [tok]
      exec (.delayWindow t) s = .next s ∧
      (line.length ≤ bits (r0 slotDELAY) 8 4 + 1 →
        sends (.delayHold t) slotDELAY 0 0 [] (fun x => x.buf = line)) ∧
      (bits (r0 slotDELAY) 8 4 + 1 < line.length → hKind (line.headD tok).hdr = 0 →
        sends (.delayHold t) slotDELAY 0 0 (line.take 1) (fun x => x.buf = line.drop 1)))

/-- MAP, CONVERT, LUT, FILTER, SELECT, COUNT, MERGE, SPLIT and DELAY, and control tokens at operators: ElementOperators,
ControlTokens and StreamOperators of Claims, together. -/
def Obligations.TokenOperators : Prop := ElementOperators ∧ ControlTokens ∧ StreamOperators

/-- R51, R55, R274, R278, R280, R292 to R294: MATRIX and REDUCE. A DATA token at MATRIX queues a step of the slots that its first
two lanes name, an EOR queues a MEOR, and with no free entry of the engine queue both wait. REDUCE adds the partial token p of an
input to elements 8p to 8p + 7 of the accumulator its input feeds; a saturation marks it, and unmasked raises ACC_OVERFLOW with the
token at its head; an ERR token makes it absorbing. An EOR sets EXPECT there where EORIN allows, and is consumed; where the count is
met the accumulator releases 64 rows of 8 tokens, or one ERR token, and an EOR, and is clear. -/
def Sys2Proof.Claims.MatrixOperators : Prop :=
  ∀ (s : State) (t i : Nat) (tok : Token) (rest : List Token),
    let o := s.op t slotREDUCE
    let m := s.op t slotMATRIX
    let queue (u : State) := (u.tile t).eng.queue
    let acc (u : State) (a : Nat) := (u.tile t).eng.acc a
    let owed := ((s.cell t).task.map (fun q => 4 - q.engCmds)).getD 0
    (opLive s t slotMATRIX = true → m.input 0 = tok :: rest →
      (hKind tok.hdr = 0 ∨ hKind tok.hdr = 2 → 16 ≤ (queue s).length + owed → exec (.matrixFire t) s = .next s) ∧
      (hKind tok.hdr = 2 → (queue s).length + owed < 16 → ∃ u, exec (.matrixFire t) s = .next u ∧
        (u.op t slotMATRIX).input 0 = rest ∧
        queue u = queue s ++ [.meor (if bit (m.reg 0) 1 then 1 else 0) tok.lanes.l0.toNat] ∧ u.mem = s.mem) ∧
      (∀ a b n, hKind tok.hdr = 0 → (queue s).length + owed < 16 → matrixArgs (m.reg 0) tok = some (a, b, n) →
        1 ≤ a → a ≤ 8 → 1 ≤ b → b ≤ 8 → stepFault s t n (a - 1) (b - 1) (bit (m.reg 0) 0) = none →
        ∃ u sa sb, exec (.matrixFire t) s = .next u ∧ (u.op t slotMATRIX).input 0 = rest ∧ u.mem = s.mem ∧
          queue u = queue s ++ [.step n (a - 1) (b - 1) (bit (m.reg 0) 0) sa sb] ∧
          ((m.reg 1).toNat < 2 ^ 32 - 1 → (u.op t slotMATRIX).reg 1 = m.reg 1 + 1))) ∧
    (opLive s t slotREDUCE = true → o.input i = tok :: rest → i < 3 → (∀ j, PortId.op t slotREDUCE j ∉ s.stuck) →
      let n := if bit (o.reg 0) (8 + i) then 1 else 0
      let x := acc s n
      let p := o.parts.get 0 i
      (hKind tok.hdr = 2 → exec (.reducePartial t i) s = .next s ∧ ∃ u, exec (.reduceEor t i) s = .next u ∧
        (u.op t slotREDUCE).input i = rest ∧
        (bit (o.reg 0) (11 + i) = false → acc u n = x ∧ acc u (1 - n) = acc s (1 - n)) ∧
        (bit (o.reg 0) (11 + i) = true → x.count < tok.lanes.l0.toNat →
          acc u n = { x with expect := some tok.lanes.l0.toNat })) ∧
      (hKind tok.hdr ≠ 2 → exec (.reduceEor t i) s = .next s) ∧
      let fits (f : BitVec 4) := x.mode = .empty ∨ x.mode = (if f = 6 then .float else .int) ∧ x.partial0 = true ∧ x.fa = f
      let taken (u : State) := (u.op t slotREDUCE).input i = rest ∧ (u.op t slotREDUCE).parts.get 0 i = p + 1 ∧
        (acc u n).count = x.count + 1 ∧ acc u (1 - n) = acc s (1 - n) ∧ u.mem = s.mem
      let stays (c : Cause) : Prop := ∃ u r, exec (.reducePartial t i) s = .next u ∧ (u.op t slotREDUCE).input i = tok :: rest ∧
        (acc u n).count = x.count ∧ reported u (tileIsle t) r ∧ r.agent = 2 ∧ r.slot = slotREDUCE ∧ r.code = causeCode c ∧
        r.hdr = tok.hdr
      (hKind tok.hdr = 0 → partialTurn s t i = true →
        (i = 2 ∨ hLen tok.hdr ≠ 7 → stays .reservedField) ∧
        (i < 2 → hLen tok.hdr = 7 → (hType tok.hdr ≠ 6 ∧ hType tok.hdr ≠ 0) ∨
          (x.mode ≠ .empty ∧ (x.partial0 = false ∨ x.fa ≠ hType tok.hdr)) → stays .formatUnsupported) ∧
        (i < 2 → hLen tok.hdr = 7 → hType tok.hdr = 6 ∨ hType tok.hdr = 0 → fits (hType tok.hdr) → 512 ≤ p →
          stays .reservedField)) ∧
      (hKind tok.hdr = 0 ∨ hKind tok.hdr = 5 → partialTurn s t i = false → exec (.reducePartial t i) s = .next s) ∧
      (hKind tok.hdr = 5 → p < 512 → x.expect = none → partialTurn s t i = true →
        ∃ u, exec (.reducePartial t i) s = .next u ∧ taken u ∧ (acc u n).vals = x.vals ∧
          (acc u n).absorb = if x.absorb.isSome then x.absorb
            else some (tok.lanes.l0.extractLsb' 0 6, bits tok.lanes.l1 12 0)) ∧
      (hKind tok.hdr = 0 → i < 2 → hLen tok.hdr = 7 → p < 512 → x.expect = none → partialTurn s t i = true →
        (hType tok.hdr = 6 ∨ hType tok.hdr = 0 → fits (hType tok.hdr) → x.absorb.isSome = true →
          ∃ u, exec (.reducePartial t i) s = .next u ∧ taken u ∧ (acc u n).vals = x.vals ∧ (acc u n).absorb = x.absorb) ∧
        (hType tok.hdr = 6 → fits 6 → x.absorb = none →
          ∃ u, exec (.reducePartial t i) s = .next u ∧ taken u ∧ (acc u n).mode = .float ∧ (acc u n).partial0 = true ∧
            (∀ j, j < 8 → (acc u n).val (8 * p + j)
              = BitVec.ofNat 64 (addF32 ((x.val (8 * p + j)).toNat % 2 ^ 32) (tok.lanes.get j).toNat).1) ∧
            ∀ e, e / 8 ≠ p → (acc u n).val e = x.val e) ∧
        (hType tok.hdr = 0 → fits 0 → x.absorb = none →
          let sum (j : Nat) := (x.val (8 * p + j)).toInt + (tok.lanes.get j).toInt
          let past := ∃ j, j < 8 ∧ (sum j < -2 ^ 63 ∨ 2 ^ 63 ≤ sum j)
          let masked := ovfUnmasked s t x = false
          let added (u : State) := (acc u n).mode = .int ∧ (acc u n).partial0 = true ∧
            (∀ j, j < 8 → ((acc u n).val (8 * p + j)).toInt = max (-2 ^ 63) (min (2 ^ 63 - 1) (sum j))) ∧
            ∀ e, e / 8 ≠ p → (acc u n).val e = x.val e
          (¬ past → ∃ u, exec (.reducePartial t i) s = .next u ∧ taken u ∧ added u ∧ (acc u n).ovf = x.ovf) ∧
          (past → masked → ∃ u, exec (.reducePartial t i) s = .next u ∧ taken u ∧ added u ∧ (acc u n).ovf = true) ∧
          (past → ¬ masked → stays .accOverflow ∧ ∃ u, exec (.reducePartial t i) s = .next u ∧ added u ∧ (acc u n).ovf = true))) ∧
      (∀ ds, hKind tok.hdr = 2 → bit (o.reg 0) (11 + i) = true → tok.lanes.l0.toNat ≤ x.count → x.window = [] → x.closing = [] →
        routed s t slotREDUCE n ds →
        let f := (o.reg 0).extractLsb' (4 * n) 4
        let sends (u : State) (l : List Token) := u.flights = s.flights ++ flying s t slotREDUCE n ds l
        ∃ u, exec (.reduceEor t i) s = .next u ∧ (u.op t slotREDUCE).input i = rest ∧ u.mem = s.mem ∧
          acc u n = { Acc.reset with l := x.l, ovm := x.ovm } ∧ acc u (1 - n) = acc s (1 - n) ∧
          (∀ c g, x.absorb = some (c, g) → ∃ e r, sends u [e, r] ∧ hKind e.hdr = 5 ∧
            e.lanes = Lanes.ofList [BitVec.ofNat 32 c.toNat, BitVec.ofNat 32 g] ∧ hKind r.hdr = 2 ∧ r.lanes.l0 = 1) ∧
          (x.absorb = none → ∃ l r, sends u (l ++ [r]) ∧ l.length = 512 ∧ hKind r.hdr = 2 ∧ r.lanes.l0 = 512 ∧
            ∀ q e, l[q]? = some e → hKind e.hdr = 0 ∧ hType e.hdr = f ∧ hLen e.hdr = 7 ∧ hIter e.hdr = q / 8 ∧
              ∀ j, j < 8 → e.lanes.get j = laneOf f (releaseElem x f (8 * q + j)).1)))

/-- Operator registers, and the matrix operators: OperatorRegisters and MatrixOperators of Claims, together. -/
def Obligations.OperatorsAndMatrixOperators : Prop := OperatorRegisters ∧ MatrixOperators

/-- R20, R76, R199, R202, R251, R288, R302 to R304, R310: the MEMORY operator on a DATA token, with its descriptor read and no element of the
token done. A token either leaves its head with the element index at 0, or stays with a fault record; and for one element:
LOADSEQ sends the element at POS and raises POS, GATHER the element its lane names, or 0 with SAT beyond the tensor; STORESEQ
and SCATTER write theirs, or set RANGE of ERRSUM; ATOMIC writes the result and sends the old value, SETNEW the index of a bit that
was clear. A token of several elements in the scratchpad does the same element by element; LOADSEQ stops at the end of the tensor, where
ENDEOS sends one EOS. It fires only with credit (R288). PORT sends the line at its
port's head as tokens and an EOR, or a GAP. -/
def Obligations.MemoryOperator : Prop :=
  ∀ (s s1 : State) (t : Nat) (x y : Token) (rx ry : List Token) (d : Desc) (ds : List Nat) (v : Nat) (e : Cause × Word64),
    let o := s.op t slotMEMORY
    let input (u : State) (i : Nat) := (u.op t slotMEMORY).input i
    let r0 := o.reg 0
    let pos := (o.reg 1).toNat
    let fires (m : Nat) := opLive s t slotMEMORY = true ∧ bits r0 3 0 = m ∧ o.held = none ∧ o.desc = some d ∧
      o.input 0 = x :: rx ∧ hKind x.hdr = 0 ∧ hType x.hdr = d.fmt ∧ o.elem = 0 ∧ o.elems = [] ∧ o.sat = false ∧
      routed s t slotMEMORY 0 ds ∧ PortId.op t slotMEMORY 0 ∉ s.stuck
    let two := o.input 1 = y :: ry ∧ hKind y.hdr = 0 ∧ hType y.hdr = d.fmt ∧ hLen y.hdr = hLen x.hdr
    let lane (z : Token) := (z.lanes.get 0).toNat
    let index (z : Token) := (laneOf (hType z.hdr) (z.lanes.get 0).toNat).toNat
    let out (es : List Nat) (iter : Nat) (sat inx : Bool) :=
      dataToken d.fmt es iter (hFrame x.hdr) false (hSat x.hdr || sat) (hInx x.hdr || inx)
    let gone (i : Instr) (u : State) := exec i s = .next u ∧ input u 0 = rx ∧ (u.op t slotMEMORY).elem = 0
    let faulted (i : Instr) : Prop := ∃ u r, exec i s = .next u ∧ input u 0 = x :: rx ∧ reported u (tileIsle t) r ∧
      r.agent = 2 ∧ r.slot = slotMEMORY ∧ r.code = causeCode e.1 ∧ r.tval = e.2 ∧ r.pos = pos ∧ r.sector = 0 ∧ r.hdr = x.hdr
    let word (v : Nat) := v % 2 ^ 32
    let ends (i : Instr) := ∃ u, exec i s = .next u ∧ ((input u 0 = rx ∧ (u.op t slotMEMORY).elem = 0) ∨
      (input u 0 = x :: rx ∧ (u.op t slotMEMORY).record.isSome = true))
    let aop := bits r0 15 12
    let m := hLen x.hdr + 1
    let at' (z : Token) (j : Nat) := (laneOf (hType z.hdr) (z.lanes.get j).toNat).toNat
    let spmOf (u : State) := (u.isle (tileIsle t)).spm
    ((∀ h, (s.die h).fenced = false) →
      (fires 0 → ends (.memoryLoadseq t)) ∧ (fires 1 → ends (.memoryGather t)) ∧ (fires 2 → ends (.memoryStoreseq t)) ∧
      (fires 3 → o.input 1 = y :: ry → hKind y.hdr = 0 → ends (.memoryScatter t)) ∧
      (fires 4 → 8 < aop ∨ (o.input 1 = y :: ry ∧ hKind y.hdr = 0) → ends (.memoryAtomic t))) ∧
    (∀ vs : Nat → Nat, d.spm = true →
      (fires 0 → let c := min (lane x) (d.total - pos)
        let eos := bit r0 17 = true ∧ o.ended = false ∧ lane x ≠ 0 ∧ d.total ≤ pos + c
        (∀ j, j < c → memRead s t d (pos + j) = .ok (vs j, s)) → pos + c < 2 ^ 32 →
        ∃ u l e, gone (.memoryLoadseq t) u ∧ u.mem = s.mem ∧ (u.op t slotMEMORY).reg 1 = o.reg 1 + BitVec.ofNat 32 c ∧
          u.flights = s.flights ++ flying s t slotMEMORY 0 ds (l ++ e) ∧
          l.flatMap (fun p => (List.range (hLen p.hdr + 1)).map p.lanes.get)
            = (List.range c).map (fun j => laneOf d.fmt (word (vs j))) ∧
          (∀ p, p ∈ l → hKind p.hdr = 0 ∧ hType p.hdr = d.fmt) ∧ (¬ eos → e = [] ∧ (u.op t slotMEMORY).ended = o.ended) ∧
          (eos → (u.op t slotMEMORY).ended = true ∧ ∃ z, e = [z] ∧ hKind z.hdr = 1)) ∧
      (fires 1 → (∀ j, j < m → (x.lanes.get j).toNat < d.total → memRead s t d (x.lanes.get j).toNat = .ok (vs j, s)) →
        let past (j : Nat) := decide (d.total ≤ (x.lanes.get j).toNat)
        ∃ u, gone (.memoryGather t) u ∧ u.mem = s.mem ∧ u.flights = s.flights ++ flying s t slotMEMORY 0 ds
          [out ((List.range m).map (fun j => if past j then 0 else word (vs j))) (hIter x.hdr) ((List.range m).any past) false])) ∧
    (d.spm = true →
      (fires 2 → pos + m ≤ d.total → pos + m < 2 ^ 32 →
        (List.range m).foldlM (fun s j => memWrite s t d (pos + j) (x.lanes.get j).toNat) s = .ok s1 →
        ∃ u, gone (.memoryStoreseq t) u ∧ spmOf u = spmOf s1 ∧ u.mem = s.mem ∧ u.flights = s.flights ∧
          (u.op t slotMEMORY).reg 1 = o.reg 1 + BitVec.ofNat 32 m) ∧
      (fires 3 → two → (∀ j, j < m → at' x j < d.total) →
        (List.range m).foldlM (fun s j => memWrite s t d (at' x j) (y.lanes.get j).toNat) s = .ok s1 →
        ∃ u, gone (.memoryScatter t) u ∧ input u 1 = ry ∧ spmOf u = spmOf s1 ∧ u.mem = s.mem ∧ u.flights = s.flights) ∧
      (∀ l, fires 4 → aop ≤ 8 → two → d.fmt = 0 ∨ d.fmt = 1 →
        (List.range m).foldlM (fun (r : List Nat × State) j =>
          (memAtomic r.2 t d aop (at' x j) (y.lanes.get j).toNat).map (fun q => (r.1 ++ [q.1], q.2))) ([], s) = .ok (l, s1) →
        ∃ u, gone (.memoryAtomic t) u ∧ input u 1 = ry ∧ spmOf u = spmOf s1 ∧ u.mem = s.mem ∧
          u.flights = s.flights ++ flying s t slotMEMORY 0 ds
            [out (l.map word) (hIter x.hdr) (hSat y.hdr) (hInx y.hdr)])) ∧
    (fires 0 → lane x = 0 → ∃ u, gone (.memoryLoadseq t) u ∧ u.flights = s.flights ∧ u.mem = s.mem ∧
      (u.op t slotMEMORY).reg 1 = o.reg 1) ∧
    (fires 0 → lane x = 1 → pos < d.total → bit r0 17 = false → 0 < d.extents.headD 1 → memRead s t d pos = .ok (v, s1) →
      pos < 2 ^ 32 - 1 → ∃ u, gone (.memoryLoadseq t) u ∧ u.mem = s1.mem ∧ (u.op t slotMEMORY).reg 1 = o.reg 1 + 1 ∧
        u.flights = s1.flights ++ flying s t slotMEMORY 0 ds
          [out [word v] (if d.rank < 2 then 0 else pos / d.extents.headD 1 % d.extents.getD 1 1 % 1024) false false]) ∧
    (fires 0 → lane x = 1 → pos < d.total → 0 < d.extents.headD 1 → memRead s t d pos = .error e → e.1 ≠ .remoteFenced →
      faulted (.memoryLoadseq t)) ∧
    (fires 1 → hLen x.hdr = 0 → d.total ≤ lane x → ∃ u, gone (.memoryGather t) u ∧ u.mem = s.mem ∧
      u.flights = s.flights ++ flying s t slotMEMORY 0 ds [out [0] (hIter x.hdr) true false]) ∧
    (fires 1 → hLen x.hdr = 0 → lane x < d.total → memRead s t d (lane x) = .ok (v, s1) → ∃ u, gone (.memoryGather t) u ∧
      u.mem = s1.mem ∧ u.flights = s1.flights ++ flying s t slotMEMORY 0 ds [out [word v] (hIter x.hdr) false false]) ∧
    (fires 1 → hLen x.hdr = 0 → lane x < d.total → memRead s t d (lane x) = .error e → e.1 ≠ .remoteFenced →
      faulted (.memoryGather t)) ∧
    (fires 2 → hLen x.hdr = 0 → pos < d.total → pos < 2 ^ 32 - 1 → memWrite s t d pos (lane x) = .ok s1 →
      ∃ u, gone (.memoryStoreseq t) u ∧ u.mem = s1.mem ∧ u.flights = s1.flights ∧
        (u.isle (tileIsle t)).spm = (s1.isle (tileIsle t)).spm ∧ (u.op t slotMEMORY).reg 1 = o.reg 1 + 1) ∧
    (fires 2 → hLen x.hdr = 0 → pos < d.total → memWrite s t d pos (lane x) = .error e → e.1 ≠ .remoteFenced →
      faulted (.memoryStoreseq t)) ∧
    (fires 2 → hLen x.hdr = 0 → d.total ≤ pos → pos < 2 ^ 32 - 1 → ∃ u, gone (.memoryStoreseq t) u ∧
      u.mem = (orErrsum s (tileCtx s t) 4).mem ∧ (u.op t slotMEMORY).reg 1 = o.reg 1 + 1) ∧
    (fires 3 → two → hLen x.hdr = 0 → index x < d.total → memWrite s t d (index x) (lane y) = .ok s1 →
      ∃ u, gone (.memoryScatter t) u ∧ input u 1 = ry ∧ u.mem = s1.mem ∧ u.flights = s1.flights ∧
        (u.isle (tileIsle t)).spm = (s1.isle (tileIsle t)).spm ∧ (u.op t slotMEMORY).reg 1 = o.reg 1) ∧
    (fires 3 → o.input 1 = y :: ry → hKind y.hdr = 0 → hType y.hdr = d.fmt → hLen y.hdr ≠ hLen x.hdr →
      e = (.reservedField, 0) → faulted (.memoryScatter t)) ∧
    (fires 3 ∨ fires 4 ∧ bits r0 15 12 ≤ 8 → o.input 1 = [] →
      exec (.memoryScatter t) s = .next s ∧ exec (.memoryAtomic t) s = .next s) ∧
    (fires 4 → bits r0 15 12 ≤ 8 → two → hLen x.hdr = 0 → d.spm = true → (d.fmt = 0 ∨ d.fmt = 1) → index x < d.total →
      memRead s t d (index x) = .ok (v, s) → memWrite s t d (index x) (amoResult (bits r0 15 12) 32 v (lane y)) = .ok s1 →
      ∃ u, gone (.memoryAtomic t) u ∧ input u 1 = ry ∧ u.mem = s1.mem ∧
        (u.isle (tileIsle t)).spm = (s1.isle (tileIsle t)).spm ∧
        u.flights = s1.flights ++ flying s t slotMEMORY 0 ds [out [word v] (hIter x.hdr) (hSat y.hdr) (hInx y.hdr)]) ∧
    (fires 4 → d.spm = false → 8 < bits r0 15 12 → e = (.descInvalid, 0) → faulted (.memoryAtomic t)) ∧
    (fires 4 → 8 < bits r0 15 12 → bits r0 15 12 ≠ 11 → hLen x.hdr = 0 → d.spm = true → d.fmt = 5 → index x / 8 < d.total →
      memRead s t d (index x / 8) = .ok (v, s) →
      memWrite s t d (index x / 8) (if bits r0 15 12 = 10 then v - v / 2 ^ (index x % 8) % 2 * 2 ^ (index x % 8)
        else v ||| 2 ^ (index x % 8)) = .ok s1 →
      ∃ u, gone (.memoryAtomic t) u ∧ (u.isle (tileIsle t)).spm = (s1.isle (tileIsle t)).spm ∧
        u.flights = s1.flights ++ flying s t slotMEMORY 0 ds [out [v / 2 ^ (index x % 8) % 2] (hIter x.hdr) false false]) ∧
    (fires 4 → bits r0 15 12 = 11 → hLen x.hdr = 0 → d.spm = true → d.fmt = 5 → index x / 8 < d.total →
      memRead s t d (index x / 8) = .ok (v, s) → memWrite s t d (index x / 8) (v ||| 2 ^ (index x % 8)) = .ok s1 →
      ∃ u, gone (.memoryAtomic t) u ∧ (u.isle (tileIsle t)).spm = (s1.isle (tileIsle t)).spm ∧
        u.flights = s1.flights ++ flying s t slotMEMORY 0 ds
          (if v / 2 ^ (index x % 8) % 2 = 0 then [out [index x] (hIter x.hdr) false false] else [])) ∧
    (∀ b q, opLive s t slotMEMORY = true → bits r0 3 0 = 5 → o.held = none → routed s t slotMEMORY 0 ds →
      PortId.op t slotMEMORY 0 ∉ s.stuck → (s.die (tileDie t)).port.binding = some b → b.kind = BindKind.operator t →
      let port (u : State) := (u.die (tileDie t)).port
      (∀ n l, (port s).queue = .line n l :: q → ∃ u, exec (.memoryPort t) s = .next u ∧ (port u).queue = q ∧
        u.flights = s.flights ++ flying s t slotMEMORY 0 ds (lineTokens n l b.gapNext) ∧
        (port u).binding = some { b with gapNext := false }) ∧
      (∀ a z, (port s).queue = .gap a z :: q → ∃ u, exec (.memoryPort t) s = .next u ∧ (port u).queue = q ∧
        u.flights = s.flights ++ flying s t slotMEMORY 0 ds [gapToken a z] ∧
        (port u).binding = some { b with gapNext := true }) ∧
      ((port s).queue = [] → b.ending = false → exec (.memoryPort t) s = .next s) ∧
      ((port s).queue = [] → b.ending = true → ∃ u, exec (.memoryPort t) s = .next u ∧ (port u).binding = none))

/-! ### The copy engine -/

/-- R229 to R233, R235, R236: descriptors and boxes. An entry that cannot be read gives the memory cause with its address; its checks come
in the order of R233 with the identifier in tval. A swizzle exchanges 16-byte chunks within a span of 128 bytes and is its own
inverse. Every element of a box is moved once: from its place plus the origins to its place, or the other way with CSIDE, as zero where its
source index is out of range and not at all where its destination index is. -/
def Sys2Proof.Claims.DescriptorsAndBoxes : Prop :=
  (∀ (s s1 : State) (rq : Req) (id : Nat) (accept : BitVec 4 → Bool) (l : List Byte) (c : Cause) (x : Word64),
    let a := ctxDtab s rq.ctx + 256 * id
    let read := readVa s rq a 256 (pieces 256)
    (read = .error (c, x) → readDesc s rq id accept = .error (c, BitVec.ofNat 64 a)) ∧
    (∀ e, read = .ok (l, s1) → parseDesc id accept l = .error e → readDesc s rq id accept = .error e) ∧
    (∀ d, read = .ok (l, s1) → parseDesc id accept l = .ok d → readDesc s rq id accept = .ok (d, s1))) ∧
  (∀ (id : Nat) (accept : BitVec 4 → Bool) (l : List Byte),
    let f (o n : Nat) := numOf ((l.drop o).take n)
    let ctrl := f 0x10 4
    let code := ctrl % 16
    let rank := ctrl / 16 % 16
    let swz := ctrl / 2 ^ 8 % 4
    let spm := ctrl / 2 ^ 10 % 4
    let scales := ctrl / 2 ^ 12 % 4
    let first := f 0 8 + 64 * spm
    let extent (k : Nat) := f (0x18 + 4 * k) 4
    let stride (k : Nat) : Int := (BitVec.ofNat 40 (f (0x50 + 8 * k) 8)).toInt
    let block := 11 ≤ code ∧ code ≤ 13
    let size := [4, 4, 2, 2, 1, 1, 4, 2, 2, 1, 1].getD code 0
    let clean := ctrl / 2 ^ 14 % 2 ^ 17 = 0 ∧ f 0x14 4 = 0 ∧ f 0xC0 64 = 0 ∧ (scales = 0 → f 8 8 = 0) ∧
      (∀ k, k < rank → k < 14 → f (0x50 + 8 * k) 8 < 2 ^ 40) ∧
      ∀ k, rank ≤ k → k < 14 → extent k = 0 ∧ f (0x50 + 8 * k) 8 = 0
    let fails (c : Cause) := parseDesc id accept l = .error (c, BitVec.ofNat 64 id)
    let valid := ctrl / 2 ^ 31 % 2 = 1 ∧ clean ∧ spm < 2 ∧ scales < 2
    let sized := valid ∧ 0 < rank ∧ rank < 15
    let taken := sized ∧ code < 14 ∧ accept (BitVec.ofNat 4 ctrl) = true
    let shaped := (block → scales = 1 ∧ stride 0 = 0 ∧ extent 0 % 16 = 0) ∧
      (¬ block → scales = 0 ∧ first % size = 0 ∧ ∀ k, k < rank → stride k % size = 0) ∧ (spm = 0 → swz = 0)
    (¬ valid → fails .descInvalid) ∧ (valid → rank = 15 → fails .dimLimit) ∧ (valid → rank = 0 → fails .descInvalid) ∧
    (sized → 14 ≤ code ∨ accept (BitVec.ofNat 4 ctrl) = false → fails .formatUnsupported) ∧
    (taken → ¬ shaped → fails .descInvalid) ∧
    (taken → shaped → parseDesc id accept l = .ok ⟨id, f 0 8, f 8 8, BitVec.ofNat 4 ctrl, rank, BitVec.ofNat 2 swz, spm == 1,
      (List.range rank).map extent, (List.range rank).map stride⟩)) ∧
  (∀ (z : BitVec 2) (d : Nat),
    let r := (swizzle z d).toNat
    0 ≤ swizzle z d ∧ r / 128 = d / 128 ∧ r % 16 = d % 16 ∧
      r / 16 % 8 = (d / 16 % 8) ^^^ (d / 128 % 2 ^ z.toNat) ∧ swizzle z (swizzle z d) = d) ∧
  (∀ (src dst : Desc) (coord : Word64) (cside : Bool) (j : List Int),
    let box := if cside then src else dst
    let c : List Int := (List.range src.rank).map (fun k =>
      if k < 4 then (coord.extractLsb' (16 * k) 16).toInt else 0)
    let at' (i : List Int) : List Int := List.zipWith (· + ·) c i
    let from' := if cside then j else at' j
    let dest := if cside then at' j else j
    let place (d : Desc) (i : List Int) : Int := (List.zipWith (· * ·) i d.strides).foldl (· + ·) 0
    let inside (d : Desc) (i : List Int) := ∀ p, p ∈ i.zip d.extents → 0 ≤ p.1 ∧ p.1 < (p.2 : Int)
    let row := nest j box.extents
    let items := copyItems src dst coord cside
    box.extents ≠ [] → j.length = box.extents.length → inside box j → fmtIsBlock src.fmt = false → fmtIsBlock dst.fmt = false →
      (inside dst dest → ∃ x, items.filter (fun x => (x.elem : Int) == row) = [x] ∧ x.scale = false ∧ x.n = fmtBytes src.fmt ∧
        x.dst = place dst dest ∧ (inside src from' → x.src = some (place src from')) ∧ (¬ inside src from' → x.src = none)) ∧
      (¬ inside dst dest → items.filter (fun x => (x.elem : Int) == row) = []))

/-- R234 to R241, R245 to R247, R249, R252, R254: the instructions that give the copy engine its work. A tag of 64 and above raises
RESERVED_FIELD, a pending one TAG_BUSY; then the checks of R237 in order. With eight operations accepted the core waits;
otherwise the operation joins the list, its tag becomes pending, and the core goes on; a copy or a stream out of an empty box
completes its tag at once, where its engine has credit. CTARM arms a template, CTDIS disarms it and answers its count. -/
def Sys2Proof.Claims.CopyAcceptance : Prop :=
  ∀ (s s1 : State) (k : Nat) (d a b : BitVec 5) (t : BitVec 8) (src dst : Desc), CoreReady .user false s k →
    let w := gGet s k a
    let co := gGet s k b
    let c := (s.isle k).ctx
    let pending := bit (s.isle k).ctb t.toNat = false
    let box (o : CopyOp) := o.ctx = (s1.isle k).ctx ∧ o.coord = co ∧ o.cside = bit w 18 ∧ o.pos = 0 ∧ o.sector = 0 ∧
      o.record = none ∧ o.firing = none ∧ o.tok = bit w 51 ∧ o.tdest = bits w 50 32 ∧ o.id = s1.opIds
    let joined (i : Instr) (f : CopyOp → Prop) : Prop :=
      ∃ u o, exec i s = .next (retireCore u k 4 none) ∧ (u.isle k).ops = (s1.isle k).ops ++ [o] ∧ f o ∧ u.mem = s1.mem ∧
        u.opIds = s1.opIds + 1 ∧ ∀ g, o.tag = some g → bit (u.isle k).ctb g = false
    let room := (s1.isle k).ops.countP (fun o => o.firing.isNone) < 8
    let full (i : Instr) := exec i s = .next (holdCore s k .reissue)
    let bad (i : Instr) := exec i s = traps s k .reservedField w
    let e := copyItems src dst co (bit w 18)
    let credit := PortId.engine k ∉ s1.stuck
    (64 ≤ t.toNat → exec (.cpy a b t 0) s = traps s k .reservedField 0 ∧ exec (.strmo a b t 0) s = traps s k .reservedField 0 ∧
      exec (.strmb t 0) s = traps s k .reservedField 0) ∧
    (t.toNat < 64 → pending → let v : Word64 := BitVec.ofNat 64 t.toNat
      exec (.cpy a b t 0) s = traps s k .tagBusy v ∧ exec (.strmo a b t 0) s = traps s k .tagBusy v ∧
      exec (.strmb t 0) s = traps s k .tagBusy v) ∧
    (wordOk w true true true false = false → (t.toNat < 64 → ¬ pending → bad (.cpy a b t 0)) ∧ bad (.cpyb d a b 0)) ∧
    (t.toNat < 64 → ¬ pending → wordOk w true false false true = false → bad (.strmo a b t 0)) ∧
    (∀ s' x v, copyChecks k w co none s = .error (.trap s' x v) → t.toNat < 64 → ¬ pending →
      exec (.cpy a b t 0) s = .next (raiseCore s' k x v)) ∧
    (∀ s' x v, copyChecks k w co (some (gGet s k d)) s = .error (.trap s' x v) →
      exec (.cpyb d a b 0) s = .next (raiseCore s' k x v)) ∧
    (t.toNat < 64 → ¬ pending → copyChecks k w co none s = .ok (src, dst, s1) →
      (¬ room → full (.cpy a b t 0)) ∧
      (room → e ≠ [] → joined (.cpy a b t 0) (fun o => box o ∧ o.kind = .copy ∧ o.src = src ∧ o.dst = dst ∧
        o.tag = some t.toNat ∧ o.barrier = none)) ∧
      (room → e = [] → credit → ∃ u, exec (.cpy a b t 0) s = .next (retireCore u k 4 none) ∧ u.mem = s1.mem ∧
        bit (u.isle k).ctb t.toNat = true ∧ (u.isle k).cerr = (s1.isle k).cerr)) ∧
    (copyChecks k w co (some (gGet s k d)) s = .ok (src, dst, s1) →
      (¬ room → full (.cpyb d a b 0)) ∧
      (room → e ≠ [] → joined (.cpyb d a b 0) (fun o => box o ∧ o.kind = .copy ∧ o.src = src ∧ o.dst = dst ∧ o.tag = none ∧
        o.barrier = some (gGet s k d))) ∧
      (room → e = [] → credit → ∃ u, exec (.cpyb d a b 0) s = .next (retireCore u k 4 none) ∧ u.mem = s1.mem ∧
        (u.isle k).ctb = (s1.isle k).ctb ∧ (u.isle k).cerr = (s1.isle k).cerr)) ∧
    (t.toNat < 64 → ¬ pending → wordOk w true false false true = true →
      readDesc s (engReq s (.core k) .copy c) (bits w 15 8) (fun f => !fmtIsBlock f) = .ok (src, s1) →
      (destOk (declaringJob s c (bits w 50 32 % 64)) (bits w 50 32) = false →
        exec (.strmo a b t 0) s = traps s k .routeInvalid 0) ∧
      (destOk (declaringJob s c (bits w 50 32 % 64)) (bits w 50 32) = true → ∀ v,
        spmOperand s1 k c src (origins co src.rank) src.extents 0 true = v →
        (∀ x y, v = some (x, y) → exec (.strmo a b t 0) s = traps s k x y) ∧ (v = none → ¬ room → full (.strmo a b t 0)) ∧
        (v = none → room → src.empty = false → joined (.strmo a b t 0) (fun o => box o ∧ o.kind = .streamOut ∧ o.src = src ∧
          o.tag = some t.toNat)) ∧
        (v = none → room → src.empty = true → credit → ∃ u, exec (.strmo a b t 0) s = .next (retireCore u k 4 none) ∧
          u.mem = s1.mem ∧ bit (u.isle k).ctb t.toNat = true ∧ (u.isle k).cerr = (s1.isle k).cerr ∧
          u.flights.length = s1.flights.length + 1))) ∧
    (t.toNat < 64 → ¬ pending → s1 = s → (¬ room → full (.strmb t 0)) ∧
      (room → joined (.strmb t 0) (fun o => o.kind = .mark ∧ o.tag = some t.toNat ∧ o.id = s.opIds ∧ o.record = none))) ∧
    (let tpl (u : State) := (u.isle k).template t.toNat
     let bar := if d = 0 then none else some (gGet s k d)
     (16 ≤ t.toNat → exec (.ctarm d a b t) s = traps s k .reservedField 0 ∧ exec (.ctdis d t 0) s = traps s k .reservedField 0) ∧
     (t.toNat < 16 → (tpl s).armed = true →
       exec (.ctarm d a b t) s = traps s k .tagBusy (BitVec.ofNat 64 (256 + t.toNat)) ∧
       ((tpl s).busy = true → ∃ u, exec (.ctdis d t 0) s = .next (holdCore u k .reissue) ∧ (tpl u).stopped = true ∧
         (tpl u).armed = true) ∧
       ((tpl s).busy = false → ∃ u, exec (.ctdis d t 0) s
           = .next (retireCore (gSet u k d (BitVec.ofNat 64 (tpl s).count)) k 4 none) ∧ tpl u = Template.reset ∧
         u.mem = s.mem)) ∧
     (t.toNat < 16 → (tpl s).armed = false →
       exec (.ctdis d t 0) s = wrote s k 4 d 0 ∧
       (copyChecks k w co bar s = .ok (src, dst, s1) → ∃ u, exec (.ctarm d a b t) s = .next (retireCore u k 4 none) ∧
         (tpl u).armed = true ∧ (tpl u).word = w ∧ (tpl u).base = co ∧ (tpl u).src = src ∧ (tpl u).dst = dst ∧
         (tpl u).barrier = bar ∧ (tpl u).count = 0 ∧ (tpl u).busy = false ∧ (tpl u).stopped = false ∧ u.mem = s1.mem ∧
         (u.isle k).ops = (s1.isle k).ops)))

/-- R186, R236, R238, R239, R242 to R244, R248, R252, R254, R390: what the copy engine does with its operations. A sector of a copy
carries every byte from its source to its place, zeros for elements outside the source, where source and destination do not overlap
(R236); a sector that is done counts in its barrier; a copy, a stream out and a mark complete their tags and leave the list, and a
copy with TOK sends its ORD and completion token; a fault freezes the operation with a record that says where it stopped; an
uncorrectable error fences the job; a token at an armed template fires a copy whose coordinates its lanes move, or stops it with a
record where they break R235; one that feeds a held page takes no token (log entry 84). What sends tokens takes place with credit
(R75). -/
def Sys2Proof.Claims.CopyProgress : Prop :=
  ∀ (s s1 : State) (k n : Nat) (o : CopyOp),
    let ended (i : Instr) (g : Nat) : Prop := ∃ u, exec i s = .next u ∧ (∀ x, x ∈ (u.isle k).ops → x.id ≠ o.id) ∧
      bit (u.isle k).ctb g = true
    let credit := PortId.engine k ∉ s.stuck
    let room := credit ∧ PortId.barrier k ∉ s.stuck
    (∀ x, opReady s k n .copy = some o → o.sector + 1 < o.sectors → o.barrier = none → o.pos = 0 → o.src.spm = true →
      o.dst.spm = true → coordBad o.src.fmt o.coord = false → o.sectorParts o.sector = [x] →
      (∀ j, j < x.n → spmEngineFault (s.isle k) o.ctx (byteAt o.dst x.scale x.dst j) true = none) →
      (∀ z j, x.src = some z → j < x.n → spmEngineFault (s.isle k) o.ctx (byteAt o.src x.scale z j) false = none) →
      ∃ u, exec (.sectorDecrement k n) s = .next u ∧ u.mem = s.mem ∧
        (u.isle k).ops = (s.isle k).ops.map (fun y => if y.id = o.id then { o with sector := o.sector + 1 } else y) ∧
        (o.overlaps s k = false → ∀ j, j < x.n → (u.isle k).spm.get 0 (byteAt o.dst x.scale x.dst j).toNat
          = match x.src with
            | none => 0
            | some z => (s.isle k).spm.get 0 (byteAt o.src x.scale z j).toNat) ∧
        ∀ y, (∀ j, j < x.n → y ≠ (byteAt o.dst x.scale x.dst j).toNat) →
          (u.isle k).spm.get 0 y = (s.isle k).spm.get 0 y) ∧
    (opReady s k n .copy = some o → o.sectors ≤ o.sector + 1 → exec (.sectorDecrement k n) s = .next s) ∧
    (opReady s k n .copy = some o → o.sector + 1 < o.sectors → coordBad o.src.fmt o.coord = false →
      moveParts (o.overlaps s k) k o ((o.sectorParts o.sector).drop o.pos) s 0 = .ok s1 →
      let s2 := markWrote (clearWhole s1 k o) k o
      let next := { o with pos := 0, sector := o.sector + 1 }
      (o.barrier = none → exec (.sectorDecrement k n) s = .next (putOp s2 k next)) ∧
      (∀ a b s3, o.barrier = some a → barLocate s2 k o.ctx (opReq s2 k o) false a .atomic = .ok (b, s3) →
        barValid (barPeek s3 b) b.spm = true → 0 < bSect (barPeek s3 b) → exec (.sectorDecrement k n) s
          = .next (putOp (barStep s3 b (withField (barPeek s3 b) 47 24 (bSect (barPeek s3 b) - 1)) true).1 k next))) ∧
    (∀ g, opReady s k n .copy = some o → completeCopy s k o = .ok s1 → o.tag = some g → g < 64 → room →
      ended (.copyComplete k n) g) ∧
    (opReady s k n .copy = some o → completeCopy s k o = .ok s1 → room → ∃ u wakes, exec (.copyComplete k n) s = .next u ∧
      u.mem = s1.mem ∧ (u.isle k).spm = (s1.isle k).spm ∧ (o.barrier = none → wakes = []) ∧
      (o.tok = false → u.flights = s.flights ++ wakes) ∧
      (o.tok = true → ∃ t lane0, u.flights.map (·.tok)
          = (s.flights ++ wakes).map (·.tok) ++ completionTokens o.ctx o.tdest t lane0 o.sectors ∧
        (∀ g, o.tag = some g → o.firing = none → lane0 = g) ∧
        ∀ q, o.firing = some q → lane0 = ((s.isle k).template q).count + 1)) ∧
    (∀ g, opReady s k n .streamOut = some o → completeStream s k o = .ok s1 → o.tag = some g → g < 64 → o.barrier = none →
      credit → ended (.strmoComplete k n) g ∧
        ∃ u, exec (.strmoComplete k n) s = .next u ∧
          u.flights.length = s.flights.length + ((streamGroups o).length - o.pos) + 1) ∧
    (∀ g, opReady s k n .mark = some o → o.tag = some g → g < 64 → o.barrier = none →
      let waits := (∃ y, y ∈ (s.isle k).ops.take n ∧ y.kind = .copy ∧
          (y.dst.spm = true ∨ ∃ a, y.barrier = some a ∧ bit a 0 = false)) ∨
        (∃ b, (s.die (isleDie k)).port.binding = some b ∧ b.isle = k ∧ b.buf ≠ none ∧ b.seq < o.id)
      (¬ waits → ended (.strmbComplete k n) g) ∧ (waits → exec (.strmbComplete k n) s = .next s)) ∧
    (∀ c v o1 p, (s.isle k).ops[n]? = some o → opMay s k n o = true → attemptOp s k o = .error (.fault c v o1 s1, p) →
      c ≠ .remoteFenced → room → exec (.copyComplete k n) s = .next s ∧
      ∃ u r, exec (.transferFault k n) s = .next u ∧ reported u k r ∧ r.agent = 3 ∧ r.code = causeCode c ∧ r.tval = v ∧
        r.pos = p ∧ r.sector = o1.sector ∧ r.opid = o1.id ∧ r.job = o1.job ∧ r.ctx = o1.ctx ∧
        ∀ y, y ∈ (u.isle k).ops → y.id = o1.id → y.record.isSome = true) ∧
    (∀ c v o1 p, (s.isle k).ops[n]? = some o → opMay s k n o = true → attemptOp s k o = .error (.ue c v o1 s1, p) →
      o1.barrier = none → room → ∃ u r, exec (.sourceUe k n) s = .next u ∧ reported u k r ∧ r.agent = 3 ∧ r.code = causeCode c ∧
        r.tval = v ∧ r.pos = p ∧ u.findJob o1.ctx o1.job = none) ∧
    (∀ e, (s.isle k).dir[n]? = some e →
      (e.eos = true → e.refs = 0 → hdrEngine ((s.isle k).header e.base) = false →
        ∃ u, exec (.bufferEdgeRemove k n) s = .next u ∧ u.mem = s.mem ∧
          (u.isle k).dir = (s.isle k).dir.filter (fun f => f.base != e.base)) ∧
      (e.eos = false ∨ e.refs ≠ 0 → exec (.bufferEdgeRemove k n) s = .next s)) ∧
    (∀ q tok r, let t := (s.isle k).template q
      let toks (u : State) := ((u.isle k).hwq.get HwQueue.reset q).toks
      toks s = tok :: r →
      let on := ingressOn s t.ctx (bit t.word 51) (wordDest t.word) = true
      (t.armed = false ∨ t.busy = true ∨ t.stopped = true ∨ ¬ on → exec (.triggerToken k q) s = .next s) ∧
      (q < 16 → t.armed = true → t.busy = false → t.stopped = false → isleRuns s k = true → on → credit →
        (hKind tok.hdr = 1 → ∃ u, exec (.triggerToken k q) s = .next u ∧ toks u = r ∧ (u.isle k).template q = Template.reset) ∧
        (hKind tok.hdr = 4 → ∃ u, exec (.triggerToken k q) s = .next u ∧ toks u = r ∧
          (u.isle k).engPts = max (s.isle k).engPts (tok.lanes.l0.toNat + 2 ^ 32 * (tok.lanes.l1.toNat % 2 ^ 16))) ∧
        (hKind tok.hdr = 0 → coordBad t.src.fmt (firedCoord t.base tok) = true → ∃ u x, exec (.triggerToken k q) s = .next u ∧
          toks u = r ∧ reported u k x ∧ x.agent = 3 ∧ x.code = causeCode .descInvalid ∧ x.tval = firedCoord t.base tok ∧
          ((u.isle k).template q).busy = true ∧ ((u.isle k).template q).count = t.count) ∧
        (hKind tok.hdr = 0 → coordBad t.src.fmt (firedCoord t.base tok) = false →
          copyItems t.src t.dst (firedCoord t.base tok) (bit t.word 18) ≠ [] →
          ∃ u f, exec (.triggerToken k q) s = .next u ∧ toks u = r ∧ (u.isle k).ops = (s.isle k).ops ++ [f] ∧
            ((u.isle k).template q).busy = true ∧ f.firing = some q ∧ f.src = t.src ∧ f.dst = t.dst ∧ f.tag = none ∧
            f.ctx = t.ctx ∧ ∀ i, i < 4 → bits f.coord (16 * i + 15) (16 * i)
              = (bits t.base (16 * i + 15) (16 * i) + if i ≤ hLen tok.hdr then (tok.lanes.get i).toNat else 0) % 2 ^ 16)))

/-- Descriptors and boxes, and acceptance and progress of copies, templates and streams out: DescriptorsAndBoxes, CopyAcceptance
and CopyProgress of Claims, together. -/
def Obligations.Copies : Prop := DescriptorsAndBoxes ∧ CopyAcceptance ∧ CopyProgress

/-- R240, R255: the waits on copy tags. CWANY answers the lowest of the tags named that reads 1, 64 where none is named, and waits
while none does; CWALL waits for all; CFFR answers at once, 64 where none reads 1. A core that waits stands at the
instruction. -/
def Obligations.CopyTagWaits : Prop :=
  ∀ (s : State) (k : Nat) (d a : BitVec 5), CoreReady .user false s k →
    let m := gGet s k a
    let hit := m &&& (s.isle k).ctb
    let least (v : Nat) := v < 64 ∧ bit hit v = true ∧ ∀ i, i < v → bit hit i = false
    let gives (i : Instr) (v : Nat) : Prop :=
      ∃ u, exec i s = .next (retireCore (gSet u k d (BitVec.ofNat 64 v)) k 4 none) ∧ u.mem = s.mem ∧
        (u.core k).g = (s.core k).g ∧ (u.isle k).ctb = (s.isle k).ctb ∧ (u.isle k).cerr = (s.isle k).cerr
    (m = 0 → gives (.cwany d a 0) 64) ∧
    (hit = 0 → gives (.cffr d a 0) 64) ∧
    (∀ v, least v → gives (.cwany d a 0) v ∧ gives (.cffr d a 0) v) ∧
    (m ≠ 0 → hit = 0 → exec (.cwany d a 0) s = .next (holdCore s k (.anyTag d m))) ∧
    (hit = m → ∃ u, exec (.cwall a 0 0) s = .next (retireCore u k 4 none) ∧ u.mem = s.mem ∧ (u.core k).g = (s.core k).g ∧
      (u.isle k).ctb = (s.isle k).ctb) ∧
    (hit ≠ m → exec (.cwall a 0 0) s = .next (holdCore s k (.allTags m)))

/-! ### Sensor stream ports -/

/-- R310, R415 to R420: the receiving side of a port. A frame is a line where its SYNC, TYPE, LEN and both CRCs hold; any other is discarded
and counted, unless it is a good frame of another type. The next line is queued, with a GAP before it where lines are missing;
an older line is counted as a duplicate; with no free slot the line is dropped, counted and joins the missing run. ADV sends
FREE and LAST. EN, FENCE, training and the loss of lock move the port between its states. -/
def Sys2Proof.Claims.PortLines : Prop :=
  ∀ (s : State) (d seq x : Nat) (l pad f : List Byte),
    let port (u : State) := (u.die d).port
    let p := port s
    let up := p.st = .up ∧ s.present d = true ∧ (s.die d).fenced = false
    let sat (n : Nat) := min (n + 1) (2 ^ 32 - 1)
    let hdr := bytesOf 0xD0F1 2 ++ bytesOf 1 1 ++ bytesOf x 1 ++ bytesOf seq 4 ++ bytesOf l.length 4
    let body := l ++ pad
    let frame := hdr ++ bytesOf (crc32c hdr).toNat 4 ++ body ++ bytesOf (crc32c body).toNat 8
    let taken (P : StreamPort → Prop) : Prop := ∃ u, exec (.lineFrame d frame) s = .next u ∧ P (port u)
    let unit (i : Instr) (P : StreamPort → Prop) : Prop := ∃ u, exec i s = .next u ∧ u.mem = s.mem ∧ P (port u)
    let gap := match p.exp with
      | none => 0
      | some e => (seq + 2 ^ 32 - e) % 2 ^ 32
    (up → parseFrame f = .bad → unit (.lineFrame d f) (fun q => q = { p with crcs := sat p.crcs })) ∧
    (up → parseFrame f = .other → exec (.lineFrame d f) s = .next s) ∧
    (p.st ≠ .up → exec (.lineFrame d f) s = .next s ∧ exec (.advTimer d) s = .next s ∧ exec (.portLockLost d) s = .next s) ∧
    (up → seq < 2 ^ 32 → 0 < l.length → l.length ≤ 16384 → body.length % 8 = 0 → pad.length < 8 →
      (2 ^ 31 ≤ gap → taken (fun q => q = { p with dups := sat p.dups })) ∧
      (gap = 0 → 0 < p.free → p.missing = none → taken (fun q =>
        q = { p with queue := p.queue ++ [.line seq l], last := seq, exp := some ((seq + 1) % 2 ^ 32) })) ∧
      (∀ e, p.exp = some e → 0 < gap → gap < 2 ^ 31 → 0 < p.free → p.missing = none → taken (fun q =>
        q.queue = p.queue ++ [.gap e ((seq + 2 ^ 32 - 1) % 2 ^ 32), .line seq l] ∧ q.missing = none ∧ q.last = seq ∧
          q.exp = some ((seq + 1) % 2 ^ 32))) ∧
      (gap = 0 → p.free = 0 → taken (fun q => q.queue = p.queue ∧ q.drops = sat p.drops ∧ q.last = p.last ∧
        q.exp = some ((seq + 1) % 2 ^ 32) ∧ q.missing = some (match p.missing with
          | none => (seq, seq)
          | some (a, _) => (a, seq)))) ∧
      (∀ b, gap = 0 → p.free = 0 → p.binding = some b → p.ove = true → (s.core b.isle).overflow = none →
        ∃ u, exec (.lineFrame d frame) s = .next u ∧ (u.core b.isle).overflow = some seq)) ∧
    (p.st = .up → unit (.advTimer d) (fun q => q = { p with adv := some (p.free, p.last) })) ∧
    unit (.portEnable d) (fun q => q = { p with en := true, st := if p.st = .down then .training else p.st }) ∧
    (p.st = .down → unit (.portDisable d) (fun q => q = { p with en := false })) ∧
    (p.st = .fenced → unit (.portDisable d) (fun q => q = { p with en := false, st := .down, fence := false })) ∧
    (p.st = .training ∨ p.st = .up →
      unit (.portDisable d) (fun q => q.en = false ∧ q.st = .down ∧ q.queue = p.queue ∧
        q.binding = p.binding.map (fun b => { b with ending := true })) ∧
      unit (.portFence d) (fun q => q.st = .fenced ∧ q.fence = true ∧ q.queue = p.queue ∧
        q.binding = p.binding.map (fun b => { b with ending := true }))) ∧
    (p.st = .down ∨ p.st = .fenced → unit (.portFence d) (fun q => q = p)) ∧
    (p.st = .training → unit (.portTrained d) (fun q => q = { p with st := .up, exp := none })) ∧
    (p.st ≠ .training → unit (.portTrained d) (fun q => q = p)) ∧
    (p.st = .up → unit (.portLockLost d) (fun q => q.st = .training ∧ q.queue = p.queue ∧ q.exp = p.exp ∧
      q.binding = p.binding ∧ (q.crcs = p.crcs ∨ q.crcs = sat p.crcs)))

/-- R237, R245, R250, R251, R253, R420: STRMI and STRMS bind the port of the die to memory or to the fabric, after the checks in
their order; STOP ends the binding of its tag and completes the tag, and without one does nothing. Where the port has credit
for the tokens it sends (R75), a bound line leaves as tokens, or is written to its row of the ring and published, with an ORD
and its completion token; a GAP leaves as a token and marks the next one (R62); a fault stops the binding with a record after
the writes before it. -/
def Sys2Proof.Claims.StreamBindings : Prop :=
  ∀ (s s1 : State) (k : Nat) (d a : BitVec 5) (t : BitVec 8) (v : Desc),
    let die := isleDie k
    let port (u : State) := (u.die die).port
    let w := gGet s k a
    let c := (s.isle k).ctx
    let ring := gGet s k d
    let n := t.toNat
    let desc := readDesc s (engReq s (.core k) .copy c) (bits w 7 0) (fun f => !fmtIsBlock f)
    let free := n < 64 ∧ bit (s.isle k).ctb n = true ∧ (port s).binding = none
    let routed := bit w 51 = true → destOk (declaringJob s c (bits w 50 32 % 64)) (bits w 50 32) = true
    let room (u : State) := (u.isle k).ops.countP (fun o => o.firing.isNone) < 8
    let ends (i : Instr) : Prop :=
      ∃ u, exec i s = .next (retireCore u k 4 none) ∧ (port u).binding = none ∧ (port u).queue = [] ∧
        bit (u.isle k).ctb n = true ∧ u.mem = s.mem
    let binds (i : Instr) (f : Binding → Prop) : Prop :=
      ∃ u b, exec i s = .next (retireCore u k 4 none) ∧ (port u).binding = some b ∧ (port u).bound = (port s1).nslot ∧
        bit (u.isle k).ctb n = false ∧ u.mem = s1.mem ∧ u.opIds = s1.opIds + 1 ∧ b.seq = s1.opIds ∧ b.isle = k ∧
        b.tag = some n ∧ b.ctx = c ∧ b.tok = bit w 51 ∧
        b.tdest = bits w 50 32 ∧ b.ending = false ∧ b.record = none ∧ f b
    (CoreReady .user true s k →
      (∀ p, (s.core k).pfx = some p → p ≠ 0 → n < 64 → let v := BitVec.ofNat 64 p.toNat
        exec (.strmi d a t 0) s = traps s k .reservedField v ∧ exec (.strms a t 0 0) s = traps s k .reservedField v) ∧
      (64 ≤ n → exec (.strmi d a t 0) s = traps s k .reservedField 0 ∧ exec (.strms a t 0 0) s = traps s k .reservedField 0) ∧
      (n < 64 → (∀ b, (port s).binding = some b → b.isle = k → b.tag = some n → b.buf = none →
          ends (.strmiStop 0 0 t 0) ∧ ends (.strmsStop 0 t 0 0)) ∧
        ((∀ b, (port s).binding = some b → b.isle ≠ k ∨ b.tag ≠ some n) →
          exec (.strmiStop 0 0 t 0) s = .next (retireCore s k 4 none) ∧
          exec (.strmsStop 0 t 0 0) s = .next (retireCore s k 4 none)))) ∧
    (CoreReady .user true s k → (s.core k).pfx.getD 0 = 0 →
      (n < 64 → bit (s.isle k).ctb n = false → exec (.strmi d a t 0) s = traps s k .tagBusy (BitVec.ofNat 64 n) ∧
        exec (.strms a t 0 0) s = traps s k .tagBusy (BitVec.ofNat 64 n)) ∧
      (n < 64 → bit (s.isle k).ctb n = true → (port s).binding ≠ none →
        exec (.strmi d a t 0) s = traps s k .tagBusy 0x100 ∧ exec (.strms a t 0 0) s = traps s k .tagBusy 0x100) ∧
      (free → wordOk w false false false true = false → exec (.strms a t 0 0) s = traps s k .reservedField w) ∧
      (free → wordOk w false true false false = false → exec (.strmi d a t 0) s = traps s k .reservedField w) ∧
      (free → wordOk w false false false true = true →
        (¬ routed → exec (.strms a t 0 0) s = traps s k .routeInvalid 0) ∧
        (routed → (port s).st ≠ .up → exec (.strms a t 0 0) s = traps s k .linkDown 0) ∧
        (routed → (port s).st = .up → ¬ room s → exec (.strms a t 0 0) s = .next (holdCore s k .reissue)) ∧
        (routed → (port s).st = .up → room s → s1 = s → binds (.strms a t 0 0) (fun b => b.kind = .fabric))) ∧
      (∀ e y, free → wordOk w false true false false = true → desc = .error (e, y) →
        exec (.strmi d a t 0) s = traps s k e y) ∧
      (free → wordOk w false true false false = true → desc = .ok (v, s1) →
        let shape := v.rank = 2 ∧ v.strides.headD 0 = (fmtBytes v.fmt : Int)
        let fault := spmOperand s1 k c v (origins 0 2) v.extents 0 false
        (¬ shape → exec (.strmi d a t 0) s = traps s k .descInvalid (BitVec.ofNat 64 v.tid)) ∧
        (shape → ¬ routed → exec (.strmi d a t 0) s = traps s k .routeInvalid 0) ∧
        (∀ e y, shape → routed → fault = some (e, y) → exec (.strmi d a t 0) s = traps s k e y) ∧
        (shape → routed → fault = none → ring.toNat % 16 ≠ 0 → exec (.strmi d a t 0) s = traps s k .misalignData ring) ∧
        (shape → routed → fault = none → ring.toNat % 16 = 0 → (port s1).st = .up → room s1 →
          (s1.isle k).ctx = c → binds (.strmi d a t 0) (fun b => b.kind = .memory ∧ b.desc = some v ∧ b.ring = ring.toNat)))) ∧
    (∀ b q, liveBinding s die = some b →
      let out (l : List Token) : List Flight :=
        if b.tok then l.map (fun z => flightOf s (.stream die) die none ⟨reHdr z.hdr b.tdest b.ctx, z.lanes⟩) else []
      let credit := b.tok = true → PortId.stream die ∉ s.stuck
      let later (g : Bool) := some { b with gapNext := g }
      (b.kind = .fabric → credit →
        (∀ sq l, (port s).queue = .line sq l :: q → ∃ u, exec (.streamLineTokens die) s = .next u ∧ (port u).queue = q ∧
          u.flights = s.flights ++ out (lineTokens sq l b.gapNext) ∧ (port u).binding = later false ∧ u.mem = s.mem) ∧
        (∀ x z, (port s).queue = .gap x z :: q → ∃ u, exec (.streamLineTokens die) s = .next u ∧ (port u).queue = q ∧
          u.flights = s.flights ++ out [gapToken x z] ∧ (port u).binding = later true ∧ u.mem = s.mem) ∧
        ((port s).queue = [] → b.ending = true → ∃ u, exec (.streamLineTokens die) s = .next u ∧ (port u).binding = none ∧
          u.flights = s.flights ++ out [endToken]) ∧
        exec (.streamLineStore die) s = .next s) ∧
      (b.kind = .memory → b.desc = some v → credit →
        exec (.streamLineTokens die) s = .next s ∧
        ((port s).queue = [] → b.ending = true → ∃ u, exec (.streamLineStore die) s = .next u ∧ (port u).binding = none ∧
          u.flights = s.flights ++ out [endToken]) ∧
        (∀ x z, (port s).queue = .gap x z :: q → ∃ u, exec (.streamLineStore die) s = .next u ∧ (port u).queue = q ∧
          u.flights = s.flights ++ out [gapToken x z] ∧ (port u).binding = later true ∧ u.mem = s.mem) ∧
        (∀ sq l e y, (port s).queue = .line sq l :: q → storeLine s die b v sq l = .fault s1 e y → e ≠ .remoteFenced →
          ∃ u r, exec (.streamLineStore die) s = .next u ∧ reported u b.isle r ∧ r.agent = 5 ∧ r.code = causeCode e ∧
            r.tval = y ∧ u.mem = s1.mem ∧ u.flights = s1.flights ∧ (port u).queue = .line sq l :: q) ∧
        (∀ sq l h s0, (port s).queue = .line sq l :: q →
          readVa s (engReq s (.binding b.isle) (.port die) b.ctx) b.ring 16 2 = .ok (h, s0) →
          let produced := numOf (h.take 8)
          let rows := v.extents.getD 1 0
          let room := v.extents.headD 0 * fmtBytes v.fmt
          let off := dataOff v [0, ((produced % rows : Nat) : Int)]
          (rows ≤ (produced + 2 ^ 64 - numOf (h.drop 8)) % 2 ^ 64 → exec (.streamLineStore die) s = .next s) ∧
          (∀ s2, (produced + 2 ^ 64 - numOf (h.drop 8)) % 2 ^ 64 < rows → v.spm = false → rowLoc s
              (engReq s (.binding b.isle) (.port die) b.ctx) v off (l.take room).length = false →
            itemWriteUpTo s0 b.isle (engReq s (.binding b.isle) (.port die) b.ctx) v false off (l.take room) = (s2, none) →
            writeVa s2 (engReq s (.binding b.isle) (.port die) b.ctx) b.ring (bytesOf (produced + 1) 8) 2 = .ok s1 →
            ∃ u, exec (.streamLineStore die) s = .next u ∧ u.mem = s1.mem ∧ (port u).queue = q ∧
              u.flights = s.flights ++ out [ordToken 0 0 b.tdest b.ctx (s1.die die).port.pts,
                ⟨mkHdr kDATA 1 1 0 0 b.tdest b.ctx b.gapNext (decide (room < l.length)) false,
                  Lanes.ofList [BitVec.ofNat 32 sq, BitVec.ofNat 32 l.length]⟩]))))

/-- The lines of a sensor port, and STRMI and STRMS bindings: PortLines and StreamBindings of Claims, together. -/
def Obligations.SensorPorts : Prop := PortLines ∧ StreamBindings

/-! ### Barriers -/

/-- R357 to R359, R361, R362, R364 to R367, R373 to R378: the barrier instructions on a barrier of the scratchpad that has no straggler
record. BINIT writes the word; an arrival takes its count from PEND, or adds it to EARLY for the next phase, and the last one
of a phase with no sector open completes the phase; a wait passes when the phase has moved on or ERR is set, and otherwise a
core holds and a cell goes on, armed where it asks for a wake token; BTEST reads a half of the word; BSEC adds sectors. -/
def Sys2Proof.Claims.BarrierInstructions : Prop :=
  ∀ (s : State) (x : Runner) (d ra rb rc : BitVec 5) (a v n : Word64),
    BothReady false 16 s x → readable x ra → readable x rb → readable x rc → writable x d →
    sGet s x ra = .ok a → sGet s x rb = .ok v → sGet s x rc = .ok n →
    let k := runnerIsle x
    let at' := a.toNat
    let word (u : State) : Nat := numOf ((u.isle k).spmRead at' 16)
    let w := word s
    let free := (s.isle k).spmOk (ctxOf s x) at' 16 = true ∧ (s.isle k).overlaps at' 16 = false ∧
      ∀ y, y ∈ (s.isle k).spmUe → y < at' ∨ at' + 16 ≤ y
    let ready := bits a 3 0 = 0 ∧ free ∧ barValid w true = true ∧ bSr w = false
    let ph := v.toNat % 16
    let delta := (ph + 16 - bPhase w) % 16
    let err : Nat := if bErr w then 16 else 0
    let steps (i : Instr) (r : Nat) (P : Nat → Prop) : Prop :=
      ∃ u, exec i s = retires s x (sSet u x d (BitVec.ofNat 64 r)) 4 16 ∧ P (word u) ∧ u.mem = s.mem ∧
        (∀ y, y < at' ∨ at' + 16 ≤ y → (u.isle k).spm.get 0 y = (s.isle k).spm.get 0 y)
    let arrivals (i : Instr) (c : Nat) (drop : Bool) : Prop :=
      let e := if drop then bExpect w - c else bExpect w
      (2 ≤ delta ∨ delta = 1 ∧ drop = true → exec i s = stops s x .barrierAhead 0) ∧
      (delta = 0 → bPend w < c ∨ drop = true ∧ bExpect w ≤ c → exec i s = stops s x .barrierOverarrive 0) ∧
      (delta = 1 → drop = false → bExpect w < bEarly w + c → exec i s = stops s x .barrierOverarrive 0) ∧
      (delta = 1 → drop = false → bEarly w + c ≤ bExpect w → bPend w ≠ 0 ∨ bSect w ≠ 0 →
        steps i (bPhase w + err + 64) (fun z => bEarly z = bEarly w + c ∧ bPend z = bPend w ∧ bPhase z = bPhase w ∧
          bExpect z = bExpect w ∧ bSect z = bSect w)) ∧
      (delta = 0 → c ≤ bPend w → (drop = true → c < bExpect w) → bPend w ≠ c ∨ bSect w ≠ 0 →
        steps i (bPhase w + err) (fun z => bPend z = bPend w - c ∧ bExpect z = e ∧ bPhase z = bPhase w ∧
          bEarly z = bEarly w ∧ bSect z = bSect w ∧ bErr z = bErr w)) ∧
      (delta = 0 → c = bPend w → bSect w = 0 → (drop = true → c < bExpect w) → bEarly w < e →
        steps i ((bPhase w + 1) % 16 + err + 32) (fun z => bPhase z = (bPhase w + 1) % 16 ∧ bPend z = e - bEarly w ∧
          bEarly z = 0 ∧ bExpect z = e ∧ bSect z = 0 ∧ bErr z = bErr w ∧
          fieldOf z 111 96 = (s.die (isleDie k)).cyc.toNat / 1024 % 2 ^ 16))
    (bits a 3 1 ≠ 0 → exec (.binit ra rb 0 0) s = stops s x .reservedField a ∧
      exec (.barr d ra rb 0) s = stops s x .reservedField a ∧ exec (.bsec ra rb 0 0) s = stops s x .reservedField a ∧
      exec (.btest d ra rb 0) s = stops s x .reservedField a) ∧
    (∀ t, x = .cell t → bit a 0 = true → exec (.barr d ra rb 0) s = stops s x .reservedField a ∧
      exec (.bwait d ra rb rc) s = stops s x .reservedField a) ∧
    (bits a 3 0 = 0 → (s.isle k).spmOk (ctxOf s x) at' 16 = false ∨ (s.isle k).overlaps at' 16 = true → v.toNat < 2 →
      exec (.btest d ra rb 0) s = stops s x .spmBounds a ∧ exec (.bsec ra rb 0 0) s = stops s x .spmBounds a) ∧
    (bits a 3 0 = 0 → free → barValid w true = false → v.toNat < 2 →
      exec (.btest d ra rb 0) s = stops s x .descInvalid a ∧ exec (.bsec ra rb 0 0) s = stops s x .descInvalid a ∧
      exec (.barr d ra rb 0) s = stops s x .descInvalid a) ∧
    (bits a 3 0 = 0 → free → v.toNat < 2 ^ 20 → v ≠ 0 →
      ∃ u, exec (.binit ra rb 0 0) s = retires s x u 4 16 ∧ u.mem = s.mem ∧ bPhase (word u) = 0 ∧ bPend (word u) = v.toNat ∧
        bExpect (word u) = v.toNat ∧ bSect (word u) = 0 ∧ bEarly (word u) = 0 ∧ bErr (word u) = false ∧
        barValid (word u) true = true) ∧
    (ready → v.toNat < 2 ^ 9 → arrivals (.barr d ra rb 0) 1 false) ∧
    (ready → v.toNat < 2 ^ 9 → 0 < n.toNat % 2 ^ 20 → n.toNat < 2 ^ 21 →
      arrivals (.barrx d ra rb rc) (n.toNat % 2 ^ 20) (bit n 20)) ∧
    (ready → v.toNat < 16 →
      let passes (low : Bool) := bErr w || (if low then bPhase w % 4 != ph % 4 else bPhase w != ph)
      (∀ j, x = .core j → (passes false = true → steps (.bwait d ra rb 0) (bPhase w + err + 32) (fun z => z = w)) ∧
        (passes false = false → exec (.bwait d ra rb 0) s = .next (holdCore s j (.barrier d a v false))) ∧
        (passes true = true → steps (.bwaitp d ra rb 0) (bPhase w + err + 32) (fun z => z = w)) ∧
        (passes true = false → exec (.bwaitp d ra rb 0) s = .next (holdCore s j (.barrier d a v true)))) ∧
      (∀ t, x = .cell t → n.toNat < 2 ^ 20 →
        let routed := destOk (s.findJob (tileCtx s t) (tileJob s t)) (n.toNat % 2 ^ 19)
        let wakes (u : State) := (u.isle k).wakes
        let forms (i : Instr) (low : Bool) : Prop :=
          (bit n 19 = true → routed = false → exec i s = stops s x .routeInvalid 0) ∧
          ((bit n 19 = true → routed = true) →
            (passes low = true → steps i (bPhase w + err + 32) (fun z => z = w)) ∧
            (passes low = false → bit n 19 = false → steps i (bPhase w + err) (fun z => z = w)) ∧
            (passes low = false → bit n 19 = true → 16 ≤ (wakes s).length → steps i (bPhase w + err + 128) (fun z => z = w)) ∧
            (passes low = false → bit n 19 = true → (wakes s).length < 16 → ∃ u,
              exec i s = retires s x (sSet u x d (BitVec.ofNat 64 (bPhase w + err + 64))) 4 16 ∧ u.mem = s.mem ∧
              wakes u = wakes s ++ [⟨at', ph, low, n.toNat % 2 ^ 19, tileCtx s t, some (tileJob s t)⟩]))
        forms (.bwait d ra rb rc) false ∧ forms (.bwaitp d ra rb rc) true)) ∧
    (ready → v.toNat < 2 → exec (.btest d ra rb 0) s
      = retires s x (sSet s x d (BitVec.ofNat 64 (w / 2 ^ (64 * v.toNat)))) 4 12) ∧
    (ready → v.toNat < 2 ^ 24 →
      (2 ^ 24 ≤ bSect w + v.toNat → exec (.bsec ra rb 0 0) s = stops s x .barrierOverarrive 0) ∧
      (bSect w + v.toNat < 2 ^ 24 → ∃ u, exec (.bsec ra rb 0 0) s = retires s x u 4 12 ∧ u.mem = s.mem ∧
        bSect (word u) = bSect w + v.toNat ∧ bPend (word u) = bPend w ∧ bPhase (word u) = bPhase w))

/-- R360, R361, R362, R366, R371, R372: a barrier of memory, and what follows a completed phase. An arrival of a core at a COH
barrier reads and writes the sixteen bytes of its line, and a core's wait and test read them at the home (log entry 83); when a
scratchpad phase completes every wake entry whose wait passes is gone and has sent its token; the steps on the queues of a
straggler record are performed in order, each opening once. -/
def Sys2Proof.Claims.BarrierProgress : Prop :=
  ∀ (s s1 : State) (k j : Nat) (d ra rb : BitVec 5) (b : BarAt),
    let a := gGet s k ra
    let v := gGet s k rb
    (CoreReady .user false s k → v.toNat < 2 ^ 9 → bit a 0 = true → bits a 3 1 = 0 →
      barLocate s k (s.isle k).ctx (coreReq s k .data) false a .atomic = .ok (b, s1) → barValid (barPeek s1 b) false = true →
      let s2 := fenceCaches s1 k 2 (bScope (barPeek s1 b))
      let w := barPeek s2 b
      bSr w = false → bPhase w = v.toNat % 16 → 1 < bPend w →
      ∃ u, exec (.barr d ra rb 0) s
          = .next (retireCore (gSet u k d (BitVec.ofNat 64 (bPhase w + if bErr w then 16 else 0))) k 4 none) ∧
        u.mem = (cohStore s2 b.agent b.key (bytesOf (withField w 23 4 (bPend w - 1)) 16)).mem) ∧
    (∀ t, CoreReady .user false s k → v.toNat < 16 → bit a 0 = true → bits a 3 1 = 0 →
      barLocate s k (s.isle k).ctx (coreReq s k .data) false a .load = .ok (b, s1) → barValid (barPeek s1 b) false = true →
      barRead s1 b = t → bErr t.1 = false → bPhase t.1 = v.toNat →
      t.1 = numOf (Memory.readN s1.mem b.key 16) ∧ t.2.mem = s1.mem ∧
      exec (.bwait d ra rb 0) s = .next (holdCore t.2 k (.barrier d a v false))) ∧
    (∀ t, CoreReady .user false s k → v.toNat < 2 → bit a 0 = true → bits a 3 1 = 0 →
      barLocate s k (s.isle k).ctx (coreReq s k .data) false a .load = .ok (b, s1) → barValid (barPeek s1 b) false = true →
      barRead s1 b = t →
      exec (.btest d ra rb 0) s = wrote t.2 k 4 d (BitVec.ofNat 64 (t.1 / 2 ^ (64 * v.toNat)))) ∧
    (∀ (t : Nat) (q : Task) (w : Nat) (a v : Word64), CellReady false false 16 s t q → tileIsle t = k →
      sGetL s t ra = .ok a → sGetL s t rb = .ok v → d.toNat ≤ 7 → ra.toNat ≤ 10 → rb.toNat ≤ 10 →
      bits a 3 0 = 0 → v.toNat < 2 ^ 9 → w = numOf ((s.isle k).spmRead a.toNat 16) → barValid w true = true →
      bSr w = false → (s.isle k).spmOk (tileCtx s t) a.toNat 16 = true → (s.isle k).overlaps a.toNat 16 = false →
      (s.isle k).spmUe = [] → bPhase w = v.toNat % 16 → bPend w = 1 → bSect w = 0 → bEarly w < bExpect w →
      ∃ u, exec (.barr d ra rb 0) s = .next (retireCell u t 4 16 none) ∧
        (∀ e, e ∈ (u.isle k).wakes → e ∈ (s.isle k).wakes ∧ (e.addr = a.toNat → bErr w = false ∧
          (if e.low then (bPhase w + 1) % 4 = e.ph % 4 else (bPhase w + 1) % 16 = e.ph))) ∧
        u.flights.length + (u.isle k).wakes.length = s.flights.length + (s.isle k).wakes.length) ∧
    (s.opens[j]? = none → exec (.stragglerOpen j) s = .next s) ∧
    (∀ o, s.opens[j]? = some o → s.opens.find? (fun x => x.ix == o.ix) ≠ some o → exec (.stragglerOpen j) s = .next s) ∧
    (∀ o, s.opens[j]? = some o → s.opens.find? (fun x => x.ix == o.ix) = some o →
      let left := s.opens.erase o
      ∃ u, exec (.stragglerOpen j) s = .next u ∧
        ((∀ x, x ∈ left → x.ix ≠ o.ix) → u.opens = left ∧
          u.mem = (openMember { s with opens := left } o.ctx o.queue).mem ∧
          (mayOpen s o.ctx o.queue = false → u.mem = s.mem)))

/-- R368 to R372, R374, R375: barriers that name a straggler record. An arrival with MV marks its member, ARR for the current phase with
its lag since FIRST and EARLY for the next, and raises DESC_INVALID where the record is not usable or has no such member, and
BARRIER_OVERARRIVE where it is marked already; the first arrival of a phase sets FIRST. A completed phase updates the record: with
SKIP clear every member's lag joins its weighted lag, and P completions above T make it LAGGING, P below half of T not; then the
marks turn to the next phase. A record that is not usable is left as it is. BINIT clears the record and drops its steps under way. -/
def Sys2Proof.Claims.StragglerRecords : Prop :=
  (∀ (r : List Nat) (w t : Nat) (z : Arrival), r.length = 128 → srMembers r ≤ 32 →
    let d := (z.ph + 16 - bPhase w) % 16
    let n := 8 + 2 * z.m
    let x := srWord r n
    let fv := fieldOf (srWord r 1) 48 48
    let first := if fv = 0 then t % 2 ^ 48 else fieldOf (srWord r 1) 47 0
    let begun (r' : List Nat) := fieldOf (srWord r' 1) 48 48 = 1 ∧ fieldOf (srWord r' 1) 47 0 = first ∧
      fieldOf (srWord r' 1) 49 49 = fieldOf (srWord r 1) 49 49
    (z.mv = true →
      (srMembers r ≤ z.m → memberPart r w z t = .error .descInvalid) ∧
      (z.m < srMembers r → d = 0 → fieldOf x 49 49 = 1 → memberPart r w z t = .error .barrierOverarrive) ∧
      (z.m < srMembers r → d ≠ 0 → fieldOf x 50 50 = 1 → memberPart r w z t = .error .barrierOverarrive) ∧
      (z.m < srMembers r → d = 0 → fieldOf x 49 49 = 0 → ∃ r', memberPart r w z t = .ok r' ∧ begun r' ∧
        fieldOf (srWord r' n) 23 0 = min ((t % 2 ^ 48 + 2 ^ 48 - first) % 2 ^ 48) (2 ^ 24 - 1) ∧
        fieldOf (srWord r' n) 49 49 = 1 ∧ fieldOf (srWord r' n) 48 24 = fieldOf x 48 24 ∧
        fieldOf (srWord r' n) 50 50 = fieldOf x 50 50 ∧ ∀ i, i ≠ 1 → i ≠ n → srWord r' i = srWord r i) ∧
      (z.m < srMembers r → d ≠ 0 → fieldOf x 50 50 = 0 → ∃ r', memberPart r w z t = .ok r' ∧
        fieldOf (srWord r' n) 50 50 = 1 ∧ fieldOf (srWord r' n) 49 0 = fieldOf x 49 0 ∧
        ∀ i, i ≠ n → srWord r' i = srWord r i)) ∧
    (z.mv = false → ∃ r', memberPart r w z t = .ok r' ∧ (d = 0 → begun r') ∧ (d ≠ 0 ∨ fv = 1 → r' = r) ∧
      ∀ i, i ≠ 1 → srWord r' i = srWord r i)) ∧
  (∀ (w0 w tc first : Nat),
    let p := lagStep w0 w tc first
    let on := fieldOf w 48 48
    let last := if fieldOf w 49 49 = 0 then min ((tc + 2 ^ 48 - first) % 2 ^ 48) (2 ^ 24 - 1) else fieldOf w 23 0
    let ewl := (fieldOf w 39 24 * (2 ^ fieldOf w0 34 32 - 1) + min (last / 256) 65535) / 2 ^ fieldOf w0 34 32
    let t := fieldOf w0 63 48
    let count := if (if on = 1 then 2 * ewl < t else t < ewl) then min (fieldOf w 47 40 + 1) 255 else 0
    let turns := fieldOf w0 47 40 ≤ count
    fieldOf p.1 23 0 = last ∧ fieldOf p.1 39 24 = ewl ∧ fieldOf p.1 50 49 = fieldOf w 50 49 ∧
      (turns → fieldOf p.1 47 40 = 0 ∧ fieldOf p.1 48 48 = 1 - on ∧ p.2 = (on == 0, on == 1)) ∧
      (¬ turns → fieldOf p.1 47 40 = count ∧ fieldOf p.1 48 48 = on ∧ p.2 = (false, false))) ∧
  (∀ (r : List Nat) (tc first : Nat), r.length = 128 → srMembers r ≤ 32 →
    let p (m : Nat) := lagStep (srWord r 0) (srWord r (8 + 2 * m)) tc first
    let l := lagSteps tc first (srMembers r) 0 r []
    (∀ m, m < srMembers r → srWord l.1 (8 + 2 * m) = (p m).1) ∧
      (∀ i, (∀ m, m < srMembers r → i ≠ 8 + 2 * m) → srWord l.1 i = srWord r i) ∧
      l.2 = (List.range (srMembers r)).filterMap (fun m => if (p m).2.1 || (p m).2.2 then some (m, (p m).2.1) else none)) ∧
  (∀ (r : List Nat) (tc : Nat), r.length = 128 → srMembers r ≤ 32 →
    let u := srTurn r tc
    let early := ∃ m, m < srMembers r ∧ fieldOf (srWord r (8 + 2 * m)) 50 50 = 1
    (∀ m, m < srMembers r → let x := srWord r (8 + 2 * m); let y := srWord u (8 + 2 * m)
      fieldOf y 49 49 = fieldOf x 50 50 ∧ fieldOf y 50 50 = 0 ∧ fieldOf y 48 24 = fieldOf x 48 24 ∧
      (fieldOf x 50 50 = 1 → fieldOf y 23 0 = 0) ∧ (fieldOf x 50 50 = 0 → fieldOf y 23 0 = fieldOf x 23 0) ∧
      srWord u 2 / 2 ^ m % 2 = fieldOf x 48 48) ∧
    (early → fieldOf (srWord u 1) 48 48 = 1 ∧ fieldOf (srWord u 1) 47 0 = tc % 2 ^ 48) ∧
    (¬ early → fieldOf (srWord u 1) 48 48 = 0 ∧ fieldOf (srWord u 1) 47 0 = fieldOf (srWord r 1) 47 0)) ∧
  (∀ (s s1 : State) (g : Agent) (ix c tc ph : Nat) (r : List Nat), (∀ o, o ∈ s1.opens → o.ix ≠ ix) →
    let u := stragglerUpdate s g ix c tc ph
    let lands (r' : List Nat) := u.mem = (srStore s1 g ix r (srTurn r' (tc % 2 ^ 48))).mem ∧ u.opens = s1.opens
    let l := lagSteps (tc % 2 ^ 48) (fieldOf (srWord r 1) 47 0) (srMembers r) 0 r []
    (srLoad s g ix c = none → u = s) ∧
    (srLoad s g ix c = some (r, s1) →
      (fieldOf (srWord r 1) 49 49 = 1 → lands (srPut r 1 (withField (srWord r 1) 49 49 0))) ∧
      (fieldOf (srWord r 1) 49 49 = 0 → (∀ e, e ∈ l.2 → memberQueue r e.1 = none) → lands l.1))) ∧
  (∀ (s s0 : State) (x : Runner) (d ra rb : BitVec 5) (a v : Word64) (b : BarAt),
    BothReady false 16 s x → readable x ra → readable x rb → writable x d → sGet s x ra = .ok a → sGet s x rb = .ok v →
    bits a 3 1 = 0 → (∀ t, x = .cell t → bit a 0 = false) →
    barLocate s (runnerIsle x) (ctxOf s x) (barReq s x) (isCell x) a .atomic = .ok (b, s0) →
    let s1 := arriveFence s0 x b
    let w := barPeek s1 b
    let z : Arrival := ⟨bits v 3 0, 1, false, bit v 9, bits v 8 4⟩
    let record := srLoad s1 b.agent (bSrix w) b.ctx
    (v.toNat < 2 ^ 10 → barValid (barPeek s0 b) b.spm = true → bSr w = true →
      (z.mv = true → record = none → exec (.barr d ra rb 0) s = stops s x .descInvalid 0) ∧
      ∀ r s2 w1, record = some (r, s2) → z.mv = true ∨ z.ph = bPhase w → arriveWord w z = .ok w1 →
        (∀ c, memberPart r w z (homeTime s1 b) = .error c → exec (.barr d ra rb 0) s = stops s x c 0) ∧
        ∀ r', memberPart r w z (homeTime s1 b) = .ok r' →
          let s3 := srStore s2 b.agent (bSrix w) r r'
          let done := completeWord (homeTime s3 b) 2 w1
          (bPend w1 ≠ 0 ∨ bSect w1 ≠ 0 →
            ∃ u y, exec (.barr d ra rb 0) s = retires s x (sSet u x d y) 4 16 ∧ u.mem = (barWrite s3 b w1).mem) ∧
          (bPend w1 = 0 → bSect w1 = 0 → done.2 = 1 → bSr w1 = true →
            ∃ u y, exec (.barr d ra rb 0) s = retires s x (sSet u x d y) 4 16 ∧
              u.mem = (stragglerUpdate (barWrite s3 b done.1) b.agent (bSrix w1) b.ctx (homeTime s3 b) (bPhase w1)).mem)) ∧
    (bits v 63 37 = 0 → bit v 36 = true → bit v 27 = false → bits v 23 20 = 0 → bits v 19 0 ≠ 0 →
      scopeOk (bits v 26 26) (bits v 25 24) = true → (bits v 26 26 == 0) = b.spm →
      let ix := bits v 35 28
      (srLoad s0 b.agent ix b.ctx = none → exec (.binit ra rb 0 0) s = stops s x .descInvalid 0) ∧
      (srLoad s0 b.agent ix b.ctx ≠ none → ∃ u, exec (.binit ra rb 0 0) s = retires s x u 4 16 ∧ bSr (barPeek u b) = true ∧
        bSrix (barPeek u b) = ix ∧ bPhase (barPeek u b) = 0 ∧ bPend (barPeek u b) = bits v 19 0 ∧
        ∀ o, o ∈ u.opens → o.ix ≠ ix)))

/-- Barrier instructions, what follows a completed phase, and straggler records: BarrierInstructions, BarrierProgress and
StragglerRecords of Claims, together. -/
def Obligations.Barriers : Prop := BarrierInstructions ∧ BarrierProgress ∧ StragglerRecords

/-! ### Queues -/

/-- R322 to R325, R334, R337, R338: the queue instructions, once the entry of the queue is read at its home (by the core, or by the
queue engine for a cell). The checks come in the order of R338, a reserved bit of the entry among the first (log entry 81); then
QPUSH writes an entry and raises TAIL, or answers 1, or raises QUEUE_FULL; QPOP reads one and raises HEAD, or answers 0, or raises
QUEUE_EMPTY; a STREAM queue holds tokens. QSTAT answers occupancy, state, kind and priority. -/
def Sys2Proof.Claims.QueueInstructions : Prop :=
  ∀ (s s1 : State) (x : Runner) (d ra rb : BitVec 5) (h p : Word64) (e : QEnt) (t : BitVec 1),
    BothReady false 24 s x → readable x ra → readable x rb → writable x d → sGet s x ra = .ok h → sGet s x rb = .ok p →
    let rq := queueReq s x
    let kind := qKind e.ctl
    let st := qState e.ctl
    let bytes (n : Nat) := (s1.isle (runnerIsle x)).spmRead p.toNat n
    let gives (i : Instr) (u : State) (v : Word64) (cost : Nat) := exec i s = retires s x (sSet u x d v) 4 cost
    let three (P : Instr → Prop) := P (.qpush d ra rb t 0) ∧ P (.qpop d ra rb t 0) ∧ P (.qstat d ra 0)
    let live := qValid e.ctl = true ∧ (s.ctx (ctxOf s x)).st ≠ .fenced
    (2 ^ 8 ≤ h.toNat → three (fun i => exec i s = stops s x .reservedField 0) ∧
      exec (.cont d ra rb 0) s = stops s x .reservedField 0) ∧
    (∀ c v, h.toNat < 2 ^ 8 → qPeek s rq h.toNat .atomic = .error (c, v) →
      (∀ k, x = .core k → exec (.qpush d ra rb t 0) s = traps s k c v ∧ exec (.qpop d ra rb t 0) s = traps s k c v) ∧
      (∀ k, x = .cell k → exec (.qpush d ra rb t 0) s = .next (holdTask s k c v) ∧
        exec (.qpop d ra rb t 0) s = .next (holdTask s k c v))) ∧
    (h.toNat < 2 ^ 8 → qPeek s rq h.toNat .atomic = .ok (e, s1) →
      (e.clean = false → exec (.qpush d ra rb t 0) s = stops s x .reservedField 0 ∧
        exec (.qpop d ra rb t 0) s = stops s x .reservedField 0)) ∧
    (h.toNat < 2 ^ 8 → qPeek s rq h.toNat .atomic = .ok (e, s1) → e.clean = true →
      (qValid e.ctl = false → exec (.qpush d ra rb t 0) s = stops s x .descInvalid 0 ∧
        exec (.qpop d ra rb t 0) s = stops s x .descInvalid 0) ∧
      (qValid e.ctl = true → kind = 0 → exec (.qpop d ra rb t 0) s = stops s x .descInvalid 0) ∧
      (qValid e.ctl = true → 3 ≤ kind → exec (.qpush d ra rb t 0) s = stops s x .descInvalid 0 ∧
        exec (.qpop d ra rb t 0) s = stops s x .descInvalid 0) ∧
      (qValid e.ctl = true → kind < 3 → (s.ctx (ctxOf s x)).st = .fenced →
        exec (.qpush d ra rb t 0) s = stops s x .remoteFenced 0) ∧
      (live → kind = 1 → spmCheck s1 x p 32 8 false true = .ok () →
        (st = 0 ∨ t = 1 ∧ 2 ^ fieldOf e.ctl 33 29 ≤ e.tail - e.head →
          exec (.qpush d ra rb t 0) s = stops (qSeen s1 rq e) x .queueFull 0) ∧
        (st ≠ 0 → t = 0 → 2 ^ fieldOf e.ctl 33 29 ≤ e.tail - e.head → gives (.qpush d ra rb t 0) (qSeen s1 rq e) 1 16) ∧
        (∀ s2, st ≠ 0 → e.tail - e.head < 2 ^ fieldOf e.ctl 33 29 →
          writeVa s1 rq (e.base + 32 * (e.tail % 2 ^ fieldOf e.ctl 33 29)) (bytes 32) 2 = .ok s2 →
          gives (.qpush d ra rb t 0) (qStore s2 rq e 0x18 (e.tail + 1)) 0 16)) ∧
      (live → kind = 1 → spmCheck s1 x p 32 8 true false = .ok () →
        (st = 0 ∨ t = 1 ∧ (st = 3 ∨ e.tail ≤ e.head) → exec (.qpop d ra rb t 0) s = stops (qSeen s1 rq e) x .queueEmpty 0) ∧
        (st ≠ 0 → t = 0 → st = 3 ∨ e.tail ≤ e.head → gives (.qpop d ra rb t 0) (qSeen s1 rq e) 0 16) ∧
        (∀ l s2, st = 1 ∨ st = 2 → e.head < e.tail →
          readVa s1 rq (e.base + 32 * (e.head % 2 ^ fieldOf e.ctl 33 29)) 32 2 = .ok (l, s2) →
          gives (.qpop d ra rb t 0) (spmPut (qStore s2 rq e 0x10 (e.head + 1)) x p.toNat l) 1 16)) ∧
      (live → kind = 2 →
        (∀ tok, spmCheck s1 x p 64 8 false true = .ok () → streamToken s1 x (bytes 64) = .ok tok → st ≠ 0 →
          hwFull s1 (qOwner e.ctl) (qHwq e.ctl) = false → ∃ u, gives (.qpush d ra rb t 0) u 0 16 ∧
            (streamOf u e).toks = (streamOf s1 e).toks ++ [tok]) ∧
        (∀ tok r, spmCheck s1 x p 64 8 true false = .ok () → st = 1 ∨ st = 2 → (streamOf s1 e).toks = tok :: r →
          ∃ u, gives (.qpop d ra rb t 0) u 1 16 ∧ (streamOf u e).toks = r ∧
            ∀ j, j < 8 → (u.isle (runnerIsle x)).spm.get 0 (p.toNat + j) = tok.hdr.extractLsb' (8 * j) 8)) ∧
      (live → kind = 0 → spmCheck s1 x p 64 8 false true = .ok () → st ≠ 0 → e.tail - e.head < 2 ^ fieldOf e.ctl 33 29 →
        bellCtx s1 (ctxOf s x) = true → ∀ s2, writeVa s1 rq (e.base + 64 * (e.tail % 2 ^ fieldOf e.ctl 33 29)) (bytes 64) 3
          = .ok s2 → gives (.qpush d ra rb t 0)
            (acceptNew (qStore s2 rq e 0x18 (e.tail + 1)) (ctxOf s x) h.toNat e.base e.ctl e.tail (e.tail + 1)) 0 16)) ∧
    (h.toNat < 2 ^ 8 → qPeek s rq h.toNat .load = .ok (e, s1) → e.clean = true → live → kind < 3 →
      let prio := if kind = 0 then qEff s (ctxOf s x) h.toNat e.ctl else fieldOf e.ctl 6 0
      gives (.qstat d ra 0) (qSeen s1 rq e) (BitVec.ofNat 64
        (min (e.tail - e.head) 65535 + st * 2 ^ 16 + kind * 2 ^ 18 + prio % 128 * 2 ^ 20)) 16)

/-- R325, R333, R335 to R338: CONT pushes a record after raising the COUNT of its join block, which a full queue lowers again; JOIN
lowers a COUNT and answers it, raises JOIN_UNDERFLOW at 0, and at 1 pushes the parent, where the decrement stands whatever the
push meets; STEAL takes up to eight records from the tail of another isle's open TASK queue into the scratchpad, the one below
TAIL first, tries again where TAIL is not what it observed, four times in all, or is denied. -/
def Sys2Proof.Claims.TaskQueues : Prop :=
  ∀ (s s1 : State) (x : Runner) (d ra rb rc : BitVec 5) (h p w : Word64) (e : QEnt),
    BothReady false 24 s x → readable x ra → readable x rb → readable x rc → writable x d →
    sGet s x ra = .ok h → sGet s x rb = .ok p → sGet s x rc = .ok w →
    let rq := queueReq s x
    let st := qState e.ctl
    let size := 2 ^ fieldOf e.ctl 33 29
    let rec32 := (s1.isle (runnerIsle x)).spmRead p.toNat 32
    let parent := BitVec.ofNat 64 (numOf ((rec32.drop 8).take 8))
    let gives (i : Instr) (u : State) (v : Word64) := exec i s = retires s x (sSet u x d v) 4 24
    let live := e.clean = true ∧ qValid e.ctl = true ∧ (s.ctx (ctxOf s x)).st ≠ .fenced
    let noted (loc : Loc) (n : Nat) (u : State) := noteCount (putCount u rq loc n) x
    let fresh := counted s x = false
    (h.toNat < 2 ^ 8 → qPeek s rq h.toNat .atomic = .ok (e, s1) → live → qKind e.ctl = 1 →
      spmCheck s1 x p 32 8 false true = .ok () →
      (parent.toNat % 64 ≠ 0 → exec (.cont d ra rb 0) s = stops s x .misalignData parent) ∧
      (parent = 0 → st = 0 → exec (.cont d ra rb 0) s = stops (qSeen s1 rq e) x .queueFull 0) ∧
      (parent = 0 → st ≠ 0 → size ≤ e.tail - e.head → gives (.cont d ra rb 0) (qSeen s1 rq e) 1) ∧
      (∀ s2, parent = 0 → st ≠ 0 → e.tail - e.head < size →
        writeVa s1 rq (e.base + 32 * (e.tail % size)) rec32 2 = .ok s2 →
        gives (.cont d ra rb 0) (qStore s2 rq e 0x18 (e.tail + 1)) 0) ∧
      (∀ loc n s2, parent ≠ 0 → parent.toNat % 64 = 0 → fresh → joinLoc s1 rq parent 8 = .ok (loc, n, s2) →
        let s3 := noted loc (n + 1) s2
        (st = 0 → exec (.cont d ra rb 0) s = stops (qSeen s3 rq e) x .queueFull 0) ∧
        (st ≠ 0 → size ≤ e.tail - e.head → gives (.cont d ra rb 0) (undoCount (qSeen s3 rq e) rq parent) 1) ∧
        (∀ s4, st ≠ 0 → e.tail - e.head < size →
          writeVa s3 rq (e.base + 32 * (e.tail % size)) rec32 2 = .ok s4 →
          gives (.cont d ra rb 0) (qStore s4 rq e 0x18 (e.tail + 1)) 0) ∧
        (∀ k c v, x = .core k → st ≠ 0 → e.tail - e.head < size →
          writeVa s3 rq (e.base + 32 * (e.tail % size)) rec32 2 = .error (c, v) →
          exec (.cont d ra rb 0) s = traps s3 k c v))) ∧
    (h.toNat < 2 ^ 8 → qPeek s rq h.toNat .atomic = .ok (e, s1) → e.clean = true → qValid e.ctl = true → qKind e.ctl ≠ 1 →
      exec (.cont d ra rb 0) s = stops s x .descInvalid 0) ∧
    (h.toNat % 64 ≠ 0 → exec (.join d ra 0) s = stops s x .misalignData h) ∧
    (∀ loc z, h.toNat % 64 = 0 → joinLoc s rq h 64 = .ok (loc, z, s1) → fresh →
      z / 2 ^ 72 % 2 ^ 56 = 0 → z / 2 ^ 384 = 0 →
      let n := z % 2 ^ 64
      let q := z / 2 ^ 64 % 256
      let s2 := noted loc 0 s1
      let rq2 := queueReq s2 x
      (n = 0 → exec (.join d ra 0) s = stops (homeLoad s1 rq.agent loc 8).2 x .joinUnderflow 0) ∧
      (1 < n → gives (.join d ra 0) (putCount s1 rq loc (n - 1)) (BitVec.ofNat 64 (n - 1))) ∧
      (n = 1 → (s.ctx (ctxOf s x)).st = .fenced → exec (.join d ra 0) s = stops s x .remoteFenced 0) ∧
      (∀ s3, n = 1 → (s.ctx (ctxOf s x)).st ≠ .fenced → qPeek s2 rq2 q .atomic = .ok (e, s3) →
        (e.clean = false → exec (.join d ra 0) s = stops s3 x .reservedField 0) ∧
        (e.clean = true → qValid e.ctl = false ∨ qKind e.ctl ≠ 1 →
          exec (.join d ra 0) s = stops s3 x .descInvalid (BitVec.ofNat 64 q)) ∧
        (e.clean = true → qValid e.ctl = true → qKind e.ctl = 1 → st = 0 ∨ size ≤ e.tail - e.head →
          exec (.join d ra 0) s = stops (qSeen s3 rq2 e) x .queueFull 0) ∧
        (∀ s4, e.clean = true → qValid e.ctl = true → qKind e.ctl = 1 → st ≠ 0 → e.tail - e.head < size →
          writeVa s3 rq2 (e.base + 32 * (e.tail % size)) (bytesOf (z / 2 ^ 128 % 2 ^ 256) 32) 2 = .ok s4 →
          gives (.join d ra 0) (qStore s4 rq2 e 0x18 (e.tail + 1)) 0))) ∧
    (∀ loc z, h.toNat % 64 = 0 → joinLoc s rq h 64 = .ok (loc, z, s1) →
      z / 2 ^ 72 % 2 ^ 56 ≠ 0 ∨ z / 2 ^ 384 ≠ 0 → exec (.join d ra 0) s = stops s x .reservedField 0) ∧
    (h.toNat < 2 ^ 8 → w.toNat = 0 ∨ 8 < w.toNat → exec (.steal d ra rb rc) s = stops s x .reservedField 0) ∧
    (h.toNat < 2 ^ 8 → 1 ≤ w.toNat → w.toNat ≤ 8 → qPeek s rq h.toNat .atomic = .ok (e, s1) → live → qKind e.ctl < 3 →
      spmCheck s1 x p (32 * w.toNat) 8 true false = .ok () →
      let owner := 16 * fieldOf e.ctl 25 24 + fieldOf e.ctl 23 20
      let home := e.loc.key / 2 ^ 40
      let near := home = isleDie (runnerIsle x) ∨ (upCircuit s (isleDie (runnerIsle x)) home).isSome = true
      let may := qKind e.ctl = 1 ∧ fieldOf e.ctl 15 15 = 1 ∧ owner ≠ runnerIsle x ∧ near
      let got := min w.toNat (e.tail - e.head)
      (¬ may → exec (.steal d ra rb rc) s = stops s x .stealDenied 0) ∧
      (∀ v s2, may → loadLoc s1 rq.agent { e.loc with key := e.loc.key + 0x18 } 8 = (v, s2) →
        let none' := qSeen s2 rq e
        let tries := stealLost s x + 1
        (st ≠ 2 ∨ numOf v = e.tail ∧ e.tail ≤ e.head ∨ numOf v ≠ e.tail ∧ 4 ≤ tries → gives (.steal d ra rb rc) none' 0) ∧
        (st = 2 → numOf v ≠ e.tail → tries < 4 →
          (∀ k, x = .core k → exec (.steal d ra rb rc) s = .next (holdCore none' k (.steal tries))) ∧
          (∀ t, x = .cell t → exec (.steal d ra rb rc) s = .next (none'.updTask t (fun y => { y with part := tries })))) ∧
        (∀ l s3, st = 2 → numOf v = e.tail → e.head < e.tail → readTail rq e got 0 s2 = .ok (l, s3) →
          gives (.steal d ra rb rc) (spmPut (qStore s3 rq e 0x18 (e.tail - got)) x p.toNat l) (BitVec.ofNat 64 got))))

/-- QPUSH, QPOP, QSTAT, CONT, JOIN and STEAL: QueueInstructions and TaskQueues of Claims, together. -/
def Obligations.TaskAndStreamQueues : Prop := QueueInstructions ∧ TaskQueues

/-- R324, R327, R329, R332, R334, R339: doorbells, queue commands and dispatch ports. A doorbell that names no live command queue, goes back, or
goes past the ring is refused and journalled; otherwise TAIL takes the value and the entries with a good operation code are
accepted in order. ENABLE and DISABLE act on a queue of an open context in the right state, wait for a sliced-out context with
BUSY set, and otherwise set REFUSED; while BUSY is set they do nothing. A dispatch port pops the record at the head of its
queue, which becomes a ready task of its class, or is refused with a fault record. -/
def Sys2Proof.Claims.QueueCommands : Prop :=
  ∀ (s : State) (c q k p : Nat) (w : Word64), c < 256 → q < 256 →
    let ctl := qCtl s c q
    let st := qState ctl
    let queue := schedQueue s c q
    let refused := w.toNat < queue.2.2.2 ∨ queue.2.2.1 + qSize ctl < w.toNat ∨ bellCtx s c = false ∨ qValid ctl = false ∨
      ctlClean ctl = false ∨ restClean s c q = false ∨ qKind ctl ≠ 0 ∨ st = 0
    let opens := (s.ctx c).st = .opened ∨ (s.ctx c).st = .active
    let idle := bit s.mgmt.qcmd 31 = false
    let sliced := (s.ctx c).st = .slicedOut
    let on := opens ∧ qValid ctl = true ∧ ctlClean ctl = true ∧ restClean s c q = true ∧ st = 0
    let off := opens ∧ qValid ctl = true ∧ (st = 1 ∨ st = 2)
    let ctl2 := qCtl (journal s c q 5 0 0) c q
    let word (op refused : Nat) : Word32 := BitVec.ofNat 32 (refused * 2 ^ 30 + q * 2 ^ 10 + op * 2 ^ 8 + c)
    (refused → ∃ u, exec (.doorbell c q w) s = .next u ∧ u.cmds = s.cmds ∧ u.mgmt.jseq = s.mgmt.jseq + 1) ∧
    (¬ refused → ∃ u l, exec (.doorbell c q w) s = .next u ∧ u.cmds = s.cmds ++ l ∧
      u.mgmt.jseq = s.mgmt.jseq + BitVec.ofNat 64 (w.toNat - queue.2.2.2) ∧
      (∀ e, e ∈ l → e.1 = c ∧ e.2.1 = q ∧ queue.2.2.2 ≤ e.2.2 ∧ e.2.2 < w.toNat) ∧
      l.Pairwise (fun a b => a.2.2 < b.2.2)) ∧
    (bit s.mgmt.qcmd 31 = true → exec (.queueEnable c q) s = .next s ∧ exec (.queueDisable c q) s = .next s) ∧
    (idle → sliced → exec (.queueEnable c q) s = .next { s with mgmt := { s.mgmt with qcmd := word 1 2 } } ∧
      exec (.queueDisable c q) s = .next { s with mgmt := { s.mgmt with qcmd := word 2 2 } }) ∧
    (idle → on → ∃ u, exec (.queueEnable c q) s = .next u ∧ u.mgmt.qcmd = word 1 0 ∧
      (qKind ctl = 2 → 16 ≤ qHwq ctl →
        ((u.isle (qOwner ctl)).hwq.get HwQueue.reset (qHwq ctl)) = ⟨some (c, q), qSize ctl, []⟩)) ∧
    (idle → ¬ sliced → ¬ on → ∃ u, exec (.queueEnable c q) s = .next u ∧ u.mgmt.qcmd = word 1 1 ∧
      u.mem = s.mem ∧ u.cmds = s.cmds) ∧
    (idle → off → ∃ u, exec (.queueDisable c q) s = .next u ∧ u.mgmt.qcmd = word 2 0 ∧
      (∀ e, e ∈ u.cmds ↔ e ∈ s.cmds ∧ ¬ (e.1 = c ∧ e.2.1 = q)) ∧
      (qKind ctl2 = 2 → 16 ≤ qHwq ctl2 → ((s.isle (qOwner ctl2)).hwq.get HwQueue.reset (qHwq ctl2)).bound = some (c, q) →
        ((u.isle (qOwner ctl2)).hwq.get HwQueue.reset (qHwq ctl2)) = HwQueue.reset)) ∧
    (idle → ¬ sliced → ¬ off → ∃ u, exec (.queueDisable c q) s = .next u ∧
      u.mgmt.qcmd = word 2 1 ∧ u.mem = s.mem ∧ u.cmds = s.cmds) ∧
    (portReady s k p = none → exec (.dispatchPop k p) s = .next s) ∧
    (∀ e s1 l s2, portReady s k p = some (e, s1) → portFirst s k p e = true →
      let port := (s.isle k).ports.get 0 p
      let t := isleTile k (bits port 12 9) (bits port 15 13)
      let cls := bits port 5 0
      readVa s1 (queueReq s (.cell t)) (e.base + 32 * (e.head % qSize e.ctl)) 32 3 = .ok (l, s2) → qKind e.ctl = 1 →
      (numOf l / 2 ^ 44 % 2 ^ 20 ≠ 0 → ∃ u r, exec (.dispatchPop k p) s = .next u ∧ reported u (tileIsle t) r ∧
        r.code = causeCode .reservedField ∧ r.in0 = lanesOfBytes l ∧ (u.cell t).ready = (s2.cell t).ready) ∧
      (numOf l / 2 ^ 44 % 2 ^ 20 = 0 → numOf l / 2 ^ 13 % 64 = cls →
        ∃ u r, exec (.dispatchPop k p) s = .next u ∧ (u.cell t).ready = (s2.cell t).ready ++ [r] ∧
        r.cls = cls ∧ r.i0 = lanesOfBytes l ∧ hKind r.hdr = 0 ∧ hLen r.hdr = 7 ∧ hCtx r.hdr = tileCtx s t % 256 ∧
        u.mem = (qStore s2 (queueReq s (.cell t)) e 0x10 (e.head + 1)).mem) ∧
      (numOf l / 2 ^ 44 % 2 ^ 20 = 0 → numOf l / 2 ^ 13 % 64 ≠ cls →
        ∃ u r, exec (.dispatchPop k p) s = .next u ∧ reported u (tileIsle t) r ∧
        r.code = causeCode .routeInvalid ∧ r.in0 = lanesOfBytes l ∧ (u.cell t).ready = (s2.cell t).ready))

/-! ### Pages and load slots -/

/-- R379, R397 to R399, R458: the page instructions. A name with a reserved bit raises RESERVED_FIELD, and one that reaches no page of a
job in progress DESC_INVALID. PREQ demands the current gang of an admitted job where its page is out, and answers the page's
state word; PPIN and PUNP set PINNED and answer the old bit; PEVT evicts a RESIDENT page with its gang and answers 0, or 1. All
four complete on every name that reaches a page. -/
def Sys2Proof.Claims.PageRequests : Prop :=
  ∀ (s : State) (k : Nat) (d a : BitVec 5),
    let w := gGet s k a
    let c := (s.isle k).ctx
    let v := bits w 5 0
    let clean := bits w 15 6 = 0 ∧ bits w 63 32 = 0
    let names (i : Instr) : Prop :=
      (¬ clean → exec i s = traps s k .reservedField w) ∧
      (clean → s.findJob c (bits w 31 16) = none → exec i s = traps s k .descInvalid w) ∧
      (∀ j, clean → s.findJob c (bits w 31 16) = some j → (j.entry v).v = false ∨ pageFor s j v = none →
        exec i s = traps s k .descInvalid w)
    let gives (i : Instr) (u : State) (x : Word64) : Prop := exec i s = .next (retireCore (gSet u k d x) k 4 none)
    let found (j : Job) (p : Page) := clean ∧ s.findJob c (bits w 31 16) = some j ∧ (j.entry v).v = true ∧ pageFor s j v = some p
    let same (p q : Page) := q.ctx = p.ctx ∧ q.job = p.job ∧ q.ix = p.ix
    let pinned (p : Page) (on : Bool) : State :=
      { s with pages := s.pages.map (fun q => if same p q then { q with pinned := on } else q) }
    let old (p : Page) : Word64 := if p.pinned then 1 else 0
    let answers (j : Job) (p : Page) (started : Bool) : Word64 := BitVec.ofNat 64 (pageCode p.st + b2n p.pinned * 2 ^ 4 +
      b2n (pageFrozen s p) * 2 ^ 5 + b2n (j.entry p.region).lag * 2 ^ 6 + b2n started * 2 ^ 7 + p.die % 4 * 2 ^ 8 +
      p.bx % 64 * 2 ^ 10 + p.byy % 32 * 2 ^ 16)
    (CoreReady .user false s k → names (.preq d a 0) ∧
      ∀ j p, found j p →
        let due := (p.st = .absent ∨ p.st = .saved) ∧ inCurGang s p = true ∧
          (j.st = .placing ∨ j.st = .running ∨ j.st = .pageWait)
        (due → gives (.preq d a 0) (demandGang s j) (answers j p true) ∧
          demandGang s j = { s with pages := (demandGang s j).pages }) ∧
        (¬ due → gives (.preq d a 0) s (answers j p false))) ∧
    (CoreReady .supervisor false s k → names (.ppin d a 0) ∧ names (.punp d a 0) ∧ names (.pevt d a 0) ∧
      ∀ j p, found j p →
        gives (.ppin d a 0) (pinned p true) (old p) ∧ gives (.punp d a 0) (pinned p false) (old p) ∧
        (p.st ≠ .resident → gives (.pevt d a 0) s 1) ∧
        (p.st = .resident → (actsOn s j (gangOf s j p.ix)).contains p.ix = true →
          gives (.pevt d a 0) (evictGang s p.ctx p.job (gangOf s j p.ix)) 0) ∧
        (p.st = .resident → (actsOn s j (gangOf s j p.ix)).contains p.ix = false →
          gives (.pevt d a 0) (evictPage s p) 0)) ∧
    (s.active = .core k → (s.core k).pfx = none → (s.core k).mode = .user →
      exec (.ppin d a 0) s = traps s k .priv 0 ∧ exec (.punp d a 0) s = traps s k .priv 0 ∧
      exec (.pevt d a 0) s = traps s k .priv 0 ∧ exec (.frz d a 0) s = traps s k .priv 0 ∧
      exec (.thaw d a 0) s = traps s k .priv 0 ∧ exec (.place d a a 0) s = traps s k .priv 0 ∧
      exec (.cfgw a d 0 0) s = traps s k .priv 0 ∧ exec (.cfgc d a 0) s = traps s k .priv 0 ∧
      exec (.cfgk d a 0) s = traps s k .priv 0 ∧ exec (.cfga d a 0) s = traps s k .priv 0)

/-- R276, R390, R396, R400, R401: FRZ freezes the tiles of the RESIDENT pages that act with the page, closes the windows of their
engines, and completes when their freeze steps have ended, else waits; THAW lets go what FRZ froze; SNAP of a RUNNING job starts a
snapshot with the ID, area and length of its record, and answers 1 for a job in another state and 2 while one is in progress. The
snapshot ends with DONE in its record once every operator has recorded it, and with ABORT where a join or an eviction aborted it. -/
def Sys2Proof.Claims.FreezesAndSnapshots : Prop :=
  ∀ (s : State) (k : Nat) (d a b : BitVec 5),
    let w := gGet s k a
    let y := gGet s k b
    let c := (s.isle k).ctx
    let rq := coreReq s k .data
    let gangTiles (ps : List Page) := ps.flatMap pageTileList
    let gives (i : Instr) (u : State) (x : Word64) : Prop := exec i s = .next (retireCore (gSet u k d x) k 4 none)
    (∀ j p, CoreReady .supervisor false s k → namedPage s k w w = .ok (j, p) →
      let ps := (actingPages s j p).filter (fun q => q.st == .resident)
      let froze := settlePages (ps.foldl frzPage s) ps
      (p.st ≠ .resident → gives (.frz d a 0) s 1) ∧
      (p.st = .resident → (gangTiles ps).all (tileStill froze) = true → gives (.frz d a 0) froze 0 ∧
        ∀ t, t ∈ gangTiles ps → (froze.tile t).frozen = true) ∧
      (p.st = .resident → (gangTiles ps).all (tileStill froze) = false →
        exec (.frz d a 0) s = .next (holdCore froze k .reissue)) ∧
      (p.frz = false → gives (.thaw d a 0) s 1) ∧
      (p.frz = true → ∃ u, gives (.thaw d a 0) u 0 ∧
        ((∀ x, s.findJob p.ctx p.job = some x → x.snap = none) → u.mem = s.mem ∧ u.jobs = s.jobs))) ∧
    (CoreReady .user false s k →
      (bits w 15 0 ≠ 0 ∨ bits w 63 32 ≠ 0 → exec (.snap d a b 0) s = traps s k .reservedField w) ∧
      (bits w 15 0 = 0 → bits w 63 32 = 0 →
        (s.anyJob c (bits w 31 16) = none → exec (.snap d a b 0) s = traps s k .descInvalid w) ∧
        ∀ j, s.anyJob c (bits w 31 16) = some j →
          (y.toNat % 64 ≠ 0 → exec (.snap d a b 0) s = traps s k .misalignData y) ∧
          (∀ e z, y.toNat % 64 = 0 → readVa s rq y.toNat 64 2 = .error (e, z) → exec (.snap d a b 0) s = traps s k e z) ∧
          (∀ l s1, y.toNat % 64 = 0 → readVa s rq y.toNat 64 2 = .ok (l, s1) →
            let v : Snap := { id := numOf (l.take 2), recAddr := y.toNat, area := numOf ((l.drop 8).take 8),
                              len := numOf ((l.drop 16).take 8), used := 0, abort := false }
            (j.st ≠ .running → gives (.snap d a b 0) s 1) ∧
            (j.st = .running → j.snap ≠ none → gives (.snap d a b 0) s 2) ∧
            (j.st = .running → j.snap = none → gives (.snap d a b 0) (startSnap s1 j v) 0)))) ∧
    (∀ n x, s.findJob c n = some x →
      (x.snap = none → exec (.snapshotDone c n) s = .next s) ∧
      ∀ v, x.snap = some v →
        let ops := (gangTileList s x).flatMap (fun t => ((s.tile t).ops.filter (fun e => e.2.used)).map (·.2))
        let done := ∀ o, o ∈ ops → o.snapId = v.id ∧ (o.snapAct = false ∨ o.snapAbt = true)
        let word (used : Nat) (abt : Bool) := bytesOf (1 + 2 * b2n abt + used % 2 ^ 32 * 2 ^ 16) 8
        let ended (u : State) := u.updJob x.ctx x.num (fun z => { z with snap := none })
        (v.abort = false → ¬ done → exec (.snapshotDone c n) s = .next s) ∧
        ((v.abort = true ∨ done) → ∃ u, exec (.snapshotDone c n) s = .next u) ∧
        (v.abort = true → exec (.snapshotDone c n) s =
          .next (ended (schedWrite s x.ctx (v.recAddr + 0x18) (word 0 true)))) ∧
        (∀ s1 used full, v.abort = false → done →
          snapPages s x.ctx ((curGang x).elim 0 (fun g => (gangPages s x g).length)) v.area v.len 0 = (s1, used, full) →
          exec (.snapshotDone c n) s =
            .next (ended (schedWrite s1 x.ctx (v.recAddr + 0x18) (word used (full || ops.any (·.snapAbt)))))))

/-- PREQ, PPIN, PUNP, PEVT, FRZ, THAW and SNAP: how they complete, wait and answer: PageRequests and FreezesAndSnapshots of
Claims, together. -/
def Obligations.PageInstructions : Prop := PageRequests ∧ FreezesAndSnapshots

/-- R402 to R405: PLACE checks the placement word, the name, the geometry and the TILES quota, takes the lowest free load
slot for the ABSENT page, which becomes INSTALLING there, and completes with its handle, or with 0 where no slot is free; the
bits of the word that R403 leaves unused raise RESERVED_FIELD. -/
def Sys2Proof.Claims.Placement : Prop :=
  ∀ (s : State) (k : Nat) (d a b : BitVec 5), CoreReady .supervisor false s k →
    let w := gGet s k a
    let y := gGet s k b
    let bx := bits w 5 0
    let byy := bits w 10 6
    let wide := bits w 14 11 + 1
    let high := if bit w 15 then 8 else 4
    let skip := bits w 47 16
    let span := wide + (List.range 32).countP (fun i => skip / 2 ^ i % 2 = 1)
    let quota (p : Page) := residentTiles s p.ctx + wide * high ≤ quotaTiles s p.ctx
    let same (p q : Page) := q.ctx = p.ctx ∧ q.job = p.job ∧ q.ix = p.ix
    let gives (u : State) (x : Word64) : Prop := exec (.place d a b 0) s = .next (retireCore (gSet u k d x) k 4 none)
    (bits w 63 48 ≠ 0 → exec (.place d a b 0) s = traps s k .reservedField w) ∧
    (∀ j p, bits w 63 48 = 0 → namedPage s k y y = .ok (j, p) →
      let r := j.entry p.region
      let fits := byy % 4 = 0 ∧ byy + high ≤ 32 ∧ span ≤ 32 ∧ bx + span ≤ 64 ∧ skip % 2 = 0 ∧ skip < 2 ^ span ∧
        wide = r.wm1 + 1 ∧ high = r.height ∧ r.die = isleDie k ∧ p.st = .absent ∧
        (∀ t, t ∈ spanTiles r.die bx byy wide high skip → tileFree s t = true) ∧
        (∀ x, x < wide → shoalIn s r.die (bx + physCol skip x) byy high = false)
      (¬ fits → exec (.place d a b 0) s = traps s k .placeFail w) ∧
      (fits → ¬ quota p → exec (.place d a b 0) s = traps s k .quota 0) ∧
      (fits → quota p → (∀ n, n < 4 → (s.isle k).loads.get none n ≠ none) → gives s 0) ∧
      (∀ n, fits → quota p → n < 4 → (s.isle k).loads.get none n = none →
        (∀ m, m < n → (s.isle k).loads.get none m ≠ none) →
        ∃ u, gives u (BitVec.ofNat 64 (n + 1)) ∧
          (u.isle k).loads.get none n = some ⟨[]⟩ ∧ u.mem = s.mem ∧ u.tiles = s.tiles ∧ u.jobs = s.jobs ∧
          u.pages = s.pages.map (fun q => if same p q then { q with
            st := .installing, bx := bx, byy := byy, skip := skip, reserved := true, load := some (4 * k + n) } else q)))

/-- R402, R404, R405: CFGW writes the record at its address to a tile of a load slot's page and marks the tile WRITTEN; CFGC
checks it and answers 3 for a blank tile, 0 for a good one, 1 for a bad CRC and 2 for another defect, which R404 reads with
the destinations mapped back to page columns; CFGK answers 1 while a tile is WRITTEN or BAD and otherwise makes the page
RESIDENT; CFGA answers the counts of GOOD, BAD and WRITTEN tiles and frees the page and the slot. All four complete on a handle
and a tile of a page; CFGW where the record can be read. A scalar with a bit that
R402 leaves unused, or a column or row outside the page, raises RESERVED_FIELD, and a handle of no slot DESC_INVALID. -/
def Sys2Proof.Claims.LoadSlots : Prop :=
  ∀ (s : State) (k : Nat) (d a b : BitVec 5), CoreReady .supervisor false s k →
    let w := gGet s k a
    let y := gGet s k b
    let h := bits w 2 0
    let col := bits w 7 4
    let row := bits w 10 8
    let tiles := (loadSlot s k h).tiles
    let count (v : LoadState) := tiles.countP (fun e => e.2 == v)
    let held := slotPage s k h
    let gives (i : Instr) (u : State) (x : Word64) : Prop := exec i s = .next (retireCore (gSet u k d x) k 4 none)
    let marked (u : State) (v : LoadState) : State := u.updIsle k (fun i =>
      { i with loads := i.loads.put (h - 1) (some ⟨(loadSlot u k h).tiles.put (16 * row + col) v⟩) })
    (bit w 3 = true ∨ bits w 63 11 ≠ 0 →
      exec (.cfgw a b 0 0) s = traps s k .reservedField w ∧ exec (.cfgc d a 0) s = traps s k .reservedField w) ∧
    (bits w 63 3 ≠ 0 → exec (.cfgk d a 0) s = traps s k .reservedField w ∧ exec (.cfga d a 0) s = traps s k .reservedField w) ∧
    (bit w 3 = false → bits w 63 11 = 0 →
      (held = none → exec (.cfgw a b 0 0) s = traps s k .descInvalid w ∧ exec (.cfgc d a 0) s = traps s k .descInvalid w) ∧
      ∀ p, held = some p →
        let t := tileAt p.die (p.bx + physCol p.skip col) (p.byy + row)
        let r := (s.tile t).record
        (p.w ≤ col ∨ p.h ≤ row →
          exec (.cfgw a b 0 0) s = traps s k .reservedField w ∧ exec (.cfgc d a 0) s = traps s k .reservedField w) ∧
        (col < p.w → row < p.h →
          (y.toNat % 8 ≠ 0 → exec (.cfgw a b 0 0) s = traps s k .misalignData y) ∧
          (∀ e z, y.toNat % 8 = 0 → coreRecord s k y.toNat = .error (e, z) → exec (.cfgw a b 0 0) s = traps s k e z) ∧
          (∀ l s1, y.toNat % 8 = 0 → coreRecord s k y.toNat = .ok (l, s1) →
            exec (.cfgw a b 0 0) s =
              .next (retireCore (marked (s1.updTile t (fun v => { v with record := l })) .written) k 4 none)) ∧
          (tiles.get .blank (16 * row + col) = .blank → gives (.cfgc d a 0) s 3) ∧
          (tiles.get .blank (16 * row + col) ≠ .blank →
            (backRecord p.skip col r = none → gives (.cfgc d a 0) (marked s .bad) 2) ∧
            (∀ m, backRecord p.skip col r = some m → recCrcOk m = false →
              gives (.cfgc d a 0) (marked s .bad) 1) ∧
            (∀ m, backRecord p.skip col r = some m → recCrcOk m = true →
              (recordOk (tileKind t) m = true ∧ recX m = col ∧ recY m = row →
                gives (.cfgc d a 0) (marked s .good) 0) ∧
              (¬ (recordOk (tileKind t) m = true ∧ recX m = col ∧ recY m = row) →
                gives (.cfgc d a 0) (marked s .bad) 2))))) ∧
    (bits w 63 3 = 0 →
      (held = none → exec (.cfgk d a 0) s = traps s k .descInvalid w ∧ exec (.cfga d a 0) s = traps s k .descInvalid w) ∧
      ∀ p, held = some p →
        (count .written ≠ 0 ∨ count .bad ≠ 0 → gives (.cfgk d a 0) s 1) ∧
        (count .written = 0 → count .bad = 0 → ∃ u, gives (.cfgk d a 0) u 0 ∧
          u = gangReady (makeResident (freeLoads ((commitTiles s k h p).updJob p.ctx p.job (fun j => j.updEntry p.region
            (fun r => { r with bx := p.bx, byy := p.byy, skip := p.skip }))) p) p) p.ctx p.job) ∧
        ∃ u, gives (.cfga d a 0) u (BitVec.ofNat 64 (count .good + count .bad * 2 ^ 8 + count .written * 2 ^ 16)) ∧
          u = (unplace s p).updPage p.ctx p.job p.ix (fun x => { x with reserved := false }))

/-- PLACE and CFGW, CFGC, CFGK and CFGA on the load slots: how they complete and answer: Placement and LoadSlots of Claims,
together. -/
def Obligations.PlacementAndLoads : Prop := Placement ∧ LoadSlots

/-! ### The launch scheduler and the residency managers -/

/-- R339 to R341, R346: LOAD, UNLOAD and CANCEL are carried out for the first accepted command that need not wait, where it is of
this queue and operation; HEAD then moves past it. LOAD reports a status and a handle: misaligned image, bad header, section or
shape 1, signature 2, the status of a section or relocation that cannot be placed, no handle 4, read fault 5; UNLOAD drops the
kernel unless a job of it is in progress; CANCEL ends its job, which no longer holds a page or a lagoon. -/
def Sys2Proof.Claims.LoadUnloadCancel : Prop :=
  ∀ (s : State) (c q : Nat),
    let queue := schedQueue s c q
    let start (e : Nat × Nat × Nat) : State := { s with cmds := s.cmds.filter (· != e) }
    let due (e : Nat × Nat × Nat) (op : Nat) (l : List Byte) := nextCmd s = some e ∧ e.1 = c ∧ e.2.1 = q ∧
      cmdEntry s c queue.1 queue.2.1 e.2.2 = l ∧ (l.headD 0).toNat = op
    let ends (i : Instr) (u : State) := exec i s = .next (moveHead u c q)
    (nextCmd s = none ∨ (∀ e, nextCmd s = some e → e.1 ≠ c ∨ e.2.1 ≠ q) →
      exec (.load c q) s = .next s ∧ exec (.unload c q) s = .next s ∧ exec (.cancel c q) s = .next s ∧
      exec (.launch c q) s = .next s) ∧
    (∀ e l, due e 1 l →
      let s0 := start e
      let image := operand l 8
      let len := operand l 16
      let base := operand l 32
      let result (u : State) (handle status : Nat) := ends (.load c q)
        (schedWrite u c (operand l 24) (bytesOf (handle % 2 ^ 16 + status % 2 ^ 8 * 2 ^ 16) 8))
      let good (m : List Byte) := imgNum m 0 4 = 0x46524F47 ∧ imgNum m 4 2 = 1 ∧ imgNum m 6 2 = 1 ∧ imgNum m 8 4 = len
      (image % 64 ≠ 0 → result s0 0 1) ∧
      (∀ x, image % 64 = 0 → loadRead s0 c image 64 = .error x → result s0 0 5) ∧
      (∀ h s1, image % 64 = 0 → loadRead s0 c image 64 = .ok (h, s1) → len < 64 ∨ ¬ good h → result s1 0 1) ∧
      (∀ h s1, image % 64 = 0 → loadRead s0 c image 64 = .ok (h, s1) → 64 ≤ len → good h →
        (∀ x, loadRead s1 c image len = .error x → result s1 0 5) ∧
        ∀ m s2, loadRead s1 c image len = .ok (m, s2) →
          (sectionsOk m = false ∨ imgShape m = false → result s2 0 1) ∧
          (sectionsOk m = true → imgShape m = true → imgSigned s2 m = false → result s2 0 2) ∧
          (∀ s3 st, sectionsOk m = true → imgShape m = true → imgSigned s2 m = true →
            placeAll (copySection c m base) [5, 6, 7] s2 = (s3, some st) → result s3 0 st) ∧
          (∀ s3 s4 st, sectionsOk m = true → imgShape m = true → imgSigned s2 m = true →
            placeAll (copySection c m base) [5, 6, 7] s2 = (s3, none) →
            placeAll (fun u i => relocOne u c m base i) (List.range (secLen m 8 / 16)) s3 = (s4, some st) → result s4 0 st) ∧
          (∀ s3 s4, sectionsOk m = true → imgShape m = true → imgSigned s2 m = true →
            placeAll (copySection c m base) [5, 6, 7] s2 = (s3, none) →
            placeAll (fun u i => relocOne u c m base i) (List.range (secLen m 8 / 16)) s3 = (s4, none) →
            (freeHandle s4 c = none → result s4 0 4) ∧
            (∀ h, freeHandle s4 c = some h → ∃ x : Kernel,
              result { s4 with kernels := s4.kernels ++ [x] } h 0 ∧ x.ctx = c ∧ x.handle = h ∧ x.gangs = imgGangs m ∧
              x.regions = imgRegions m ∧ x.digest = sha256 (m.take (secOff m 10)))))) ∧
    (∀ e l, due e 4 l →
      let s0 := start e
      let h := bits (l.getD 8 0) 5 0
      ((∃ j, j ∈ s0.liveJobs c ∧ j.kernel = h) → ends (.unload c q) s0) ∧
      ((∀ j, j ∈ s0.liveJobs c → j.kernel ≠ h) → ends (.unload c q)
        { s0 with kernels := s0.kernels.filter (fun x => !(x.ctx == c && x.handle == h)) })) ∧
    (∀ e l, due e 3 l →
      let s0 := start e
      let n := operand l 8 % 2 ^ 16
      (s0.findJob c n = none → ends (.cancel c q) s0) ∧
      (∀ j, s0.findJob c n = some j → ∃ u, ends (.cancel c q) u ∧ u.findJob c n = none ∧
        (∀ p, p ∈ u.pages → p.ctx ≠ c ∨ p.job ≠ n) ∧ ∀ g, g ∈ u.lagoons → g.1.1 ≠ c ∨ g.1.2.1 ≠ n))

/-- R342, R343: LAUNCH checks in the order of its statuses: no kernel 7, bad operands 1, an absent die 8, a step list that
cannot be read 5 or that breaks R343 9, and 1024 jobs in progress 10. Otherwise the lowest free number names a QUEUED job with
an ABSENT page for each page of the kernel, on the die that DIEMAP gives its region; the result word answers number and status
where RESULT is not 0. -/
def Sys2Proof.Claims.Launches : Prop :=
  ∀ (s : State) (c q : Nat) (e : Nat × Nat × Nat) (l : List Byte),
    let queue := schedQueue s c q
    let s0 : State := { s with cmds := s.cmds.filter (· != e) }
    let w := operand l 8
    let n := w / 2 ^ 16 % 2 ^ 16
    let dm := numOf ((l.drop 48).take 16)
    let report (u : State) (handle status : Nat) : State := if operand l 32 = 0 then u else
      schedWrite u c (operand l 32) (bytesOf (handle % 2 ^ 16 + status % 2 ^ 8 * 2 ^ 16) 8)
    let ends (u : State) := exec (.launch c q) s = .next (moveHead u c q)
    let listed (b : List Byte) := (List.range n).map (fun i => (b.drop (16 * i)).take 16)
    nextCmd s = some e → e.1 = c → e.2.1 = q → cmdEntry s c queue.1 queue.2.1 e.2.2 = l → (l.headD 0).toNat = 2 →
    (s0.kernel c (w % 64) = none → ends (report s0 0 7)) ∧
    ∀ k, s0.kernel c (w % 64) = some k →
      let bad := n = 0 ∨ operand l 24 % 64 ≠ 0 ∨ w / 64 % 2 ^ 10 ≠ 0 ∨ w / 2 ^ 32 ≠ 0
      let absent := ∃ v r, k.regions[v]? = some r ∧ r.1 = true ∧ s0.present (dm / 2 ^ (2 * v) % 4) = false
      (bad → ends (report s0 0 1)) ∧
      (¬ bad → absent → ends (report s0 0 8)) ∧
      (∀ x, ¬ bad → ¬ absent → schedRead s0 c (operand l 16) (16 * n) = .error x → ends (report s0 0 5)) ∧
      (∀ b s1, ¬ bad → ¬ absent → schedRead s0 c (operand l 16) (16 * n) = .ok (b, s1) →
        let fine := ∀ x, x ∈ listed b → stepOk k x = true
        (¬ fine → ends (report s0 0 9)) ∧
        (fine → 1024 ≤ s1.jobs.countP (fun j => !jobFinal j) → ends (report s0 0 10)) ∧
        (fine → s1.jobs.countP (fun j => !jobFinal j) < 1024 →
          let num := freeJobNum s1 c
          ∃ j u, ends (report (setJobState u c num .queued 0) num 0) ∧
            u.jobs = s1.jobs.filter (fun x => !(x.ctx == c && x.num == num)) ++ [j] ∧
            j.ctx = c ∧ j.num = num ∧ j.queue = q ∧ j.kernel = w % 64 ∧ j.st = .queued ∧ j.jrec = operand l 24 ∧
            j.doneCtr = operand l 40 ∧ j.its = 0 ∧ j.steps = (listed b).map stepEntry ∧
            u.mem = s1.mem ∧
            u.pages = s1.pages ++ k.pages.mapIdx (fun ix p => launchPage c num ix dm p)))

/-- Queue commands: LOAD, UNLOAD, CANCEL and LAUNCH: QueueCommands, LoadUnloadCancel and Launches of Claims, together. -/
def Obligations.SchedulerCommands : Prop := QueueCommands ∧ LoadUnloadCancel ∧ Launches

/-- R313, R314, R328, R346, R347: an admission decision takes the first head, in the order of effective priority and, at one
level, of the turn, that fits its context's quota, or whose gang exceeds the whole quota: that job faults with QUOTA. No head
is taken during a tenant switch. Where the fabric is full, the job that gives way is pre-empted first. -/
def Sys2Proof.Claims.Admission : Prop :=
  ∀ (s : State),
    let too (j : Job) := quotaTiles s j.ctx < curTiles s j
    let fits (j : Job) := curTiles s j + residentTiles s j.ctx ≤ quotaTiles s j.ctx
    let taken (j : Job) := (headOrder s).find? (fun x => decide (too x) || decide (fits x)) = some j
    ((headOrder s).Perm (heads s) ∧ (headOrder s).Pairwise (fun a b => jobEff s b ≤ jobEff s a ∧
      (jobEff s a = jobEff s b → turnOf s (jobEff s a) a.ctx a.queue ≤ turnOf s (jobEff s b) b.ctx b.queue))) ∧
    (s.tslot ≠ none → exec .admissionDecision s = .next s) ∧
    ((∀ j, j ∈ heads s → ¬ too j ∧ ¬ fits j) → exec .admissionDecision s = .next s) ∧
    (∀ j, s.tslot = none → taken j → too j →
      exec .admissionDecision s = .next (fenceJob s j.ctx j.num (causeCode .quota))) ∧
    (∀ j, s.tslot = none → taken j → ¬ too j → fabricFull s j = false ∨ givesWay s j = none →
      exec .admissionDecision s = .next (admitJob s j)) ∧
    (∀ j x, s.tslot = none → taken j → ¬ too j → fabricFull s j = true → givesWay s j = some x →
      jobEff s x < jobEff s j ∧ x.ctx ≠ j.ctx ∧
      exec .admissionDecision s = .next (admitJob (preemptJob s x.ctx x.num) j))

/-- R346, R349, R430: a DRAINING job that is quiescent becomes COMPLETE, and one that is RUNNING or in PAGE_WAIT for WDTO
milliseconds without progress faults with WATCHDOG; any other is left as it is. A job that ends is no longer in progress and
holds no page or lagoon. -/
def Sys2Proof.Claims.JobEnds : Prop :=
  ∀ (s : State) (c n : Nat) (x : Job), s.findJob c n = some x →
    let late := (x.st = .running ∨ x.st = .pageWait) ∧ s.mgmt.wdto ≠ 0 ∧ x.act + 1000 * s.mgmt.wdto.toNat ≤ s.micros
    let ended := x.st = .draining ∧ quiescent s c n = true
    let gone (u : State) := u.findJob c n = none ∧ (∀ p, p ∈ u.pages → p.ctx ≠ c ∨ p.job ≠ n) ∧
      (∀ g, g ∈ u.lagoons → g.1.1 ≠ c ∨ g.1.2.1 ≠ n)
    (ended → exec (.jobQuiescent c n) s = .next (endJob s c n .complete 0) ∧ gone (endJob s c n .complete 0)) ∧
    (¬ ended → exec (.jobQuiescent c n) s = .next s) ∧
    (late → exec (.jobWatchdog c n) s = .next (endJob s c n .faulted (causeCode .watchdog)) ∧
      gone (endJob s c n .faulted (causeCode .watchdog))) ∧
    (¬ late → exec (.jobWatchdog c n) s = .next s)

/-- R344, R345, R350: STEP names a job and its counter. A final job answers FINAL, a queued or admitted one its counter with bit 61, another
counter LOST, and nothing moves. Otherwise the iteration counts up and the step token leaves for the
step's START, or at the last iteration the gang is DONE and the next step's configuration is entered; the answer is the new
counter. Where START names no place of the job the token cannot leave, and the job is fenced (log entry 71). -/
def Sys2Proof.Claims.JobSteps : Prop :=
  ∀ (s : State) (k : Nat) (d a b : BitVec 5), CoreReady .user false s k →
    let w := gGet s k a
    let y := gGet s k b
    let c := (s.isle k).ctx
    let n := bits w 15 0
    let i : Instr := .step d a b 0
    (bits w 63 16 ≠ 0 → exec i s = traps s k .reservedField w) ∧
    (bits w 63 16 = 0 → bits y 63 48 ≠ 0 → exec i s = traps s k .reservedField y) ∧
    (bits w 63 16 = 0 → bits y 63 48 = 0 → s.anyJob c n = none → exec i s = traps s k .descInvalid w) ∧
    (∀ j, bits w 63 16 = 0 → bits y 63 48 = 0 → s.anyJob c n = some j →
      let pc := j.its % 2 ^ 32 + j.cstep % 2 ^ 16 * 2 ^ 32
      let named := s.updJob c n (fun x => { x with act := s.micros })
      let early := j.st = .queued ∨ j.st = .admitted
      let count := ((j.steps[j.cstep]?).map (·.count)).getD 0
      let go := jobFinal j = false ∧ ¬ early ∧ pc = y.toNat ∧ j.st ≠ .draining
      let answer (u : State) (v : Nat) := exec i s = wrote u k 4 d (BitVec.ofNat 64 v)
      (jobFinal j = true → answer s (pc + 2 ^ 62)) ∧
      (early → answer named (pc + 2 ^ 61)) ∧
      (jobFinal j = false → ¬ early → pc ≠ y.toNat → answer named (pc + 2 ^ 63)) ∧
      (jobFinal j = false → pc = y.toNat → j.st = .draining → answer named pc) ∧
      (∀ e, go → j.steps[j.cstep]? = some e → j.its + 1 < e.count → destOk (some j) e.start = false → ∃ v,
        answer (fenceJob (named.updJob c n (fun x => { x with its := j.its + 1 })) c n (causeCode .routeInvalid)) v) ∧
      (∀ e, go → j.steps[j.cstep]? = some e → j.its + 1 < e.count → destOk (some j) e.start = true → ∃ u ord,
        answer u ((j.its + 1) % 2 ^ 32 + j.cstep % 2 ^ 16 * 2 ^ 32) ∧
        u.jobs = (named.updJob c n (fun x => { x with its := j.its + 1 })).jobs ∧ u.mem = s.mem ∧
        u.flights = s.flights ++ [ord, stepToken { j with its := j.its + 1 } e.start].map
          (flightOf s (.step c n) (j.entry (e.start % 64)).die (some n)) ∧
        hKind ord.hdr = kORD) ∧
      (∀ g, go → curGang j = some g → count ≤ j.its + 1 →
        let u := enterConfig ((setGang named c n g .done).updJob c n (fun x => { x with its := 0, cstep := j.cstep + 1 })) c n
        answer u (((u.anyJob c n).map jobPc).getD pc)))

/-- Admission of jobs, their ends, and STEP: Admission, JobEnds and JobSteps of Claims, together. -/
def Obligations.JobScheduling : Prop := Admission ∧ JobEnds ∧ JobSteps

/-- R380 to R385, R391, R392: the events of a page in the module's list, each in the state it needs and for a job in
progress. A fetched page whose records are good goes to PLACING; a placed one takes its position with RES 0 and is
INSTALLING; an installed one is RESIDENT; a drained page is read out and SAVED, its region free. In any other state the
event changes nothing. -/
def Sys2Proof.Claims.PageEvents : Prop :=
  ∀ (s : State) (n : Nat) (p : Page) (j : Job), s.pages[n]? = some p → s.findJob p.ctx p.job = some j →
    let found := (s.kernelOf j).elim [] (fun x => ((x.pages[p.ix]?).map (·.recs)).getD [])
    let fetched := readRecords s p.ctx found p.records
    let bad (l : List (List Byte)) := (List.range l.length).filter (fun i => !recCrcOk (l.getD i []))
    let upd (u : State) (f : Page → Page) := u.updPage p.ctx p.job p.ix f
    let other := s.pages.find? (fun q => q.ctx == p.ctx && q.job == p.job && q.region == p.region && q.ix != p.ix && pagePlaced q)
    let fault (c : Cause) := fenceJob s p.ctx p.job (causeCode c)
    (p.st ≠ .fetching → exec (.pageFetchDone n) s = .next s) ∧
    (p.st = .fetching →
      (fetched = none → exec (.pageFetchDone n) s = .next (fault .pageAbsent)) ∧
      (∀ l s1, fetched = some (l, s1) →
        (bad l = [] → exec (.pageFetchDone n) s = .next (upd s1 (fun x => { x with st := .placing, records := l }))) ∧
        ((∃ i, i ∈ bad l ∧ i ∈ p.retried) → exec (.pageFetchDone n) s =
          .next (fenceJob s1 p.ctx p.job (causeCode .pageCrc))) ∧
        (bad l ≠ [] → (∀ i, i ∈ bad l → i ∉ p.retried) → exec (.pageFetchDone n) s = .next (upd s1 (fun x => { x with
          records := l.mapIdx (fun i r => if i ∈ bad l then [] else r), retried := x.retried ++ bad l }))))) ∧
    (p.st = .placing →
      (everFits s p = false ∨ storeNever s p = true → exec (.pagePlacement n) s = .next (fault .placeFail)) ∧
      (everFits s p = true → storeNever s p = false → scalesNever s p = true →
        exec (.pagePlacement n) s = .next (fault .quota)) ∧
      (∀ q, everFits s p = true → storeNever s p = false → scalesNever s p = false → other = some q →
        exec (.pagePlacement n) s = .next (if pagePinned s q then waitForRegion s p else if q.st = .resident then
          evictGang s p.ctx p.job (gangOf s j q.ix) else s)) ∧
      (everFits s p = true → storeNever s p = false → scalesNever s p = false → other = none →
        (quotaTiles s p.ctx < residentTiles s p.ctx + p.w * p.h ∨ storeFits s p = false ∨
            findPosition s p p.save.isSome (tileFree s) (saveFits s p) = none →
          exec (.pagePlacement n) s = .next (makeRoom s p)) ∧
        (∀ bx byy skip, residentTiles s p.ctx + p.w * p.h ≤ quotaTiles s p.ctx → storeFits s p = true →
          findPosition s p p.save.isSome (tileFree s) (saveFits s p) = some (bx, byy, skip) →
          exec (.pagePlacement n) s = .next (placePage s p bx byy skip)))) ∧
    (p.st = .absent ∨ p.st = .saved →
      ((j.st = .pageWait ∨ j.st = .placing) ∧ inCurGang s p = true → exec (.pagePlacement n) s = .next (demandGang s j)) ∧
      (¬ ((j.st = .pageWait ∨ j.st = .placing) ∧ inCurGang s p = true) → exec (.pagePlacement n) s = .next s)) ∧
    (p.st ≠ .placing → p.st ≠ .absent → p.st ≠ .saved → exec (.pagePlacement n) s = .next s) ∧
    (p.st = .installing → p.load = none →
      (recordsOk p = true →
        exec (.pageInstallDone n) s = .next (gangReady (makeResident (writeTiles s p) p) p.ctx p.job)) ∧
      (recordsOk p = false → exec (.pageInstallDone n) s = .next (fault .pageCrc))) ∧
    (p.st ≠ .installing → exec (.pageInstallDone n) s = .next s) ∧
    (p.st = .draining → p.drained = false → drainOver s p = true → exec (.pageDrainDone n) s =
      .next (upd ((pageTileList p).foldl settleTile s) (fun x => { x with drained := true }))) ∧
    (p.st ≠ .draining ∨ p.drained = true ∨ drainOver s p = false → exec (.pageDrainDone n) s = .next s) ∧
    (p.st = .draining → p.drained = true → exec (.pageReadoutDone n) s = .next (upd (freeRegion s p) (fun x =>
      { x with st := .saved, save := some (pageSave s p), drained := false }))) ∧
    (p.st ≠ .draining ∨ p.drained = false → exec (.pageReadoutDone n) s = .next s)

/-- R353, R380, R383, R389: the position of a page is, of the regions of its die that keep the geometry of R380, have no shoal in a
page column, and whose tiles and isles serve, the one of the lowest row, then the lowest column, then the fewest skipped columns
(among equals the choice is log entry 72); with none, the next victim of its context leaves, the gangs that are not current
first, then the one longest unused; while a page of the context is leaving the die the placement waits. -/
def Sys2Proof.Claims.PositionsAndVictims : Prop :=
  ∀ (s : State) (p : Page),
    (∀ more ok fits bx byy skip, 0 < p.w → p.w ≤ 16 → 0 < p.h →
      let span (k : Nat) := p.w + (List.range 32).countP (fun i => k / 2 ^ i % 2 = 1)
      let region (x y k : Nat) : Prop := y % 4 = 0 ∧ y + p.h ≤ 32 ∧ span k ≤ 32 ∧ x + span k ≤ 64 ∧ k % 2 = 0 ∧
        physCol k (p.w - 1) + 1 = span k ∧ k < 2 ^ span k ∧
        (∀ c h, c < span k → h < p.h → ok (tileAt p.die (x + c) (y + h)) = true) ∧
        ∀ c, c < p.w → shoalIn s p.die (x + physCol k c) y p.h = false
      findPosition s p more ok fits = some (bx, byy, skip) →
      region bx byy skip ∧ fits bx byy skip = true ∧
      ∀ x y k, region x y k → fits x y k = true → (more = true ∨ ∀ k', fits x y k' = fits x y k) →
        byy < y ∨ byy = y ∧ (bx < x ∨ bx = x ∧ span skip ≤ span k)) ∧
    (∀ v, firstVictim (victims s p) = some v → v ∈ victims s p ∧ ∀ x, x ∈ victims s p →
      (v.current = false ∧ x.current = true) ∨ v.current = x.current ∧ (v.stamp < x.stamp ∨ v.stamp = x.stamp ∧
        (v.job < x.job ∨ v.job = x.job ∧ v.gang ≤ x.gang))) ∧
    ((∃ q, q ∈ s.pages ∧ q.ctx = p.ctx ∧ q.die = p.die ∧ (q.st = .draining ∨ q.st = .migrating)) → makeRoom s p = s) ∧
    (∀ v, (∀ q, q ∈ s.pages → q.ctx = p.ctx → q.die = p.die → q.st ≠ .draining ∧ q.st ≠ .migrating) →
      firstVictim (victims s p) = some v → makeRoom s p = evictGang s p.ctx v.job v.gang) ∧
    ((∀ q, q ∈ s.pages → q.ctx = p.ctx → q.die = p.die → q.st ≠ .draining ∧ q.st ≠ .migrating) → victims s p = [] →
      makeRoom s p = waitForRegion s p)

/-- R382, R383, R384, R395: a die's acknowledgement enters every entry of the job; a migration freezes the unpinned RESIDENT gang of a
page with RES 0, and once a MIGRATING page has drained it is RESIDENT at another position of its die, or at its own, unless its job's
first step token finds no route and ends the job (R63); where neither position can take what it holds, it stays MIGRATING. -/
def Sys2Proof.Claims.AcknowledgementsAndMigration : Prop :=
  ∀ (s : State) (n d : Nat) (p : Page) (j : Job), s.pages[n]? = some p → s.findJob p.ctx p.job = some j →
    let gang := (actsOn s j (gangOf s j p.ix)).filterMap (fun ix => s.page p.ctx p.job ix)
    let free := ∀ q, q ∈ gang → q.st = .resident ∧ pagePinned s q = false
    (exec (.relocationAck p.ctx p.job d) s = .next (s.updJob p.ctx p.job (fun x => { x with
        reloc := x.reloc.map (fun e => (e.1, { e.2 with acks := insertOnce e.2.acks d })) }))) ∧
    (p.st = .resident → free → exec (.defragMigrate n) s = .next (gang.foldl (fun u q => freezePage u q .migrating) s)) ∧
    (p.st ≠ .resident ∨ ¬ free → exec (.defragMigrate n) s = .next s) ∧
    (p.st = .migrating → drainOver s p = true → exec (.migrationDone n) s = .next (migrated s p) ∧
      ∀ q, let s1 := readOut (endDrain s p) p .migrating
        let free := fun t => !(s1.pages.any (fun x => inPage x t && !(x.ctx == p.ctx && x.job == p.job && x.ix == p.ix))) &&
          !(s1.tile t).ending && !(s1.isle (tileIsle t)).fenced
        let fits := saveFits s1 q
        let other := findPosition s1 q q.save.isSome free (fun x y k => !(x == q.bx && y == q.byy) && fits x y k)
        let goes (bx byy skip : Nat) := ∃ u, exec (.migrationDone n) s = .next u ∧
          (j.first = true ∧ u.findJob p.ctx p.job = none ∨ ∃ x, u.page p.ctx p.job p.ix = some x ∧ x.st = .resident ∧
            x.bx = bx ∧ x.byy = byy ∧ x.skip = skip)
        s1.page p.ctx p.job p.ix = some q →
          (∀ bx byy skip, p.evicting = false → other = some (bx, byy, skip) → goes bx byy skip) ∧
          (p.evicting = false → other = none → fits q.bx q.byy q.skip = true → goes q.bx q.byy q.skip) ∧
          (other = none → fits q.bx q.byy q.skip = false → exec (.migrationDone n) s = .next s)) ∧
    (p.st ≠ .migrating ∨ drainOver s p = false → exec (.migrationDone n) s = .next s)

/-- Page events, positions and victims, and migration: PageEvents, PositionsAndVictims and AcknowledgementsAndMigration of Claims,
together. -/
def Obligations.PageResidency : Prop := PageEvents ∧ PositionsAndVictims ∧ AcknowledgementsAndMigration

/-! ### Circuits -/

/-- R3, R406, R407, R409: CONN, in Machine mode. Its operation word keeps bits 63:8 zero, and OPEN's specification its reserved bits.
OPEN answers 1 for an entry in use, 4 for an invalid specification, 2 for a pair that has a circuit, 3 where a channel budget
would be passed, and 0 with the entry REQUESTED; CLOSE and RESET answer 0 where the state allows them, else 1; STATUS answers
state, failure cause and specification. -/
def Sys2Proof.Claims.Connections : Prop :=
  ∀ (s : State) (k : Nat) (d a b : BitVec 5), CoreReady .machine false s k →
    let w := gGet s k a
    let v := gGet s k b
    let e := bits w 7 2
    let x := s.circuit e
    let put (y : Circuit) (r : Word64) := wrote (s.setCircuit e y) k 4 d r
    let aep := bits v 2 0
    let bep := bits v 6 4
    let fib := bit v 3
    let ch := bits v 22 16
    let port := bits v 11 8
    let far := bits v 14 12
    let valid := aep ≤ 4 ∧ bep ≤ 4 ∧ (fib = true ∨ aep ≠ bep) ∧ endPresent s aep = true ∧ 1 ≤ ch ∧
      ch ≤ (if fib then 8 else 64) ∧
      (fib = true → far ≠ bits s.mgmt.modid 2 0 ∧ bits s.mgmt.fibmap (3 * port + 2) (3 * port) = far) ∧
      (fib = false → endPresent s bep = true)
    let joined := ∃ c, c ∈ liveCircuits s ∧ samePair c.spec v = true
    let fits := channels s (usesEnd · aep) + ch ≤ 64 ∧
      (fib = true → channels s (fun z => specFib z && bits z 11 8 == port) + ch ≤ 8) ∧
      (fib = false → channels s (usesEnd · bep) + ch ≤ 64)
    let opened : Circuit := { x with st := .requested, fcause := 0, spec := v }
    (b ≠ 0 → exec (.connStatus d a b 0) s = traps s k .reservedField 0 ∧
      exec (.connClose d a b 0) s = traps s k .reservedField 0 ∧ exec (.connReset d a b 0) s = traps s k .reservedField 0) ∧
    (bits w 63 8 ≠ 0 → exec (.connOpen d a b 0) s = traps s k .reservedField w ∧
      exec (.connStatus d a 0 0) s = traps s k .reservedField w ∧ exec (.connClose d a 0 0) s = traps s k .reservedField w ∧
      exec (.connReset d a 0 0) s = traps s k .reservedField w) ∧
    (bits w 63 8 = 0 → bits v 63 23 ≠ 0 ∨ bit v 15 = true ∨ bit v 7 = true →
      exec (.connOpen d a b 0) s = traps s k .reservedField v) ∧
    (bits w 63 8 = 0 → bits v 63 23 = 0 → bit v 15 = false → bit v 7 = false →
      (x.st ≠ .idle → exec (.connOpen d a b 0) s = put x 1) ∧
      (x.st = .idle → ¬ valid → exec (.connOpen d a b 0) s = put x 4) ∧
      (x.st = .idle → valid → joined → exec (.connOpen d a b 0) s = put x 2) ∧
      (x.st = .idle → valid → ¬ joined → ¬ fits → exec (.connOpen d a b 0) s = put x 3) ∧
      (x.st = .idle → valid → ¬ joined → fits → exec (.connOpen d a b 0) s = put opened 0)) ∧
    (bits w 63 8 = 0 →
      (x.st = .requested ∨ x.st = .tuning → exec (.connClose d a 0 0) s = put { x with st := .idle } 0) ∧
      (x.st = .up → exec (.connClose d a 0 0) s = put { x with st := .draining } 0) ∧
      (x.st = .idle ∨ x.st = .draining ∨ x.st = .failed → exec (.connClose d a 0 0) s = put x 1) ∧
      (x.st = .failed → exec (.connReset d a 0 0) s = put { x with st := .idle } 0) ∧
      (x.st ≠ .failed → exec (.connReset d a 0 0) s = put x 1) ∧
      exec (.connStatus d a 0 0) s = wrote s k 4 d (BitVec.ofNat 64 (circuitCode x.st + x.fcause.toNat * 2 ^ 3 +
        bits x.spec 22 0 * 2 ^ 8)))

/-- R408, R411, R413, R431: the events of an entry. Each moves it only out of the states that R408 names. A circuit that becomes UP sends
again what waits for its pair; a flit is accepted once and in order, a bad one is sent again, and the eighth failure in a row
fails the circuit; a circuit that fails takes its cause, and the jobs whose gang or traffic it bore are no longer in progress;
a reset of the X-die clears every entry and returns their traffic to the ingress. -/
def Sys2Proof.Claims.CircuitEvents : Prop :=
  ∀ (s : State) (e : Nat) (w : BitVec 2),
    let c := s.circuit e
    let put (y : Circuit) : State := s.setCircuit e y
    let on := (c.st = .up ∨ c.st = .draining) ∧ c.resend = false
    let fails (i : Instr) (u : State) (z : BitVec 2) := exec i s = .next (failCircuit u e z) ∧
      ((failCircuit u e z).circuit e).st = .failed ∧ ((failCircuit u e z).circuit e).fcause = z ∧
      ∀ j, j ∈ circuitJobs s c → (failCircuit u e z).findJob j.1 j.2 = none
    (let ends := endReady s (specA c.spec) = true ∧ (specFib c.spec = true ∨ endReady s (specB c.spec) = true);
      (c.st = .requested → ends → exec (.circuitReady e) s = .next (put { c with st := .tuning, since := s.micros })) ∧
      (c.st ≠ .requested ∨ ¬ ends → exec (.circuitReady e) s = .next s)) ∧
    (c.st = .tuning → ∃ u, exec (.circuitLocked e) s = .next u ∧ (u.circuit e).st = .up ∧ (u.circuit e).rxSeq = [] ∧
      (u.circuit e).retry.map (·.toks) = (waitingFlits s e ++ c.retry).map (·.toks) ∧ u.mem = s.mem ∧ u.jobs = s.jobs) ∧
    (c.st ≠ .tuning → exec (.circuitLocked e) s = .next s ∧ exec (.tuningTimeout e) s = .next s) ∧
    (c.st = .tuning → c.since + 100 ≤ s.micros →
      exec (.tuningTimeout e) s = .next (put { c with st := .failed, fcause := 1 })) ∧
    (s.micros < c.since + 100 → exec (.tuningTimeout e) s = .next s) ∧
    (c.st = .draining → c.retry = [] → exec (.circuitDrained e) s = .next (put { c with st := .idle })) ∧
    (c.st ≠ .draining ∨ c.retry ≠ [] → exec (.circuitDrained e) s = .next s) ∧
    (c.st = .up ∨ c.st = .draining → 2 ≤ w.toNat → fails (.linkFail e w) s w) ∧
    (¬ (c.st = .up ∨ c.st = .draining) ∨ w.toNat < 2 → exec (.linkFail e w) s = .next s) ∧
    (exec .xDieReset s = .next { s with
      circuits := [], flights := s.circuits.flatMap (fun x => x.2.retry.flatMap (·.toks)) ++ s.flights }) ∧
    (¬ on ∨ c.retry = [] → ∀ good, exec (.flitReceive e good) s = .next s) ∧
    (∀ f r, on → c.retry = f :: r →
      let far := if bits c.spec 2 0 = f.src then bits c.spec 6 4 else bits c.spec 2 0
      let want := c.rxSeq.get 0 f.src
      let bad : Circuit := { c with fails := c.fails + 1, resend := true }
      (f.seq = want → exec (.flitReceive e true) s = .next { s with
        flights := s.flights ++ f.toks.map (fun x => { x with die := far, strait := false }),
        circuits := s.circuits.put e { c with retry := r, fails := 0, rxSeq := c.rxSeq.put f.src ((want + 1) % 4096) } }) ∧
      (f.seq ≠ want → exec (.flitReceive e true) s = .next (put { c with retry := r, fails := 0 })) ∧
      (c.fails < 7 → exec (.flitReceive e false) s = .next (put bad)) ∧
      (7 ≤ c.fails → fails (.flitReceive e false) (put bad) 2)) ∧
    (c.st = .up ∨ c.st = .draining → c.resend = true → exec (.flitResend e) s = .next (put { c with resend := false })) ∧
    (¬ (c.st = .up ∨ c.st = .draining) ∨ c.resend = false → exec (.flitResend e) s = .next s)

/-- CONN and the events of a circuit: Connections and CircuitEvents of Claims, together. -/
def Obligations.Circuits : Prop := Connections ∧ CircuitEvents

/-! ### Contexts and tenant switches -/

/-- R308 to R313, R316, R317: OPEN of a FREE context whose record keeps its fields makes it OPEN with the record's tenant; CLOSE and KILL
of a context in use end its jobs and make it CLOSING, KILL also marking the cores that hold it; anything else sets REFUSED and
nothing more. A CLOSE waits, with BUSY set, for a tenant switch, and an OPEN of a sliced-out context for its tenant; while BUSY
is set no command has an effect. A CLOSING context that has nothing left becomes FREE, and no translation of it stays. -/
def Sys2Proof.Claims.ContextCommands : Prop :=
  ∀ (s : State) (c : Nat), c < 256 →
    let st (u : State) := (u.ctx c).st
    let word (op flags : Nat) : Word32 := BitVec.ofNat 32 (flags * 2 ^ 30 + op * 2 ^ 8 + c)
    let refused (i : Instr) (op : Nat) := exec i s = .next { s with mgmt := { s.mgmt with ctxcmd := word op 1 } }
    let held (i : Instr) (op : Nat) := exec i s = .next { s with mgmt := { s.mgmt with ctxcmd := word op 2 } }
    let idle := bit s.mgmt.ctxcmd 31 = false
    let opens := c ≠ 0 ∧ s.mgmt.ctxtab ≠ 0 ∧ st s = .free ∧ recordOpens s c = true
    let closes := c ≠ 0 ∧ (st s = .opened ∨ st s = .active ∨ st s = .slicedOut ∨ st s = .fenced)
    let closed (i : Instr) (op : Nat) (f : State → Prop) := ∃ u, exec i s = .next u ∧ st u = .closing ∧ u.liveJobs c = [] ∧
      u.mgmt.ctxcmd = word op 0 ∧ (∀ e, e ∈ u.cmds → e.1 ≠ c) ∧ (∀ x, x ∈ u.kernels → x.ctx ≠ c) ∧
      (∀ g, g ∈ u.lagoons → g.1.1 ≠ c) ∧ f u
    (¬ idle → exec (.contextOpen c) s = .next s ∧ exec (.contextClose c) s = .next s ∧ exec (.contextKill c) s = .next s) ∧
    (idle → opens → ∃ u, exec (.contextOpen c) s = .next u ∧ st u = .opened ∧
      (u.ctx c).tenant = fieldOf (ctxWord s c 0) 15 8 ∧ u.mgmt.ctxcmd = word 1 0 ∧ u.mgmt.jseq = s.mgmt.jseq + 1) ∧
    (idle → ¬ opens → st s ≠ .slicedOut → refused (.contextOpen c) 1) ∧
    (idle → st s = .slicedOut → held (.contextOpen c) 1) ∧
    (idle → closes → s.tslot = none → closed (.contextClose c) 2 (fun _ => True)) ∧
    (idle → closes → s.tslot ≠ none → held (.contextClose c) 2) ∧
    (idle → ¬ closes → refused (.contextClose c) 2 ∧ refused (.contextKill c) 3) ∧
    (idle → closes → closed (.contextKill c) 3 (fun u => ∀ k, (s.isle k).ctx = c → (u.core k).killed = true)) ∧
    (st s = .closing → ctxReturned s c = true → ∃ u, exec (.contextReleased c) s = .next u ∧ st u = .free ∧
      (c ≠ 0 → ∀ k x, x ∈ (u.isle k).tlb → x.ctx ≠ c)) ∧
    (st s ≠ .closing ∨ ctxReturned s c = false → exec (.contextReleased c) s = .next s)

/-- R314, R315, R430: once a slice is over, a switch to the tenant of the highest waiting head starts, or the slice begins anew where none
waits. A supervisor's DONE ends the step of its isle, a SAVE step naming the isle in the context's record; with the last SAVE
the LOAD steps are named, and with the last LOAD the tenant has the fabric and a CLOSE that waited is carried out. A step that
is not reported in time fences its context with WATCHDOG; a SAVE is then discarded, and a LOAD step names context 0. -/
def Sys2Proof.Claims.TenantSwitches : Prop :=
  ∀ (s : State) (k : Nat),
    let i := s.isle k
    let op := bits i.tsw 3 2
    let c := bits i.tsw 11 4
    let cleared (u : State) : State := u.updIsle k (fun v => { v with tsw := putBits (putBits v.tsw 3 2 0) 0 0 0 })
    let done : State := if op = 1 ∧ c ≠ 0 ∧ ((s.ctx c).st = .opened ∨ (s.ctx c).st = .active ∨ (s.ctx c).st = .slicedOut) then
      (cleared s).updCtx c (fun x => { x with savedOn := insertOnce x.savedOn k }) else cleared s
    let ended := s.slice + s.mgmt.tslice.toNat ≤ s.micros
    let late := s.mgmt.wdto ≠ 0 ∧ i.tswAt + 1000 * s.mgmt.wdto.toNat ≤ s.micros
    let fenced := fenceCtx s c (causeCode .watchdog)
    (s.tslot ≠ none ∨ ¬ ended → exec .tenantSliceEnd s = .next s) ∧
    (s.tslot = none → ended → nextTenant s = none → exec .tenantSliceEnd s = .next { s with slice := s.micros }) ∧
    (∀ t, s.tslot = none → ended → nextTenant s = some t → t ≠ s.tenant ∧ exec .tenantSliceEnd s = .next (startSwitch s t)) ∧
    (op = 0 → exec (.tswDone k) s = .next s ∧ exec (.tswTimeout k) s = .next s) ∧
    (op ≠ 0 → s.tslot = none → exec (.tswDone k) s = .next done) ∧
    (∀ w, op ≠ 0 → s.tslot = some w →
      let saving := w.saving.filter (· != k)
      let loading := w.loading.filter (· != k)
      (w.saving ≠ [] → saving ≠ [] → exec (.tswDone k) s = .next { done with tslot := some { w with saving := saving } }) ∧
      (w.saving ≠ [] → saving = [] → exec (.tswDone k) s = .next (startLoads done { w with saving := [] })) ∧
      (w.saving = [] → loading ≠ [] → exec (.tswDone k) s = .next { done with tslot := some { w with loading := loading } }) ∧
      (w.saving = [] → loading = [] → exec (.tswDone k) s = .next (endSwitch done { w with loading := [] }))) ∧
    (¬ late → exec (.tswTimeout k) s = .next s) ∧
    (op = 1 → late → exec (.tswTimeout k) s
      = .next (if bits (fenced.isle k).tsw 3 2 = 1 then stepOver (cleared fenced) k else fenced)) ∧
    (op ≠ 0 → op ≠ 1 → late → exec (.tswTimeout k) s = .next (nameStep fenced k 2 0)) ∧
    (∀ w, (endSwitch s w).tslot = none ∧ (endSwitch s w).tenant = w.inc ∧ (endSwitch s w).slice = (endSwitch s w).micros ∧
      (bit s.mgmt.ctxcmd 31 = true → bits s.mgmt.ctxcmd 9 8 = 2 → bit (endSwitch s w).mgmt.ctxcmd 31 = false))

/-- R318 to R321, R366, R428: CTXS answers 1 while the isle holds work of its context, and otherwise writes the area, fires the
context's wake entries with PASSED 0 and leaves the isle saved with its tags complete; CTXL answers 1 unless the isle is saved and
not fenced, 2 where a bank that it needs is in use, raises RESERVED_FIELD for a reserved bit of the area and QUOTA for registers
that do not fit, waits for pinned lines of a bank, and otherwise loads the area, its context and its tenant. An area address that is
not aligned on 4096 bytes raises MISALIGN_DATA. -/
def Sys2Proof.Claims.ContextSaveAndLoad : Prop :=
  ∀ (s : State) (k : Nat) (d a : BitVec 5), CoreReady .supervisor false s k →
    let w := gGet s k a
    let gives (i : Instr) (u : State) (x : Word64) : Prop := exec i s = .next (retireCore (gSet u k d x) k 4 none)
    let i := s.isle k
    let rq := coreReq s k .data
    let n := areaLen (heldScales i i.ctx).length (heldBanks i i.ctx).length
    let stores := areaCheck rq .store (areaPages w.toNat n) s
    (w.toNat % 4096 ≠ 0 → exec (.ctxs d a 0) s = traps s k .misalignData w) ∧
    (∀ e y, w.toNat % 4096 = 0 → stores = .error (e, y) → exec (.ctxs d a 0) s = traps s k e y) ∧
    (∀ s1, w.toNat % 4096 = 0 → stores = .ok s1 → isleBusy s k = true → gives (.ctxs d a 0) s 1) ∧
    (∀ s1 s2, w.toNat % 4096 = 0 → stores = .ok s1 → isleBusy s k = false →
      writeVa s1 rq w.toNat (saveArea i) (pieces n) = .ok s2 →
      let u := (fireWakes s2 k (fun e => e.ctx == i.ctx) false).updIsle k savedIsle
      gives (.ctxs d a 0) u 0 ∧ (u.isle k).saved = true ∧ (u.isle k).ctb = BitVec.allOnes 64 ∧
        (u.isle k).cerr = 0) ∧
    (∀ s1 e y, w.toNat % 4096 = 0 → stores = .ok s1 → isleBusy s k = false →
      writeVa s1 rq w.toNat (saveArea i) (pieces n) = .error (e, y) → exec (.ctxs d a 0) s = traps s k e y) ∧
    (i.saved = false ∨ i.fenced = true → gives (.ctxl d a 0) s 1) ∧
    (i.saved = true → i.fenced = false →
      (w.toNat % 4096 ≠ 0 → exec (.ctxl d a 0) s = traps s k .misalignData w) ∧
      (∀ e y, w.toNat % 4096 = 0 → readVa s rq (w.toNat + 0x18) 8 2 = .error (e, y) →
        exec (.ctxl d a 0) s = traps s k e y) ∧
      (∀ r s1 h s2, w.toNat % 4096 = 0 → readVa s rq (w.toNat + 0x18) 8 2 = .ok (r, s1) →
        readVa s1 { rq with root := BitVec.ofNat 64 (numOf r) } w.toNat 8 2 = .ok (h, s2) →
        let z := numOf h
        let c := z % 256
        let regs := z / 2 ^ 25 % 2 ^ 9
        let room := regs ≤ (List.range 256).countP (fun r => (i.scale r).st == .free) ∧ ctxScales s k c + regs ≤ quotaSreg s c
        let rq1 : Req := { rq with root := BitVec.ofNat 64 (numOf r), ctx := c, tenant := z / 2 ^ 8 % 256, direct := false }
        let size := areaLen regs (z / 2 ^ 16 % 2 ^ 9)
        (z / 2 ^ 34 ≠ 0 → exec (.ctxl d a 0) s = traps s k .reservedField 0) ∧
        (∀ e y, z / 2 ^ 34 = 0 → areaCheck rq1 .load (areaPages w.toNat size) s2 = .error (e, y) →
          exec (.ctxl d a 0) s = traps s k e y) ∧
        (∀ s3 l s4, z / 2 ^ 34 = 0 → areaCheck rq1 .load (areaPages w.toNat size) s2 = .ok s3 →
          readVa s3 rq1 w.toNat size (pieces size) = .ok (l, s4) →
          let banks := (List.range 256).filter (fun b => areaNum l (0x640 + b) 1 / 2 ^ 7 % 2 == 1)
          let free := ∀ b, b ∈ banks → (i.bank b).mode = .cache ∧ (i.bank b).busy = false
          let clean := areaClean l regs = true
          let pinned := ∃ b, b ∈ banks ∧ bankPinned i b = true
          (¬ clean → exec (.ctxl d a 0) s = traps s k .reservedField 0) ∧
          (clean → ¬ free → gives (.ctxl d a 0) s4 2) ∧
          (clean → free → ¬ room → exec (.ctxl d a 0) s = traps s k .quota 0) ∧
          (clean → free → room → pinned → exec (.ctxl d a 0) s = .next (holdCore s k .reissue)) ∧
          (clean → free → room → ¬ pinned → let u := loadArea s4 k l banks
            gives (.ctxl d a 0) u 0 ∧ (u.isle k).ctx = areaNum l 0 1 ∧ (u.isle k).tenant = areaNum l 1 1 ∧
              (u.isle k).saved = false ∧ (u.isle k).ctb = BitVec.ofNat 64 (areaNum l 0x28 8) ∧
              (u.isle k).cerr = BitVec.ofNat 64 (areaNum l 0x30 8)))))

/-- Context commands, tenant switches, and CTXS and CTXL: how they complete, wait and answer: ContextCommands, TenantSwitches and
ContextSaveAndLoad of Claims, together. -/
def Obligations.ContextsAndTenants : Prop := ContextCommands ∧ TenantSwitches ∧ ContextSaveAndLoad

/-! ### Tokens under way -/

/-- R75, R382, R387, R410 to R412, R456: a token enters its switch once no earlier one of its stream waits there. One whose job resolves it goes to
the hardware queue or the tile of its region, toward the strait where that lies on another die; while the die sees RES 0, or
LAG is set, it enters the tail of the region's lagoon, or waits where that has no room; one that no job resolves is dropped.
A token at a strait enters a flit of the UP circuit, behind those before it, and waits without one. -/
def Sys2Proof.Claims.TokenResolution : Prop :=
  ∀ (s : State) (n : Nat) (f : Flight), s.flights[n]? = some f →
    let h := f.tok.hdr
    let i : Instr := .tokenResolve n
    let go := mayEnter s n f = true ∧ s.present f.die = true ∧ (s.die f.die).fenced = false
    let set (g : Flight) : State := { s with flights := setAt s.flights n g }
    let without := dropAt s.flights n
    (¬ go → exec i s = .next s) ∧
    (go → f.strait = true →
      (upCircuit s f.die (destDie f) = none → exec i s = .next s) ∧
      (∀ e, upCircuit s f.die (destDie f) = some e → ∃ c, exec i s = .next { s with
          flights := without, circuits := s.circuits.put e c } ∧ c.st = (s.circuit e).st ∧ c.spec = (s.circuit e).spec ∧
        c.retry.flatMap (·.toks) = (s.circuit e).retry.flatMap (·.toks) ++ [f] ∧
        ((∀ x, x ∈ (s.circuit e).retry → x.toks.length ≤ 6) → ∀ x, x ∈ c.retry → x.toks.length ≤ 6))) ∧
    (go → f.strait = false → f.dest ≠ none → exec i s = .next s) ∧
    (go → f.strait = false → f.dest = none →
      (flightJob s f = none → exec i s = .next { s with flights := without }) ∧
      ∀ j, flightJob s f = some j →
        let v := hVreg h
        let r := j.entry v
        let seen := if r.acks.contains f.die then r.res else !r.res
        let tile := tileAt r.die (r.bx + physCol r.skip (hX h)) (r.byy + hY h)
        let queue := 16 * r.die + r.isle
        let waits := r.hq = false ∧ (seen = false ∨ r.lag = true)
        (r.hq = true → exec i s =
          .next (set { f with dest := some queue, hwq := true, strait := decide (isleDie queue ≠ f.die) })) ∧
        (r.hq = false → seen = true → r.lag = false → exec i s =
          .next (set { f with dest := some tile, hwq := false, strait := decide (tileDie tile ≠ f.die) })) ∧
        (waits → lagoonRoom s j.ctx r.die = false → exec i s = .next s) ∧
        (waits → lagoonRoom s j.ctx r.die = true → ∃ u, exec i s = .next u ∧ u.flights = without ∧ u.mem = s.mem ∧
          u.lagoon j.ctx j.num v = s.lagoon j.ctx j.num v ++ [f.tok]))

/-- R19, R64, R65, R67 to R69, R76, R77, R334, R381, R391, R456: a token is delivered in the order of its stream. A tile whose base register does
not match sends it to a lagoon; a draining page captures it; a frozen tile holds it. Then the steering entry says where it
goes: to the cell's ready list or frame slot, or to an input of an operator, which hold it while they are full; a reserved
bit or TYPE, a bad entry, frame or slot makes a record with AGENT 1 in place of the delivery. -/
def Sys2Proof.Claims.TokenDelivery : Prop :=
  ∀ (s : State) (n t : Nat) (f : Flight), s.flights[n]? = some f → f.dest = some t →
    let tok := f.tok
    let h := tok.hdr
    let i : Instr := .tokenDelivery n
    let v := s.tile t
    let without := dropAt s.flights n
    let e := v.steer.get 0 (hPort h)
    let cls := bits e 13 8
    let arity := bits (v.classes.get 0 cls) 21 20
    let input := bits e 5 5
    let pair := bits e 1 0
    let free := f.strait = false ∧ inOrder s n f = true ∧ (s.die (destDie f)).fenced = false
    let home := free ∧ f.hwq = false ∧ baseMatches v h = true
    let taken := home ∧ tileDrains s t = false ∧ v.frozen = false ∧ ringHolds s t [1] = false
    let good := taken ∧ tokenFault tok = none
    let gives (P : State → Prop) := ∃ u, exec i s = .next u ∧ u.flights = without ∧ P u
    let refused (c : Cause) (w : Word64) := gives (fun u => u.mem = s.mem ∧ ∃ r, reported u (tileIsle t) r ∧ r.agent = 1 ∧
      r.code = causeCode c ∧ r.tval = w ∧ r.hdr = h ∧ r.in0 = tok.lanes ∧ r.job = tileJob s t)
    let badCell := bits (v.classes.get 0 cls) 19 10 = 0 ∨ arity = 0 ∨ arity = 1 ∧ input = 1
    let cell := good ∧ bits e 15 14 = 1 ∧ ¬ badCell
    let data := cell ∧ hKind h ≠ kORD
    let fn := hFrame h
    let fr := (s.isle (tileIsle t)).frames.get Frame.reset fn
    let live := fr.st = .live ∧ fr.ctx = hCtx h
    let m := 2 * pair + input
    let op := s.op t (bits e 13 10)
    let queue := (s.isle t).hw (hPort h)
    let wrongHw := hX h ≠ 0 ∨ hY h ≠ 0 ∨ hwContext (s.isle t) (hPort h) ≠ some (hCtx h)
    (¬ free → exec i s = .next s) ∧
    (home → tileDrains s t = true → exec i s =
      .next (({ s with flights := without }).updTile t (fun x => { x with captured := x.captured ++ [tok] }))) ∧
    (home → tileDrains s t = false → v.frozen = true ∨ ringHolds s t [1] = true → exec i s = .next s) ∧
    (∀ c, taken → tokenFault tok = some c → refused c 0) ∧
    (tokenReserved tok = true → tokenFault tok = some .reservedField) ∧
    (tokenReserved tok = false → hKind h = kDATA → 14 ≤ (hType h).toNat → tokenFault tok = some .formatUnsupported) ∧
    (good → bits e 15 14 = 0 ∨ bits e 15 14 = 3 → refused .routeInvalid 0) ∧
    (good → bits e 15 14 = 1 → badCell → refused .routeInvalid 0) ∧
    (cell → hKind h = kORD → gives (fun u => (u.cell t).pts = max (s.cell t).pts (ordTime tok) ∧
      (u.cell t).ready = (s.cell t).ready ∧ u.mem = s.mem)) ∧
    (data → arity = 1 → 16 ≤ (s.cell t).ready.length → exec i s = .next s) ∧
    (data → arity = 1 → (s.cell t).ready.length < 16 → gives (fun u => u.mem = s.mem ∧
      (u.cell t).ready = (s.cell t).ready ++ [⟨cls, h, lenLanes tok, Lanes.zero, none, 0⟩])) ∧
    (data → arity ≠ 1 → ¬ live → refused .frameInvalid (BitVec.ofNat 64 fn)) ∧
    (data → arity ≠ 1 → live → fr.slot m ≠ none → refused .slotCollision 0) ∧
    (data → arity ≠ 1 → live → fr.slot m = none →
      (fr.slot (m ^^^ 1) = none → gives (fun u => u.mem = s.mem ∧ (u.cell t).ready = (s.cell t).ready ∧
        ((u.isle (tileIsle t)).frames.get Frame.reset fn).slot m = some tok)) ∧
      (∀ o, fr.slot (m ^^^ 1) = some o → hIter o.hdr = hIter h → gives (fun u => u.mem = s.mem ∧
        ((u.isle (tileIsle t)).frames.get Frame.reset fn).slot m = some tok ∧
        (u.cell t).ready = (s.cell t).ready ++ [⟨cls, 0, Lanes.zero, Lanes.zero, some (fn, pair), 0⟩])) ∧
      (∀ o, fr.slot (m ^^^ 1) = some o → hIter o.hdr ≠ hIter h → refused .slotCollision 0)) ∧
    (good → bits e 15 14 = 2 →
      (op.used = false → refused .routeInvalid 0) ∧
      (op.used = true → 4 ≤ (op.input (bits e 9 8)).length → exec i s = .next s) ∧
      (op.used = true → (op.input (bits e 9 8)).length < 4 → gives (fun u => u.mem = s.mem ∧
        (u.op t (bits e 13 10)).input (bits e 9 8) = op.input (bits e 9 8) ++ [tok]))) ∧
    (free → f.hwq = false → baseMatches v h = false →
      (straysTo s t h = none → exec i s = .next { s with flights := without }) ∧
      (∀ j, straysTo s t h = some j → lagoonRoom s j.ctx (j.entry (hVreg h)).die = false → exec i s = .next s) ∧
      (∀ j, straysTo s t h = some j → lagoonRoom s j.ctx (j.entry (hVreg h)).die = true → gives (fun u =>
        u.lagoon j.ctx j.num (hVreg h) = s.lagoon j.ctx j.num (hVreg h) ++ [tok]))) ∧
    (free → f.hwq = true →
      let refusedHw (c : Cause) := gives (fun u => ∃ r, reported u t r ∧ r.agent = 1 ∧ r.code = causeCode c ∧ r.hdr = h ∧
        r.in0 = tok.lanes ∧ r.ctx = hCtx h)
      (wrongHw → refusedHw .routeInvalid) ∧
      (∀ c, ¬ wrongHw → tokenFault tok = some c → refusedHw c) ∧
      (¬ wrongHw → tokenFault tok = none → hwFull s t (hPort h) = true → exec i s = .next s) ∧
      (¬ wrongHw → tokenFault tok = none → hwFull s t (hPort h) = false →
        gives (fun u => ((u.isle t).hw (hPort h)).toks = queue.toks ++ [tok])))

/-- R67, R68, R70, R150 to R152, R274: a cell takes the first of its highest-priority ready tasks that has frames, quota, latch space and,
on an M-tile, four free entries of the engine's queue; its
registers come from its token, or from the pair in its frame, whose slots are then empty, and its frames are reserved. A
task that asks for more frames than its context's whole quota is refused with FRAME_EXHAUSTED. -/
def Sys2Proof.Claims.TaskAdmission : Prop :=
  ∀ (s : State) (t : Nat),
    let v := s.tile t
    let k := tileIsle t
    let l := v.cell.ready.take 16
    let entry (r : Ready) := v.classes.get 0 r.cls
    let need (r : Ready) := bits (entry r) 27 24
    let prio (r : Ready) := bits (entry r) 23 22
    let big (r : Ready) := quotaFrames s (tileCtx s t) < need r
    let ok (r : Ready) := (s.isle k).saved = false ∧ need r ≤ (s.isle k).freeAvail.length ∧
      ctxFrames s k (tileCtx s t) + need r ≤ quotaFrames s (tileCtx s t) ∧ (tileKind t = .m → v.eng.queue.length ≤ 12) ∧
      (s.cell t).latch.length + bits (entry r) 31 28 ≤ 8
    let idle := v.base ≠ none ∧ v.frozen = false ∧ v.cell.task = none ∧ ringHolds s t [0, 6] = false ∧
      (s.die (tileDie t)).fenced = false ∧ s.inReset k = false
    let frame (u : State) (g : Nat) := (u.isle k).frames.get Frame.reset g
    let i : Instr := .taskAdmission t
    (¬ idle → exec i s = .next s) ∧
    (idle → (∀ r, r ∈ l → ¬ big r ∧ ¬ ok r) → exec i s = .next s) ∧
    (∀ n r, idle → l[n]? = some r → big r → (∀ m x, m < n → l[m]? = some x → ¬ big x) →
      ∃ u x, exec i s = .next u ∧ reported u k x ∧ x.agent = 6 ∧ x.code = causeCode .frameExhausted ∧ x.cls = r.cls ∧
        (u.cell t).ready = dropAt (s.cell t).ready n ∧ (u.cell t).task = none ∧ u.mem = s.mem) ∧
    (∀ n r, idle → (∀ x, x ∈ l → ¬ big x) → l[n]? = some r → ok r →
      (∀ m x, l[m]? = some x → ok x → prio x ≤ prio r ∧ (prio x = prio r → n ≤ m)) →
      ∃ u q, exec i s = .next u ∧ (u.cell t).task = some q ∧ (u.cell t).ready = dropAt (s.cell t).ready n ∧ u.mem = s.mem ∧
        q.cls = r.cls ∧ q.pc = bits (entry r) 9 0 ∧ q.start = bits (entry r) 9 0 ∧ q.size = bits (entry r) 19 10 ∧
        q.slots = bits (entry r) 31 28 ∧ q.units = 0 ∧ q.cycles = 0 ∧ q.pfx = none ∧
        q.reserved = (s.isle k).freeAvail.take (need r) ∧ (∀ g, g ∈ q.reserved → (frame u g).st = .reserved) ∧
        (r.pair = none → q.hdr = r.hdr ∧ q.i0 = r.i0 ∧ q.i1 = r.i1) ∧
        (∀ g p a b, r.pair = some (g, p) → (frame s g).slot (2 * p) = some a → (frame s g).slot (2 * p + 1) = some b →
          q.i0 = lenLanes a ∧ q.i1 = lenLanes b ∧ q.hdr = putStatus a.hdr (hSat a.hdr || hSat b.hdr) (hInx a.hdr || hInx b.hdr) ∧
          (frame u g).slot (2 * p) = none ∧ (frame u g).slot (2 * p + 1) = none))

/-- R157, R316, R387, R388, R394: the oldest token of an ended task leaves the output latch, where its port has credit; a token that
waits for a RESIDENT page is delivered, the captured ones before those of the lagoon, and LAG goes once none is left; a sender that
has stalled for SPTO microseconds fences its context with SPILL_EXHAUSTED. -/
def Sys2Proof.Claims.LatchLagoonAndSpill : Prop :=
  ∀ (s : State) (t n c : Nat),
    let stalls := ∃ f x, f ∈ s.flights ∧ hCtx f.tok.hdr = c ∧ stallJob s f ≠ none ∧ x ∈ s.stalls ∧ x.1 = f.port ∧
      s.mgmt.spto.toNat ≤ x.2
    (∀ l r, (s.cell t).latch = l :: r →
      (l.out = false → exec (.latchRelease t) s = .next s) ∧
      (l.out = true → PortId.cell t ∈ s.stuck → exec (.latchRelease t) s = .next s) ∧
      (l.out = true → PortId.cell t ∉ s.stuck → ∃ u, exec (.latchRelease t) s = .next u ∧ (u.cell t).latch = r ∧ u.mem = s.mem ∧
        u.flights = s.flights ++ [flightOf s (.cell t) (tileDie t) (some (tileJob s t)) l.tok])) ∧
    ((s.cell t).latch = [] → exec (.latchRelease t) s = .next s) ∧
    (∀ p, s.pages[n]? = some p → p.st ≠ .resident → exec (.lagoonDrain n) s = .next s) ∧
    (∀ p j, s.pages[n]? = some p → s.findJob p.ctx p.job = some j → p.st = .resident →
      let held := ∃ x, x ∈ pageTileList p ∧ (s.tile x).captured ≠ []
      let lagoon := s.lagoon p.ctx p.job p.region
      (held → captureOut s p = none → exec (.lagoonDrain n) s = .next s) ∧
      (∀ u, held → captureOut s p = some u → exec (.lagoonDrain n) s = .next (clearLag u p)) ∧
      (¬ held → lagoon = [] → exec (.lagoonDrain n) s = .next (s.updJob p.ctx p.job (fun x =>
        x.updEntry p.region (fun r => { r with lag := false })))) ∧
      (∀ tok r, ¬ held → lagoon = tok :: r →
        let x := tileAt p.die (p.bx + physCol p.skip (hX tok.hdr)) (p.byy + hY tok.hdr)
        let s1 := s.setLagoon p.ctx p.job p.region r
        (deliverTile s1 x tok = none → exec (.lagoonDrain n) s = .next s) ∧
        (∀ u, deliverTile s1 x tok = some u → exec (.lagoonDrain n) s = .next (clearLag (stampPage u x) p)))) ∧
    (stalls → exec (.spillTimeout c) s = .next (fenceCtx s c (causeCode .spillExhausted))) ∧
    (¬ stalls → exec (.spillTimeout c) s = .next s)

/-- Tokens from the switch to a task: resolution, delivery, admission, latch and lagoon: TokenResolution, TokenDelivery,
TaskAdmission and LatchLagoonAndSpill of Claims, together. -/
def Obligations.TokensUnderWay : Prop := TokenResolution ∧ TokenDelivery ∧ TaskAdmission ∧ LatchLagoonAndSpill

/-! ### Containment -/

/-- R242, R272, R277, R285, R325, R346, R426 to R428: an action on a record of the ring sets ACTED and happens once, and not for a final
job. RESUME lets the agent act again: a token is sent again, a task is ready again on its tile, an operator, fetch slot, copy,
prefetch, binding or held queue step goes on. DISCARD ends what the record held; that of a fetch slot a queued step names fences
the job. FENCE_JOB and FENCE_CTX end the record's job or context with its CODE, and FENCE_GANG freezes the gang's RESIDENT
pages. -/
def Sys2Proof.Claims.RecordActions : Prop :=
  ∀ (s : State) (k n : Nat), n < 64 →
    let x := (s.isle k).ringAt n
    let asked (act : Nat) : State := s.updIsle k (fun i => { i with trAct := BitVec.ofNat 64 (act * 2 ^ 8 + n) })
    let acted (act : Nat) : State := (asked act).updIsle k (fun i => { i with ring := i.ring.put n { x with acted := true } })
    let final := x.dead = true ∨ s.findJob x.ctx x.job = none ∧ ∃ j, j ∈ s.jobs ∧ j.ctx = x.ctx ∧ j.num = x.job
    let live := (n + 64 - (s.isle k).trHead % 64) % 64 < (s.isle k).ringCount ∧ x.acted = false ∧ ¬ final
    let resumes (u : State) := exec (.resume k n) s = .next u
    let discards (u : State) := exec (.discard k n) s = .next u
    let op := s.op x.tile x.slot
    let slot := (s.tile x.tile).slot (x.opid - 1)
    let held := ∃ q, (s.cell x.tile).task = some q ∧ q.held = some n
    (¬ live → resumes (asked 1) ∧ discards (asked 2) ∧ exec (.fenceGang k n) s = .next (asked 3) ∧
      exec (.fenceJob k n) s = .next (asked 4) ∧ exec (.fenceCtx k n) s = .next (asked 5)) ∧
    (live → x.agent = 1 → resumes { acted 1 with
        flights := s.flights ++ [flightOf s (.resend k) (isleDie k) (some x.job) ⟨x.hdr, x.in0⟩] } ∧
      discards (acted 2)) ∧
    (live → x.agent = 0 ∨ x.agent = 6 → discards (acted 2) ∧
      (tileOf s x = false → resumes (acted 1)) ∧
      (tileOf s x = true → ∃ u len, resumes u ∧ u.mem = s.mem ∧
        (u.cell x.tile).ready = (s.cell x.tile).ready ++ [⟨x.cls, x.hdr, x.in0, x.in1, none, len⟩])) ∧
    (live → x.agent = 2 → op.record ≠ some n → resumes (acted 1) ∧ discards (acted 2)) ∧
    (live → x.agent = 2 → op.record = some n →
      let again := (acted 1).updOp x.tile x.slot (fun o => { o with record := none, added := false })
      let ended := (op.rins.foldl (fun u i => popIn u x.tile x.slot i) (acted 2)).updOp x.tile x.slot
        (fun o => { o with record := none, rins := [], added := false })
      let badRelease := op.rins = [] ∧ x.code = causeCode .routeInvalid
      (x.slot ≠ slotMEMORY → x.slot ≠ slotREDUCE → resumes again ∧ discards ended) ∧
      (x.slot = slotMEMORY → resumes (loadDesc again x.tile)) ∧
      (x.slot = slotREDUCE →
        (op.added = false → resumes (settleReduce again x.tile)) ∧
        (op.added = true → resumes (settleReduce (op.rins.foldl (fun u i => countPartial u x.tile i) again) x.tile)) ∧
        (¬ badRelease → discards (settleReduce ended x.tile)) ∧
        (badRelease → discards ((List.range 2).foldl (fun u a =>
          if releaseDue ((u.tile x.tile).eng.acc a) then clearReleased u x.tile a else u) ended)))) ∧
    (∀ o, live → x.agent = 3 → (s.isle k).ops.find? (fun o => o.id == x.opid && o.record == some n) = some o →
      resumes (putOp (acted 1) k { o with record := none }) ∧ discards (cancelCopy (acted 2) k o)) ∧
    (live → x.agent = 3 → (s.isle k).ops.find? (fun o => o.id == x.opid && o.record == some n) = none →
      let mine (p : Prefetch) := p.id = x.opid ∧ p.record = some n
      ((∀ p, p ∈ (s.isle k).prefetches → ¬ mine p) → resumes (acted 1) ∧ discards (acted 2)) ∧
      (∀ (j : Nat) (p : Prefetch), (s.isle k).prefetches[j]? = some p → mine p →
        (∀ (i : Nat) (y : Prefetch), i < j → (s.isle k).prefetches[i]? = some y → ¬ mine y) →
        resumes ((acted 1).updIsle k (fun i => { i with prefetches := setAt i.prefetches j { p with record := none } })) ∧
        discards ((acted 2).updIsle k (fun i => { i with prefetches := dropAt i.prefetches j })))) ∧
    (live → x.agent = 4 → slot.record = some n →
      resumes ((acted 1).updSlot x.tile (x.opid - 1) (fun v =>
        { v with record := none, st := if v.st = .faulted then SlotState.fetching else v.st })) ∧
      (slot.queued = 0 → discards (releaseSlot (acted 2) x.tile (x.opid - 1))) ∧
      (slot.queued ≠ 0 → discards (endJob (acted 2) x.ctx x.job .faulted x.code))) ∧
    (live → x.agent = 4 → slot.record ≠ some n → resumes (acted 1) ∧ discards (acted 2)) ∧
    (live → x.agent = 5 → (boundAt s n x = none → resumes (acted 1) ∧ discards (acted 2)) ∧
      ∀ d, boundAt s n x = some d → resumes ((acted 1).updBinding d (fun b => { b with record := none })) ∧
        discards ((popPort (acted 2) d).updBinding d (fun b => { b with record := none }))) ∧
    (live → x.agent = 7 → held → resumes ((acted 1).updTask x.tile (fun q => { q with held := none })) ∧
      discards (abortTask (acted 2) x.tile (causeOf x.code) x.tval)) ∧
    (live → x.agent = 7 → ¬ held → resumes (acted 1) ∧ discards (acted 2)) ∧
    (live → exec (.fenceJob k n) s = .next (endJob (acted 4) x.ctx x.job .faulted x.code) ∧
      (endJob (acted 4) x.ctx x.job .faulted x.code).findJob x.ctx x.job = none) ∧
    (live → exec (.fenceCtx k n) s = .next (fenceCtx (acted 5) x.ctx x.code)) ∧
    (∀ p, live → tileOf s x = true → pageOf s x.tile = some p →
      exec (.fenceGang k n) s = .next (freezeGang (acted 3) p)) ∧
    (live → tileOf s x = false ∨ pageOf s x.tile = none → exec (.fenceGang k n) s = .next
      (match ((s.findJob x.ctx x.job).bind (fun j => (curGang j).bind (fun g => (gangPages s j g)[0]?))).bind
          (s.page x.ctx x.job) with
        | some p => freezeGang (acted 3) p
        | none => acted 3))

/-- R346, R383, R426, R427, R428, R432: HEAD of the trap ring moves over records, each of which is discarded or fences its job, and not past
TAIL; the records that waited for room then enter in order. A soft error fences its job, isle or die with MACHINE_CHECK and is
counted in MCSTAT with its level, and an isle's core takes the cause. Bits lost beyond correction mark their line, byte or
scratchpad byte for a later consumer, and in the state that a draining page saves they fence its job (R383). -/
def Sys2Proof.Claims.RingAndSoftErrors : Prop :=
  ∀ (s : State) (k c j d : Nat) (w : Word64),
    let i := s.isle k
    let n := (bits w 6 0 + 128 - i.trHead) % 128
    let count (u : State) (level die isle : Nat) : State := { u with mgmt := { u.mgmt with
      mcount := if u.mgmt.mcount = BitVec.allOnes 32 then u.mgmt.mcount else u.mgmt.mcount + 1,
      mlevel := BitVec.ofNat 3 level, mdie := BitVec.ofNat 3 die, misle := BitVec.ofNat 4 isle } }
    let mc := causeCode .machineCheck
    (i.ringCount < n → exec (.trheadWrite k w) s = .next s) ∧
    (n ≤ i.ringCount → ∃ u, exec (.trheadWrite k w) s = .next u ∧ (u.isle k).trHead = bits w 6 0 ∧
      (n = 0 → u.jobs = s.jobs ∧ u.mem = s.mem)) ∧
    (exec (.softErrorDetect (.job c j)) s = .next (count (endJob s c j .faulted mc) 0 0 0)) ∧
    (∃ u, exec (.softErrorDetect (.isle k)) s = .next u ∧ (u.isle k).fenced = true ∧ (u.core k).check = true ∧
      u.mgmt.mlevel = 1 ∧ u.mgmt.mdie = BitVec.ofNat 3 (isleDie k) ∧ u.mgmt.misle = BitVec.ofNat 4 (k % 16) ∧
      ∀ x, x ∈ jobsOn s k → u.findJob x.1 x.2 = none) ∧
    (∃ u, exec (.softErrorDetect (.die d)) s = .next u ∧ (u.die d).fenced = true ∧ u.mgmt.mlevel = 2 ∧
      u.mgmt.mdie = BitVec.ofNat 3 d ∧ ∀ x, x ∈ jobsOnDie s d → u.findJob x.1 x.2 = none) ∧
    (∃ u, perform (.loseLine d) s = .next u ∧ lineOf d ∈ u.poison ∧ u.mem = s.mem ∧ u.isles = s.isles) ∧
    (∃ u, perform (.loseByte d) s = .next u ∧ d ∈ u.memUe ∧ u.mem = s.mem ∧ u.isles = s.isles) ∧
    (∃ u, perform (.loseScratch k d) s = .next u ∧ d ∈ (u.isle k).spmUe ∧ (u.isle k).spm = (s.isle k).spm ∧ u.mem = s.mem) ∧
    (∀ p line, s.page c j d = some p →
      (p.st = .draining → ∃ u, perform (.losePage c j d line) s = .next u ∧ u.findJob c j = none) ∧
      (p.st ≠ .draining → perform (.losePage c j d line) s = .next s))

/-- Actions on fault records, the trap ring's head, and soft errors: RecordActions and RingAndSoftErrors of Claims, together. -/
def Obligations.FaultRecordsAndSoftErrors : Prop := RecordActions ∧ RingAndSoftErrors

/-! ### Banks, registers, reset, power, the host and the lease clock -/

/-- R66, R179 to R181: a write of a bank's control register starts a switch to TARGET and NCTX, refuses one that would take a
declared buffer, cancels the one in progress where it names the current mode, and otherwise does nothing; once the bank is free
of its old use the switch commits: a CACHE bank, which waits for its pinned lines (R269), then holds no line, and a SCRATCH bank reads
zero. -/
def Sys2Proof.Claims.BankSwitches : Prop :=
  ∀ (s : State) (k n : Nat) (w : BitVec 32), n < 256 →
    let i := s.isle k
    let b := i.bank n
    let target := bankModeOf (bits w 3 2)
    let nctx := bits w 15 8
    let same := target = b.mode ∧ (target = .scratch ∨ target = .fifo → nctx = b.ctx)
    let declared := b.mode = .scratch ∧ i.overlaps (2 ^ 17 * n) (2 ^ 17) = true
    let put (v : Bank) : State := s.updIsle k (fun i => i.setBank n v)
    let gives (u : State) := exec (.bankCtrlWrite k n w) s = .next u
    (b.busy = true → same → gives (put { b with busy := false })) ∧
    (b.busy = false → ¬ same → declared →
      gives (put { b with target := target, nctx := nctx, busy := false, refused := true })) ∧
    (b.busy = false → ¬ same → ¬ declared →
      gives (put { b with target := target, nctx := nctx, busy := true, refused := false })) ∧
    (b.busy = true → ¬ same → ∃ u, gives u ∧ u.isle k = i ∧ u.mem = s.mem) ∧
    (b.busy = false → same → ∃ u, gives u ∧ u.isle k = i ∧ u.mem = s.mem) ∧
    (b.busy = false ∨ bankReady s k n = false → exec (.bankSwitchCommit k n) s = .next s) ∧
    (b.busy = true → b.mode = .cache → (∃ e, e ∈ i.l2 ∧ e.2.bank = n ∧ e.2.pins ≠ 0) →
      exec (.bankSwitchCommit k n) s = .next s) ∧
    (b.busy = true → bankReady s k n = true → ∃ u, exec (.bankSwitchCommit k n) s = .next u ∧
      (b.mode = .cache → b.target ≠ .cache → ∀ e, e ∈ (u.isle k).l2 → e.2.bank ≠ n) ∧
      ((u.isle k).bank n).mode = b.target ∧ ((u.isle k).bank n).busy = false ∧
      ((u.isle k).bank n).ctx = (if b.target = .scratch ∨ b.target = .fifo then b.nctx else 0) ∧
      (b.target = .scratch → ∀ a, a / 2 ^ 17 = n → (u.isle k).spm.get 0 a = 0 ∧ a ∉ (u.isle k).spmUe))

/-- R11, R194, R212, R308, R314, R329, R368, R388, R406, R430, R435, R436: a write of a register of the device window sets the fields that
software writes, keeps reserved ones, and ignores a value out of range; a read of a counter that clears on reading clears it. -/
def Sys2Proof.Claims.DeviceRegisters : Prop :=
  ∀ (s : State) (v : Word64),
    let m := s.mgmt
    let at' (o : Nat) (u : Mgmt) := exec (.registerWrite (Config.mgmtBase + o) v) s = .next { s with mgmt := u }
    let tile (k o : Nat) := Config.window + 2 ^ 24 * (k / 16) + 2 ^ 20 * (k % 16) + o
    let die (d o : Nat) := Config.machineBase + 2 ^ 20 * d + o
    let low := v.extractLsb' 0 32
    at' 0x40 { m with lease := putLease m.lease v } ∧ at' 0x80 { m with ctxtab := v } ∧ at' 0x98 { m with jbase := v } ∧
    at' 0xA0 { m with jlog2 := if 8 ≤ bits v 4 0 ∧ bits v 4 0 ≤ 20 then v &&& 0x1F else m.jlog2 } ∧
    at' 0xB0 { m with srtab := v &&& ~~~ 0x3FFFE } ∧ at' 0xB8 { m with spto := if low = 0 then m.spto else low } ∧
    at' 0xC0 { m with modid := v &&& 7 } ∧ at' 0xC8 { m with fibmap := v &&& 0xFFFFFFFFFFFF } ∧
    at' 0xD0 { m with wdto := low } ∧ at' 0xE8 { m with bootpc := v &&& ~~~ 1 } ∧
    at' 0xF8 { m with plim := if 300 ≤ bits v 15 0 ∧ bits v 15 0 ≤ 1000 then v.extractLsb' 0 16 else m.plim } ∧
    (exec (.rcRegisterRead (Config.mgmtBase + 0x100)) s = .next { s with mgmt := { m with mcount := 0 } }) ∧
    (exec (.registerWrite (Config.mgmtBase + 0x8C) v) s =
      .next (if low = 0 then s else { s with mgmt := { m with tslice := low } })) ∧
    (∀ k, k < 64 → s.present (isleDie k) = true →
      (exec (.registerWrite (tile k 0x2000) v) s = .next (s.updIsle k (fun i => { i with cerr := i.cerr &&& ~~~ v }))) ∧
      (∀ p, p < 16 → exec (.registerWrite (tile k (0x3000 + 8 * p)) v) s = .next (s.updIsle k (fun i =>
        { i with ports := i.ports.put p (v &&& 0x8000000000FFFE3F) }))) ∧
      (k % 16 = 0 → ∃ u, exec (.rcRegisterRead (tile k 0x5010)) s = .next u ∧
        (u.die (isleDie k)).port = { (s.die (isleDie k)).port with crcs := 0 })) ∧
    (∀ d, d < 4 → s.present d = true →
      (exec (.registerWrite (die d 0x3000) v) s = .next (s.updDie d (fun x => { x with spBase := v &&& 0xFFFFFF0000 }))) ∧
      (exec (.registerWrite (die d 0x3008) v) s = .next (s.updDie d (fun x => { x with spSize := low }))) ∧
      (exec (.registerWrite (die d 0x3010) v) s = .next (s.updDie d (fun x => { x with psBase := v &&& 0xFFFFFF0000 }))) ∧
      (exec (.registerWrite (die d 0x3018) v) s = .next (s.updDie d (fun x => { x with psSize := low })))) ∧
    (∀ d o, d < 4 → o < 2 ^ 20 → s.present d = false → exec (.registerWrite (die d (o / 8 * 8)) v) s = .next s ∧
      exec (.rcRegisterRead (die d (o / 8 * 8))) s = .next s) ∧
    (∀ g, g < Config.window → exec (.registerWrite g v) s = .next s ∧ exec (.rcRegisterRead g) s = .next s)

/-- R113, R434, R436, R437: HOLD resets an isle and keeps it, and releases it at BOOTPC; a module reset puts the registers at the
values of State.reset with BOOTSTAT naming the boot ROM's step and the present dies, and keeps what the signed flash gives;
an attestation command sets BUSY with its buffer, and its end writes the report with status 1, or status 2 where the buffer
faults. -/
def Sys2Proof.Claims.ResetAndAttestation : Prop :=
  ∀ (s : State) (w : Word64) (err : BitVec 8) (present : BitVec 4),
    let m := s.mgmt
    let rq := engReq s .security .data 0
    let a := m.attAddr.toNat
    (∀ k, k < 64 → s.present (isleDie k) = true →
      (∃ u, exec (.isleReset k true) s = .next u ∧ bit u.mgmt.islerst k = true ∧ (u.core k).pc = m.bootpc ∧
        (u.core k).mode = .machine ∧ (u.core k).g = Core.reset.g ∧ (u.core k).status = Core.reset.status ∧
        (u.isle k).ctb = BitVec.allOnes 64 ∧ (u.isle k).fenced = (s.isle k).fenced ∧ u.mem = s.mem) ∧
      (bit m.islerst k = true → ∃ u, exec (.isleReset k false) s = .next u ∧ bit u.mgmt.islerst k = false ∧
        (u.core k).pc = m.bootpc ∧ u.mem = s.mem) ∧
      (bit m.islerst k = false → exec (.isleReset k false) s = .next s)) ∧
    (∀ k h, 64 ≤ k ∨ s.present (isleDie k) = false → exec (.isleReset k h) s = .next s) ∧
    (∃ u, exec (.moduleReset err present) s = .next u ∧ u.mem = [] ∧ u.jobs = [] ∧ u.isles = State.reset.isles ∧
      u.keys = s.keys ∧ (∀ d, d < 4 → (u.die d).shoals = (s.die d).shoals) ∧
      (err ≠ 0 → u.mgmt.bootstat.toNat = err.toNat * 2 ^ 8 + err.toNat) ∧
      (err = 0 → present = 0 → u.mgmt.bootstat = 0x505) ∧
      (err = 0 → present ≠ 0 → u.mgmt.bootstat.toNat = present.toNat * 2 ^ 16 + 0x600 ∧
        ∀ d, d < 4 → u.present d = present.getLsbD d)) ∧
    (m.attBusy = true → exec (.attestationStart w) s = .next s) ∧
    (m.attBusy = false → exec (.attestationStart w) s =
      .next { s with mgmt := { m with attAddr := w &&& ~~~ 0x3F, attBusy := true } }) ∧
    (m.attBusy = false → exec .attestationDone s = .next s) ∧
    (m.attBusy = true →
      (∀ u, buildReport s rq a = .ok u → exec .attestationDone s =
        .next { u with mgmt := { u.mgmt with attBusy := false } }) ∧
      (∀ e u, buildReport s rq a = .error e → writeVa s rq (a + 0x20) (bytesOf 2 8) 2 = .ok u →
        exec .attestationDone s = .next { u with mgmt := { u.mgmt with attBusy := false } }))

/-- R1, R114, R207 to R210, R226, R227, R438, R439: a sag stretches the clock of a present die until the stretch ends, not before
120 cycles at the low rate, and sfreq counts the cycles that pass meanwhile; a refill adds credits to its ingress, with a power
reading that nothing states (log entry 22); a host core's aligned accesses of any size and its atomics go through stage 2 of tenant
0, as those of a COH agent of its own, over the lease bridge; eight bytes over the IO path reach the home memory; one that faults
does nothing. -/
def Sys2Proof.Claims.PowerAndHost : Prop :=
  ∀ (s : State) (d h g c : Nat) (z : BitVec 2) (o : BitVec 4) (w x : Word64),
    (d < 4 → ∃ dt, ((tick s).die d).cyc = (s.die d).cyc + dt ∧
      ((tick s).die d).sfreq = (if (s.die d).supply.stretched then (s.die d).sfreq + dt else (s.die d).sfreq)) ∧
    (let u := (s.die d).supply
      let ran := ((s.die d).sfreq - u.since).toNat
      (s.present d = true → u.stretched = false →
        exec (.supplySag d) s = .next (s.updDie d (fun v => { v with supply := ⟨true, v.sfreq⟩ }))) ∧
      (s.present d = false ∨ u.stretched = true → exec (.supplySag d) s = .next s) ∧
      (u.stretched = true → 120 ≤ ran →
        exec (.stretchEnd d) s = .next (s.updDie d (fun v => { v with supply := ⟨false, 0⟩ }))) ∧
      (u.stretched = false ∨ ran < 120 → exec (.stretchEnd d) s = .next s)) ∧
    (∃ u, exec (.tokenBucketRefill d c) s = .next u ∧ u.buckets.get 0 d = s.buckets.get 0 d + c ∧ u.mem = s.mem) ∧
    (g % 8 ≠ 0 ∨ Config.window ≤ g → ∀ wr, exec (.ioPathAccess wr g w) s = .next s) ∧
    (g % 8 = 0 → g < Config.window →
      (∀ e, stage2 s 4 0 g .store = .error e → exec (.ioPathAccess true g w) s = .next s) ∧
      (∀ e, stage2 s 4 0 g .load = .error e → exec (.ioPathAccess false g w) s = .next s) ∧
      (∀ key u, stage2 s 4 0 g .store = .ok (key, u) →
        exec (.ioPathAccess true g w) s = .next (writeHome u key (bytesOf w.toNat 8))) ∧
      (∀ key u, stage2 s 4 0 g .load = .ok (key, u) → exec (.ioPathAccess false g w) s = .next u)) ∧
    (∀ op, 16 ≤ h ∨ g % hostBytes op ≠ 0 ∨ Config.window ≤ g → exec (.leaseBridgeAccess h op g w) s = .next s) ∧
    (h < 16 → g < Config.window →
      let one := 2 ^ z.toNat
      let two := if z = 3 then 8 else 4
      (g % one = 0 →
        (∀ e, stage2 s 4 0 g .load = .error e → exec (.leaseBridgeAccess h (.load z) g w) s = .next s) ∧
        (∀ e, stage2 s 4 0 g .store = .error e → exec (.leaseBridgeAccess h (.store z) g w) s = .next s) ∧
        (∀ key u, stage2 s 4 0 g .load = .ok (key, u) →
          exec (.leaseBridgeAccess h (.load z) g w) s = .next (cohLoad u (.host h) key one).2) ∧
        (∀ key u, stage2 s 4 0 g .store = .ok (key, u) →
          exec (.leaseBridgeAccess h (.store z) g w) s = .next (cohStore u (.host h) key (bytesOf w.toNat one)))) ∧
      (g % two = 0 →
        (∀ e, stage2 s 4 0 g .atomic = .error e → exec (.leaseBridgeAccess h (.amo z o) g w) s = .next s ∧
          exec (.leaseBridgeAccess h (.cas z x) g w) s = .next s) ∧
        (∀ key u, stage2 s 4 0 g .atomic = .ok (key, u) →
          exec (.leaseBridgeAccess h (.amo z o) g w) s = .next (atomicCoh u (.host h) key two (fun l =>
            some (bytesOf (amoResult o.toNat (8 * two) (numOf l) w.toNat) two))).2 ∧
          exec (.leaseBridgeAccess h (.cas z x) g w) s = .next (atomicCoh u (.host h) key two (fun l =>
            if numOf l = x.toNat % 2 ^ (8 * two) then some (bytesOf w.toNat two) else none)).2)))

/-- R213, R214: an agent that COH loads have hit since its time last advanced may move its time on by one, up to 2^48 − 1; a time that
reaches 2^47 asks for a rebase, which takes the least of all agents' times from every time, the saved ones too, and drops every
COH copy. -/
def Sys2Proof.Claims.LeaseClock : Prop :=
  ∀ (s : State) (g : Agent),
    let hit := ∃ n, (g, n) ∈ s.hits
    let counted : State := { s with hits := s.hits.filter (fun e => e.1 != g) }
    let next := s.pts g + 1
    let b := leastPts s
    let due := 2 ^ 47 ≤ s.pts g ∨ ∃ e, e ∈ s.times ∧ 2 ^ 47 ≤ e.2.2
    (hit → next < 2 ^ 47 → exec (.ptsTick g) s = .next (counted.setPts g next)) ∧
    (hit → 2 ^ 47 ≤ next → next < 2 ^ 48 →
      exec (.ptsTick g) s = .next (({ counted with rollover := true } : State).setPts g next)) ∧
    (hit → 2 ^ 48 ≤ next → exec (.ptsTick g) s = .next counted) ∧
    (¬ hit → exec (.ptsTick g) s = .next s) ∧
    (due → exec (.leaseRollover g) s = .next { s with rollover := true }) ∧
    (¬ due → exec (.leaseRollover g) s = .next s) ∧
    (s.rollover = false → exec .leaseRebase s = .next s) ∧
    (s.rollover = true → ∃ u, exec .leaseRebase s = .next u ∧ u.rollover = false ∧ u.mem = s.mem ∧
      u.times = s.times.map (fun e => (e.1, (e.2.1 - b, e.2.2 - b))) ∧
      (∀ n, (u.core n).pts = (s.core n).pts - b ∧ (u.isle n).engPts = (s.isle n).engPts - b ∧
        (u.cell n).pts = (s.cell n).pts - b ∧ (u.core n).eventPts = (s.core n).eventPts - b ∧
        (u.isle n).tagTime = (s.isle n).tagTime.map (fun e => (e.1, e.2 - b)) ∧ ∀ e, e ∈ (u.isle n).l2 → e.2.coh = false) ∧
      u.schedPts = s.schedPts - b ∧ u.secPts = s.secPts - b)

/-- Bank switches, device registers, reset, attestation, power, the host and the lease clock: BankSwitches, DeviceRegisters,
ResetAndAttestation, PowerAndHost and LeaseClock of Claims, together. -/
def Obligations.BanksDevicesResetAndPower : Prop := BankSwitches ∧ DeviceRegisters ∧ ResetAndAttestation ∧ PowerAndHost ∧ LeaseClock
end

