-- ==== Sys2Proof/Laws/Credit.lean ====
section
/-! SUPPORT. What the shared operations around a step can do: a send with or without credit (R75), and a step that
waits at a strait (R412). -/

namespace Sys2Proof.Laws

open Sys2Proof.Machine

/-- A sender's step takes place whole, every token of it having credit, or not at all. -/
theorem withCredit_cases (s s1 : State) :
    withCredit s s1 = s1 ∧ credited s s1 = true ∨ withCredit s s1 = s ∧ credited s s1 = false := by
  cases h : credited s s1 <;> simp [withCredit, h]

/-- With credit for every token the step takes place. -/
theorem withCredit_of_credited {s s1 : State} (h : credited s s1 = true) : withCredit s s1 = s1 := by
  simp [withCredit, h]

/-- A step that sends nothing needs no credit. -/
theorem withCredit_of_no_send {s s1 : State} (h : s1.flights.length ≤ s.flights.length) : withCredit s s1 = s1 :=
  withCredit_of_credited (by simp [credited, List.drop_eq_nil_of_le h])

/-- A step that leaves the state as it is does so with or without credit. -/
@[simp] theorem withCredit_self (s : State) : withCredit s s = s := withCredit_of_no_send (Nat.le_refl _)

/-- Where no port is out of credit every send takes place. -/
theorem withCredit_of_free {s s1 : State} (h : s.stuck = []) : withCredit s s1 = s1 :=
  withCredit_of_credited (by simp [credited, hasCredit, h])

/-- A property of both states holds of what a sender's step leaves. -/
theorem withCredit_keeps {P : State → Prop} {s s1 : State} (h : P s) (h1 : P s1) : P (withCredit s s1) := by
  rcases withCredit_cases s s1 with ⟨e, -⟩ | ⟨e, -⟩ <;> rw [e] <;> assumption

/-- Tokens sent from a port that has credit all have it. -/
theorem credited_sendTokens {s : State} {p : PortId} {d : Nat} {j : Option Nat} {l : List Token}
    (h : hasCredit s p = true) : credited s (sendTokens s p d j l) = true := by
  simp [credited, sendTokens, flightOf, h]

/-- A step whose access waits at a strait answers a state in which it has not been performed; any other is unchanged. -/
theorem unlessHeld_next (s s' : State) :
    unlessHeld s (.next s') = .next s' ∧ s'.held = false ∨
      unlessHeld s (.next s') = .next (if midUnit s then stallUnit s else s) ∧ s'.held = true := by
  cases h : s'.held <;> simp [unlessHeld, h]

end Sys2Proof.Laws
end

