-- ==== Sys2Proof/Laws/Table.lean ====
section
/-! SUPPORT. The laws of sparse tables: what a table holds after an entry is set or removed. -/

namespace Sys2Proof.Laws

/-- An entry that has been set reads as set. -/
@[simp] theorem tbl_get_put_self {α : Type} (d : α) (m : Tbl α) (k : Nat) (v : α) : (m.put k v).get d k = v := by
  induction m with
  | nil => simp [Tbl.put, Tbl.get]
  | cons e r ih =>
    obtain ⟨a, x⟩ := e
    simp only [Tbl.put]
    split
    · simp [Tbl.get]
    · split
      · simp [Tbl.get]
      · rename_i h1 h2
        simp [Tbl.get, h2, ih]

/-- Every other entry reads as before. -/
theorem tbl_get_put_ne {α : Type} (d : α) (m : Tbl α) (k j : Nat) (v : α) (h : j ≠ k) :
    (m.put k v).get d j = m.get d j := by
  induction m with
  | nil => simp [Tbl.put, Tbl.get, h]
  | cons e r ih =>
    obtain ⟨a, x⟩ := e
    simp only [Tbl.put]
    split
    · simp [Tbl.get, h]
    · split
      · rename_i h1 h2
        subst h2
        simp [Tbl.get, h]
      · by_cases hj : j = a <;> simp [Tbl.get, hj, ih]

/-- An entry after one has been set, by cases on its key. -/
theorem tbl_get_put {α : Type} (d : α) (m : Tbl α) (k j : Nat) (v : α) :
    (m.put k v).get d j = if j = k then v else m.get d j := by
  by_cases h : j = k
  · subst h; simp
  · simp [h, tbl_get_put_ne]

/-- A removed entry reads as the default. -/
@[simp] theorem tbl_get_erase_self {α : Type} (d : α) (m : Tbl α) (k : Nat) : (m.erase k).get d k = d := by
  induction m with
  | nil => simp [Tbl.erase, Tbl.get]
  | cons e r ih =>
    obtain ⟨a, x⟩ := e
    simp only [Tbl.erase, List.filter_cons] at ih ⊢
    split
    · rename_i h
      simp only [bne_iff_ne, ne_eq] at h
      simp [Tbl.get, Ne.symm h, ih]
    · exact ih

/-- Removing an entry leaves the others. -/
theorem tbl_get_erase_ne {α : Type} (d : α) (m : Tbl α) (k j : Nat) (h : j ≠ k) : (m.erase k).get d j = m.get d j := by
  induction m with
  | nil => simp [Tbl.erase, Tbl.get]
  | cons e r ih =>
    obtain ⟨a, x⟩ := e
    simp only [Tbl.erase, List.filter_cons] at ih ⊢
    split
    · by_cases hj : j = a <;> simp [Tbl.get, hj, ih]
    · rename_i hc
      have ha : a = k := by simpa using hc
      subst ha
      simp [Tbl.get, h, ih]

end Sys2Proof.Laws
end

