-- ==== Sys2Proof/Laws/State.lean ====
section
/-! SUPPORT. What each update of the state leaves alone: one lemma for each field of each update, and the part that it
changes read back. -/

namespace Sys2Proof.Laws

open Sys2Proof.Machine

/-! ### setIsle -/

@[simp] theorem setIsle_active (s : State) (k : Nat) (v : Isle) : (s.setIsle k v).active = s.active := rfl
@[simp] theorem setIsle_agenda (s : State) (k : Nat) (v : Isle) : (s.setIsle k v).agenda = s.agenda := rfl
@[simp] theorem setIsle_free (s : State) (k : Nat) (v : Isle) : (s.setIsle k v).free = s.free := rfl
@[simp] theorem setIsle_mem (s : State) (k : Nat) (v : Isle) : (s.setIsle k v).mem = s.mem := rfl
@[simp] theorem setIsle_memUe (s : State) (k : Nat) (v : Isle) : (s.setIsle k v).memUe = s.memUe := rfl
@[simp] theorem setIsle_poison (s : State) (k : Nat) (v : Isle) : (s.setIsle k v).poison = s.poison := rfl
@[simp] theorem setIsle_times (s : State) (k : Nat) (v : Isle) : (s.setIsle k v).times = s.times := rfl
@[simp] theorem setIsle_tiles (s : State) (k : Nat) (v : Isle) : (s.setIsle k v).tiles = s.tiles := rfl
@[simp] theorem setIsle_dies (s : State) (k : Nat) (v : Isle) : (s.setIsle k v).dies = s.dies := rfl
@[simp] theorem setIsle_flights (s : State) (k : Nat) (v : Isle) : (s.setIsle k v).flights = s.flights := rfl
@[simp] theorem setIsle_pages (s : State) (k : Nat) (v : Isle) : (s.setIsle k v).pages = s.pages := rfl
@[simp] theorem setIsle_jobs (s : State) (k : Nat) (v : Isle) : (s.setIsle k v).jobs = s.jobs := rfl
@[simp] theorem setIsle_kernels (s : State) (k : Nat) (v : Isle) : (s.setIsle k v).kernels = s.kernels := rfl
@[simp] theorem setIsle_lagoons (s : State) (k : Nat) (v : Isle) : (s.setIsle k v).lagoons = s.lagoons := rfl
@[simp] theorem setIsle_ctxs (s : State) (k : Nat) (v : Isle) : (s.setIsle k v).ctxs = s.ctxs := rfl
@[simp] theorem setIsle_tslot (s : State) (k : Nat) (v : Isle) : (s.setIsle k v).tslot = s.tslot := rfl
@[simp] theorem setIsle_tenant (s : State) (k : Nat) (v : Isle) : (s.setIsle k v).tenant = s.tenant := rfl
@[simp] theorem setIsle_keys (s : State) (k : Nat) (v : Isle) : (s.setIsle k v).keys = s.keys := rfl
@[simp] theorem setIsle_circuits (s : State) (k : Nat) (v : Isle) : (s.setIsle k v).circuits = s.circuits := rfl
@[simp] theorem setIsle_mgmt (s : State) (k : Nat) (v : Isle) : (s.setIsle k v).mgmt = s.mgmt := rfl
@[simp] theorem setIsle_hostPts (s : State) (k : Nat) (v : Isle) : (s.setIsle k v).hostPts = s.hostPts := rfl
@[simp] theorem setIsle_schedPts (s : State) (k : Nat) (v : Isle) : (s.setIsle k v).schedPts = s.schedPts := rfl
@[simp] theorem setIsle_secPts (s : State) (k : Nat) (v : Isle) : (s.setIsle k v).secPts = s.secPts := rfl
@[simp] theorem setIsle_rollover (s : State) (k : Nat) (v : Isle) : (s.setIsle k v).rollover = s.rollover := rfl
@[simp] theorem setIsle_served (s : State) (k : Nat) (v : Isle) : (s.setIsle k v).served = s.served := rfl
@[simp] theorem setIsle_buckets (s : State) (k : Nat) (v : Isle) : (s.setIsle k v).buckets = s.buckets := rfl
@[simp] theorem setIsle_orders (s : State) (k : Nat) (v : Isle) : (s.setIsle k v).orders = s.orders := rfl
@[simp] theorem setIsle_micros (s : State) (k : Nat) (v : Isle) : (s.setIsle k v).micros = s.micros := rfl
@[simp] theorem setIsle_opIds (s : State) (k : Nat) (v : Isle) : (s.setIsle k v).opIds = s.opIds := rfl
@[simp] theorem setIsle_opens (s : State) (k : Nat) (v : Isle) : (s.setIsle k v).opens = s.opens := rfl
@[simp] theorem setIsle_cmds (s : State) (k : Nat) (v : Isle) : (s.setIsle k v).cmds = s.cmds := rfl
@[simp] theorem setIsle_slice (s : State) (k : Nat) (v : Isle) : (s.setIsle k v).slice = s.slice := rfl
@[simp] theorem setIsle_stalls (s : State) (k : Nat) (v : Isle) : (s.setIsle k v).stalls = s.stalls := rfl
@[simp] theorem setIsle_stuck (s : State) (k : Nat) (v : Isle) : (s.setIsle k v).stuck = s.stuck := rfl
@[simp] theorem setIsle_hits (s : State) (k : Nat) (v : Isle) : (s.setIsle k v).hits = s.hits := rfl
@[simp] theorem setIsle_held (s : State) (k : Nat) (v : Isle) : (s.setIsle k v).held = s.held := rfl

/-! ### updIsle -/

@[simp] theorem updIsle_active (s : State) (k : Nat) (f : Isle → Isle) : (s.updIsle k f).active = s.active := rfl
@[simp] theorem updIsle_agenda (s : State) (k : Nat) (f : Isle → Isle) : (s.updIsle k f).agenda = s.agenda := rfl
@[simp] theorem updIsle_free (s : State) (k : Nat) (f : Isle → Isle) : (s.updIsle k f).free = s.free := rfl
@[simp] theorem updIsle_mem (s : State) (k : Nat) (f : Isle → Isle) : (s.updIsle k f).mem = s.mem := rfl
@[simp] theorem updIsle_memUe (s : State) (k : Nat) (f : Isle → Isle) : (s.updIsle k f).memUe = s.memUe := rfl
@[simp] theorem updIsle_poison (s : State) (k : Nat) (f : Isle → Isle) : (s.updIsle k f).poison = s.poison := rfl
@[simp] theorem updIsle_times (s : State) (k : Nat) (f : Isle → Isle) : (s.updIsle k f).times = s.times := rfl
@[simp] theorem updIsle_tiles (s : State) (k : Nat) (f : Isle → Isle) : (s.updIsle k f).tiles = s.tiles := rfl
@[simp] theorem updIsle_dies (s : State) (k : Nat) (f : Isle → Isle) : (s.updIsle k f).dies = s.dies := rfl
@[simp] theorem updIsle_flights (s : State) (k : Nat) (f : Isle → Isle) : (s.updIsle k f).flights = s.flights := rfl
@[simp] theorem updIsle_pages (s : State) (k : Nat) (f : Isle → Isle) : (s.updIsle k f).pages = s.pages := rfl
@[simp] theorem updIsle_jobs (s : State) (k : Nat) (f : Isle → Isle) : (s.updIsle k f).jobs = s.jobs := rfl
@[simp] theorem updIsle_kernels (s : State) (k : Nat) (f : Isle → Isle) : (s.updIsle k f).kernels = s.kernels := rfl
@[simp] theorem updIsle_lagoons (s : State) (k : Nat) (f : Isle → Isle) : (s.updIsle k f).lagoons = s.lagoons := rfl
@[simp] theorem updIsle_ctxs (s : State) (k : Nat) (f : Isle → Isle) : (s.updIsle k f).ctxs = s.ctxs := rfl
@[simp] theorem updIsle_tslot (s : State) (k : Nat) (f : Isle → Isle) : (s.updIsle k f).tslot = s.tslot := rfl
@[simp] theorem updIsle_tenant (s : State) (k : Nat) (f : Isle → Isle) : (s.updIsle k f).tenant = s.tenant := rfl
@[simp] theorem updIsle_keys (s : State) (k : Nat) (f : Isle → Isle) : (s.updIsle k f).keys = s.keys := rfl
@[simp] theorem updIsle_circuits (s : State) (k : Nat) (f : Isle → Isle) : (s.updIsle k f).circuits = s.circuits := rfl
@[simp] theorem updIsle_mgmt (s : State) (k : Nat) (f : Isle → Isle) : (s.updIsle k f).mgmt = s.mgmt := rfl
@[simp] theorem updIsle_hostPts (s : State) (k : Nat) (f : Isle → Isle) : (s.updIsle k f).hostPts = s.hostPts := rfl
@[simp] theorem updIsle_schedPts (s : State) (k : Nat) (f : Isle → Isle) : (s.updIsle k f).schedPts = s.schedPts := rfl
@[simp] theorem updIsle_secPts (s : State) (k : Nat) (f : Isle → Isle) : (s.updIsle k f).secPts = s.secPts := rfl
@[simp] theorem updIsle_rollover (s : State) (k : Nat) (f : Isle → Isle) : (s.updIsle k f).rollover = s.rollover := rfl
@[simp] theorem updIsle_served (s : State) (k : Nat) (f : Isle → Isle) : (s.updIsle k f).served = s.served := rfl
@[simp] theorem updIsle_buckets (s : State) (k : Nat) (f : Isle → Isle) : (s.updIsle k f).buckets = s.buckets := rfl
@[simp] theorem updIsle_orders (s : State) (k : Nat) (f : Isle → Isle) : (s.updIsle k f).orders = s.orders := rfl
@[simp] theorem updIsle_micros (s : State) (k : Nat) (f : Isle → Isle) : (s.updIsle k f).micros = s.micros := rfl
@[simp] theorem updIsle_opIds (s : State) (k : Nat) (f : Isle → Isle) : (s.updIsle k f).opIds = s.opIds := rfl
@[simp] theorem updIsle_opens (s : State) (k : Nat) (f : Isle → Isle) : (s.updIsle k f).opens = s.opens := rfl
@[simp] theorem updIsle_cmds (s : State) (k : Nat) (f : Isle → Isle) : (s.updIsle k f).cmds = s.cmds := rfl
@[simp] theorem updIsle_slice (s : State) (k : Nat) (f : Isle → Isle) : (s.updIsle k f).slice = s.slice := rfl
@[simp] theorem updIsle_stalls (s : State) (k : Nat) (f : Isle → Isle) : (s.updIsle k f).stalls = s.stalls := rfl
@[simp] theorem updIsle_stuck (s : State) (k : Nat) (f : Isle → Isle) : (s.updIsle k f).stuck = s.stuck := rfl
@[simp] theorem updIsle_hits (s : State) (k : Nat) (f : Isle → Isle) : (s.updIsle k f).hits = s.hits := rfl
@[simp] theorem updIsle_held (s : State) (k : Nat) (f : Isle → Isle) : (s.updIsle k f).held = s.held := rfl

/-! ### setCore -/

@[simp] theorem setCore_active (s : State) (k : Nat) (v : Core) : (s.setCore k v).active = s.active := rfl
@[simp] theorem setCore_agenda (s : State) (k : Nat) (v : Core) : (s.setCore k v).agenda = s.agenda := rfl
@[simp] theorem setCore_free (s : State) (k : Nat) (v : Core) : (s.setCore k v).free = s.free := rfl
@[simp] theorem setCore_mem (s : State) (k : Nat) (v : Core) : (s.setCore k v).mem = s.mem := rfl
@[simp] theorem setCore_memUe (s : State) (k : Nat) (v : Core) : (s.setCore k v).memUe = s.memUe := rfl
@[simp] theorem setCore_poison (s : State) (k : Nat) (v : Core) : (s.setCore k v).poison = s.poison := rfl
@[simp] theorem setCore_times (s : State) (k : Nat) (v : Core) : (s.setCore k v).times = s.times := rfl
@[simp] theorem setCore_tiles (s : State) (k : Nat) (v : Core) : (s.setCore k v).tiles = s.tiles := rfl
@[simp] theorem setCore_dies (s : State) (k : Nat) (v : Core) : (s.setCore k v).dies = s.dies := rfl
@[simp] theorem setCore_flights (s : State) (k : Nat) (v : Core) : (s.setCore k v).flights = s.flights := rfl
@[simp] theorem setCore_pages (s : State) (k : Nat) (v : Core) : (s.setCore k v).pages = s.pages := rfl
@[simp] theorem setCore_jobs (s : State) (k : Nat) (v : Core) : (s.setCore k v).jobs = s.jobs := rfl
@[simp] theorem setCore_kernels (s : State) (k : Nat) (v : Core) : (s.setCore k v).kernels = s.kernels := rfl
@[simp] theorem setCore_lagoons (s : State) (k : Nat) (v : Core) : (s.setCore k v).lagoons = s.lagoons := rfl
@[simp] theorem setCore_ctxs (s : State) (k : Nat) (v : Core) : (s.setCore k v).ctxs = s.ctxs := rfl
@[simp] theorem setCore_tslot (s : State) (k : Nat) (v : Core) : (s.setCore k v).tslot = s.tslot := rfl
@[simp] theorem setCore_tenant (s : State) (k : Nat) (v : Core) : (s.setCore k v).tenant = s.tenant := rfl
@[simp] theorem setCore_keys (s : State) (k : Nat) (v : Core) : (s.setCore k v).keys = s.keys := rfl
@[simp] theorem setCore_circuits (s : State) (k : Nat) (v : Core) : (s.setCore k v).circuits = s.circuits := rfl
@[simp] theorem setCore_mgmt (s : State) (k : Nat) (v : Core) : (s.setCore k v).mgmt = s.mgmt := rfl
@[simp] theorem setCore_hostPts (s : State) (k : Nat) (v : Core) : (s.setCore k v).hostPts = s.hostPts := rfl
@[simp] theorem setCore_schedPts (s : State) (k : Nat) (v : Core) : (s.setCore k v).schedPts = s.schedPts := rfl
@[simp] theorem setCore_secPts (s : State) (k : Nat) (v : Core) : (s.setCore k v).secPts = s.secPts := rfl
@[simp] theorem setCore_rollover (s : State) (k : Nat) (v : Core) : (s.setCore k v).rollover = s.rollover := rfl
@[simp] theorem setCore_served (s : State) (k : Nat) (v : Core) : (s.setCore k v).served = s.served := rfl
@[simp] theorem setCore_buckets (s : State) (k : Nat) (v : Core) : (s.setCore k v).buckets = s.buckets := rfl
@[simp] theorem setCore_orders (s : State) (k : Nat) (v : Core) : (s.setCore k v).orders = s.orders := rfl
@[simp] theorem setCore_micros (s : State) (k : Nat) (v : Core) : (s.setCore k v).micros = s.micros := rfl
@[simp] theorem setCore_opIds (s : State) (k : Nat) (v : Core) : (s.setCore k v).opIds = s.opIds := rfl
@[simp] theorem setCore_opens (s : State) (k : Nat) (v : Core) : (s.setCore k v).opens = s.opens := rfl
@[simp] theorem setCore_cmds (s : State) (k : Nat) (v : Core) : (s.setCore k v).cmds = s.cmds := rfl
@[simp] theorem setCore_slice (s : State) (k : Nat) (v : Core) : (s.setCore k v).slice = s.slice := rfl
@[simp] theorem setCore_stalls (s : State) (k : Nat) (v : Core) : (s.setCore k v).stalls = s.stalls := rfl
@[simp] theorem setCore_stuck (s : State) (k : Nat) (v : Core) : (s.setCore k v).stuck = s.stuck := rfl
@[simp] theorem setCore_hits (s : State) (k : Nat) (v : Core) : (s.setCore k v).hits = s.hits := rfl
@[simp] theorem setCore_held (s : State) (k : Nat) (v : Core) : (s.setCore k v).held = s.held := rfl

/-! ### updCore -/

@[simp] theorem updCore_active (s : State) (k : Nat) (f : Core → Core) : (s.updCore k f).active = s.active := rfl
@[simp] theorem updCore_agenda (s : State) (k : Nat) (f : Core → Core) : (s.updCore k f).agenda = s.agenda := rfl
@[simp] theorem updCore_free (s : State) (k : Nat) (f : Core → Core) : (s.updCore k f).free = s.free := rfl
@[simp] theorem updCore_mem (s : State) (k : Nat) (f : Core → Core) : (s.updCore k f).mem = s.mem := rfl
@[simp] theorem updCore_memUe (s : State) (k : Nat) (f : Core → Core) : (s.updCore k f).memUe = s.memUe := rfl
@[simp] theorem updCore_poison (s : State) (k : Nat) (f : Core → Core) : (s.updCore k f).poison = s.poison := rfl
@[simp] theorem updCore_times (s : State) (k : Nat) (f : Core → Core) : (s.updCore k f).times = s.times := rfl
@[simp] theorem updCore_tiles (s : State) (k : Nat) (f : Core → Core) : (s.updCore k f).tiles = s.tiles := rfl
@[simp] theorem updCore_dies (s : State) (k : Nat) (f : Core → Core) : (s.updCore k f).dies = s.dies := rfl
@[simp] theorem updCore_flights (s : State) (k : Nat) (f : Core → Core) : (s.updCore k f).flights = s.flights := rfl
@[simp] theorem updCore_pages (s : State) (k : Nat) (f : Core → Core) : (s.updCore k f).pages = s.pages := rfl
@[simp] theorem updCore_jobs (s : State) (k : Nat) (f : Core → Core) : (s.updCore k f).jobs = s.jobs := rfl
@[simp] theorem updCore_kernels (s : State) (k : Nat) (f : Core → Core) : (s.updCore k f).kernels = s.kernels := rfl
@[simp] theorem updCore_lagoons (s : State) (k : Nat) (f : Core → Core) : (s.updCore k f).lagoons = s.lagoons := rfl
@[simp] theorem updCore_ctxs (s : State) (k : Nat) (f : Core → Core) : (s.updCore k f).ctxs = s.ctxs := rfl
@[simp] theorem updCore_tslot (s : State) (k : Nat) (f : Core → Core) : (s.updCore k f).tslot = s.tslot := rfl
@[simp] theorem updCore_tenant (s : State) (k : Nat) (f : Core → Core) : (s.updCore k f).tenant = s.tenant := rfl
@[simp] theorem updCore_keys (s : State) (k : Nat) (f : Core → Core) : (s.updCore k f).keys = s.keys := rfl
@[simp] theorem updCore_circuits (s : State) (k : Nat) (f : Core → Core) : (s.updCore k f).circuits = s.circuits := rfl
@[simp] theorem updCore_mgmt (s : State) (k : Nat) (f : Core → Core) : (s.updCore k f).mgmt = s.mgmt := rfl
@[simp] theorem updCore_hostPts (s : State) (k : Nat) (f : Core → Core) : (s.updCore k f).hostPts = s.hostPts := rfl
@[simp] theorem updCore_schedPts (s : State) (k : Nat) (f : Core → Core) : (s.updCore k f).schedPts = s.schedPts := rfl
@[simp] theorem updCore_secPts (s : State) (k : Nat) (f : Core → Core) : (s.updCore k f).secPts = s.secPts := rfl
@[simp] theorem updCore_rollover (s : State) (k : Nat) (f : Core → Core) : (s.updCore k f).rollover = s.rollover := rfl
@[simp] theorem updCore_served (s : State) (k : Nat) (f : Core → Core) : (s.updCore k f).served = s.served := rfl
@[simp] theorem updCore_buckets (s : State) (k : Nat) (f : Core → Core) : (s.updCore k f).buckets = s.buckets := rfl
@[simp] theorem updCore_orders (s : State) (k : Nat) (f : Core → Core) : (s.updCore k f).orders = s.orders := rfl
@[simp] theorem updCore_micros (s : State) (k : Nat) (f : Core → Core) : (s.updCore k f).micros = s.micros := rfl
@[simp] theorem updCore_opIds (s : State) (k : Nat) (f : Core → Core) : (s.updCore k f).opIds = s.opIds := rfl
@[simp] theorem updCore_opens (s : State) (k : Nat) (f : Core → Core) : (s.updCore k f).opens = s.opens := rfl
@[simp] theorem updCore_cmds (s : State) (k : Nat) (f : Core → Core) : (s.updCore k f).cmds = s.cmds := rfl
@[simp] theorem updCore_slice (s : State) (k : Nat) (f : Core → Core) : (s.updCore k f).slice = s.slice := rfl
@[simp] theorem updCore_stalls (s : State) (k : Nat) (f : Core → Core) : (s.updCore k f).stalls = s.stalls := rfl
@[simp] theorem updCore_stuck (s : State) (k : Nat) (f : Core → Core) : (s.updCore k f).stuck = s.stuck := rfl
@[simp] theorem updCore_hits (s : State) (k : Nat) (f : Core → Core) : (s.updCore k f).hits = s.hits := rfl
@[simp] theorem updCore_held (s : State) (k : Nat) (f : Core → Core) : (s.updCore k f).held = s.held := rfl

/-! ### setTile -/

@[simp] theorem setTile_active (s : State) (t : Nat) (v : Tile) : (s.setTile t v).active = s.active := rfl
@[simp] theorem setTile_agenda (s : State) (t : Nat) (v : Tile) : (s.setTile t v).agenda = s.agenda := rfl
@[simp] theorem setTile_free (s : State) (t : Nat) (v : Tile) : (s.setTile t v).free = s.free := rfl
@[simp] theorem setTile_mem (s : State) (t : Nat) (v : Tile) : (s.setTile t v).mem = s.mem := rfl
@[simp] theorem setTile_memUe (s : State) (t : Nat) (v : Tile) : (s.setTile t v).memUe = s.memUe := rfl
@[simp] theorem setTile_poison (s : State) (t : Nat) (v : Tile) : (s.setTile t v).poison = s.poison := rfl
@[simp] theorem setTile_times (s : State) (t : Nat) (v : Tile) : (s.setTile t v).times = s.times := rfl
@[simp] theorem setTile_isles (s : State) (t : Nat) (v : Tile) : (s.setTile t v).isles = s.isles := rfl
@[simp] theorem setTile_dies (s : State) (t : Nat) (v : Tile) : (s.setTile t v).dies = s.dies := rfl
@[simp] theorem setTile_flights (s : State) (t : Nat) (v : Tile) : (s.setTile t v).flights = s.flights := rfl
@[simp] theorem setTile_pages (s : State) (t : Nat) (v : Tile) : (s.setTile t v).pages = s.pages := rfl
@[simp] theorem setTile_jobs (s : State) (t : Nat) (v : Tile) : (s.setTile t v).jobs = s.jobs := rfl
@[simp] theorem setTile_kernels (s : State) (t : Nat) (v : Tile) : (s.setTile t v).kernels = s.kernels := rfl
@[simp] theorem setTile_lagoons (s : State) (t : Nat) (v : Tile) : (s.setTile t v).lagoons = s.lagoons := rfl
@[simp] theorem setTile_ctxs (s : State) (t : Nat) (v : Tile) : (s.setTile t v).ctxs = s.ctxs := rfl
@[simp] theorem setTile_tslot (s : State) (t : Nat) (v : Tile) : (s.setTile t v).tslot = s.tslot := rfl
@[simp] theorem setTile_tenant (s : State) (t : Nat) (v : Tile) : (s.setTile t v).tenant = s.tenant := rfl
@[simp] theorem setTile_keys (s : State) (t : Nat) (v : Tile) : (s.setTile t v).keys = s.keys := rfl
@[simp] theorem setTile_circuits (s : State) (t : Nat) (v : Tile) : (s.setTile t v).circuits = s.circuits := rfl
@[simp] theorem setTile_mgmt (s : State) (t : Nat) (v : Tile) : (s.setTile t v).mgmt = s.mgmt := rfl
@[simp] theorem setTile_hostPts (s : State) (t : Nat) (v : Tile) : (s.setTile t v).hostPts = s.hostPts := rfl
@[simp] theorem setTile_schedPts (s : State) (t : Nat) (v : Tile) : (s.setTile t v).schedPts = s.schedPts := rfl
@[simp] theorem setTile_secPts (s : State) (t : Nat) (v : Tile) : (s.setTile t v).secPts = s.secPts := rfl
@[simp] theorem setTile_rollover (s : State) (t : Nat) (v : Tile) : (s.setTile t v).rollover = s.rollover := rfl
@[simp] theorem setTile_served (s : State) (t : Nat) (v : Tile) : (s.setTile t v).served = s.served := rfl
@[simp] theorem setTile_buckets (s : State) (t : Nat) (v : Tile) : (s.setTile t v).buckets = s.buckets := rfl
@[simp] theorem setTile_orders (s : State) (t : Nat) (v : Tile) : (s.setTile t v).orders = s.orders := rfl
@[simp] theorem setTile_micros (s : State) (t : Nat) (v : Tile) : (s.setTile t v).micros = s.micros := rfl
@[simp] theorem setTile_opIds (s : State) (t : Nat) (v : Tile) : (s.setTile t v).opIds = s.opIds := rfl
@[simp] theorem setTile_opens (s : State) (t : Nat) (v : Tile) : (s.setTile t v).opens = s.opens := rfl
@[simp] theorem setTile_cmds (s : State) (t : Nat) (v : Tile) : (s.setTile t v).cmds = s.cmds := rfl
@[simp] theorem setTile_slice (s : State) (t : Nat) (v : Tile) : (s.setTile t v).slice = s.slice := rfl
@[simp] theorem setTile_stalls (s : State) (t : Nat) (v : Tile) : (s.setTile t v).stalls = s.stalls := rfl
@[simp] theorem setTile_stuck (s : State) (t : Nat) (v : Tile) : (s.setTile t v).stuck = s.stuck := rfl
@[simp] theorem setTile_hits (s : State) (t : Nat) (v : Tile) : (s.setTile t v).hits = s.hits := rfl
@[simp] theorem setTile_held (s : State) (t : Nat) (v : Tile) : (s.setTile t v).held = s.held := rfl

/-! ### updTile -/

@[simp] theorem updTile_active (s : State) (t : Nat) (f : Tile → Tile) : (s.updTile t f).active = s.active := rfl
@[simp] theorem updTile_agenda (s : State) (t : Nat) (f : Tile → Tile) : (s.updTile t f).agenda = s.agenda := rfl
@[simp] theorem updTile_free (s : State) (t : Nat) (f : Tile → Tile) : (s.updTile t f).free = s.free := rfl
@[simp] theorem updTile_mem (s : State) (t : Nat) (f : Tile → Tile) : (s.updTile t f).mem = s.mem := rfl
@[simp] theorem updTile_memUe (s : State) (t : Nat) (f : Tile → Tile) : (s.updTile t f).memUe = s.memUe := rfl
@[simp] theorem updTile_poison (s : State) (t : Nat) (f : Tile → Tile) : (s.updTile t f).poison = s.poison := rfl
@[simp] theorem updTile_times (s : State) (t : Nat) (f : Tile → Tile) : (s.updTile t f).times = s.times := rfl
@[simp] theorem updTile_isles (s : State) (t : Nat) (f : Tile → Tile) : (s.updTile t f).isles = s.isles := rfl
@[simp] theorem updTile_dies (s : State) (t : Nat) (f : Tile → Tile) : (s.updTile t f).dies = s.dies := rfl
@[simp] theorem updTile_flights (s : State) (t : Nat) (f : Tile → Tile) : (s.updTile t f).flights = s.flights := rfl
@[simp] theorem updTile_pages (s : State) (t : Nat) (f : Tile → Tile) : (s.updTile t f).pages = s.pages := rfl
@[simp] theorem updTile_jobs (s : State) (t : Nat) (f : Tile → Tile) : (s.updTile t f).jobs = s.jobs := rfl
@[simp] theorem updTile_kernels (s : State) (t : Nat) (f : Tile → Tile) : (s.updTile t f).kernels = s.kernels := rfl
@[simp] theorem updTile_lagoons (s : State) (t : Nat) (f : Tile → Tile) : (s.updTile t f).lagoons = s.lagoons := rfl
@[simp] theorem updTile_ctxs (s : State) (t : Nat) (f : Tile → Tile) : (s.updTile t f).ctxs = s.ctxs := rfl
@[simp] theorem updTile_tslot (s : State) (t : Nat) (f : Tile → Tile) : (s.updTile t f).tslot = s.tslot := rfl
@[simp] theorem updTile_tenant (s : State) (t : Nat) (f : Tile → Tile) : (s.updTile t f).tenant = s.tenant := rfl
@[simp] theorem updTile_keys (s : State) (t : Nat) (f : Tile → Tile) : (s.updTile t f).keys = s.keys := rfl
@[simp] theorem updTile_circuits (s : State) (t : Nat) (f : Tile → Tile) : (s.updTile t f).circuits = s.circuits := rfl
@[simp] theorem updTile_mgmt (s : State) (t : Nat) (f : Tile → Tile) : (s.updTile t f).mgmt = s.mgmt := rfl
@[simp] theorem updTile_hostPts (s : State) (t : Nat) (f : Tile → Tile) : (s.updTile t f).hostPts = s.hostPts := rfl
@[simp] theorem updTile_schedPts (s : State) (t : Nat) (f : Tile → Tile) : (s.updTile t f).schedPts = s.schedPts := rfl
@[simp] theorem updTile_secPts (s : State) (t : Nat) (f : Tile → Tile) : (s.updTile t f).secPts = s.secPts := rfl
@[simp] theorem updTile_rollover (s : State) (t : Nat) (f : Tile → Tile) : (s.updTile t f).rollover = s.rollover := rfl
@[simp] theorem updTile_served (s : State) (t : Nat) (f : Tile → Tile) : (s.updTile t f).served = s.served := rfl
@[simp] theorem updTile_buckets (s : State) (t : Nat) (f : Tile → Tile) : (s.updTile t f).buckets = s.buckets := rfl
@[simp] theorem updTile_orders (s : State) (t : Nat) (f : Tile → Tile) : (s.updTile t f).orders = s.orders := rfl
@[simp] theorem updTile_micros (s : State) (t : Nat) (f : Tile → Tile) : (s.updTile t f).micros = s.micros := rfl
@[simp] theorem updTile_opIds (s : State) (t : Nat) (f : Tile → Tile) : (s.updTile t f).opIds = s.opIds := rfl
@[simp] theorem updTile_opens (s : State) (t : Nat) (f : Tile → Tile) : (s.updTile t f).opens = s.opens := rfl
@[simp] theorem updTile_cmds (s : State) (t : Nat) (f : Tile → Tile) : (s.updTile t f).cmds = s.cmds := rfl
@[simp] theorem updTile_slice (s : State) (t : Nat) (f : Tile → Tile) : (s.updTile t f).slice = s.slice := rfl
@[simp] theorem updTile_stalls (s : State) (t : Nat) (f : Tile → Tile) : (s.updTile t f).stalls = s.stalls := rfl
@[simp] theorem updTile_stuck (s : State) (t : Nat) (f : Tile → Tile) : (s.updTile t f).stuck = s.stuck := rfl
@[simp] theorem updTile_hits (s : State) (t : Nat) (f : Tile → Tile) : (s.updTile t f).hits = s.hits := rfl
@[simp] theorem updTile_held (s : State) (t : Nat) (f : Tile → Tile) : (s.updTile t f).held = s.held := rfl

/-! ### setCell -/

@[simp] theorem setCell_active (s : State) (t : Nat) (v : Cell) : (s.setCell t v).active = s.active := rfl
@[simp] theorem setCell_agenda (s : State) (t : Nat) (v : Cell) : (s.setCell t v).agenda = s.agenda := rfl
@[simp] theorem setCell_free (s : State) (t : Nat) (v : Cell) : (s.setCell t v).free = s.free := rfl
@[simp] theorem setCell_mem (s : State) (t : Nat) (v : Cell) : (s.setCell t v).mem = s.mem := rfl
@[simp] theorem setCell_memUe (s : State) (t : Nat) (v : Cell) : (s.setCell t v).memUe = s.memUe := rfl
@[simp] theorem setCell_poison (s : State) (t : Nat) (v : Cell) : (s.setCell t v).poison = s.poison := rfl
@[simp] theorem setCell_times (s : State) (t : Nat) (v : Cell) : (s.setCell t v).times = s.times := rfl
@[simp] theorem setCell_isles (s : State) (t : Nat) (v : Cell) : (s.setCell t v).isles = s.isles := rfl
@[simp] theorem setCell_dies (s : State) (t : Nat) (v : Cell) : (s.setCell t v).dies = s.dies := rfl
@[simp] theorem setCell_flights (s : State) (t : Nat) (v : Cell) : (s.setCell t v).flights = s.flights := rfl
@[simp] theorem setCell_pages (s : State) (t : Nat) (v : Cell) : (s.setCell t v).pages = s.pages := rfl
@[simp] theorem setCell_jobs (s : State) (t : Nat) (v : Cell) : (s.setCell t v).jobs = s.jobs := rfl
@[simp] theorem setCell_kernels (s : State) (t : Nat) (v : Cell) : (s.setCell t v).kernels = s.kernels := rfl
@[simp] theorem setCell_lagoons (s : State) (t : Nat) (v : Cell) : (s.setCell t v).lagoons = s.lagoons := rfl
@[simp] theorem setCell_ctxs (s : State) (t : Nat) (v : Cell) : (s.setCell t v).ctxs = s.ctxs := rfl
@[simp] theorem setCell_tslot (s : State) (t : Nat) (v : Cell) : (s.setCell t v).tslot = s.tslot := rfl
@[simp] theorem setCell_tenant (s : State) (t : Nat) (v : Cell) : (s.setCell t v).tenant = s.tenant := rfl
@[simp] theorem setCell_keys (s : State) (t : Nat) (v : Cell) : (s.setCell t v).keys = s.keys := rfl
@[simp] theorem setCell_circuits (s : State) (t : Nat) (v : Cell) : (s.setCell t v).circuits = s.circuits := rfl
@[simp] theorem setCell_mgmt (s : State) (t : Nat) (v : Cell) : (s.setCell t v).mgmt = s.mgmt := rfl
@[simp] theorem setCell_hostPts (s : State) (t : Nat) (v : Cell) : (s.setCell t v).hostPts = s.hostPts := rfl
@[simp] theorem setCell_schedPts (s : State) (t : Nat) (v : Cell) : (s.setCell t v).schedPts = s.schedPts := rfl
@[simp] theorem setCell_secPts (s : State) (t : Nat) (v : Cell) : (s.setCell t v).secPts = s.secPts := rfl
@[simp] theorem setCell_rollover (s : State) (t : Nat) (v : Cell) : (s.setCell t v).rollover = s.rollover := rfl
@[simp] theorem setCell_served (s : State) (t : Nat) (v : Cell) : (s.setCell t v).served = s.served := rfl
@[simp] theorem setCell_buckets (s : State) (t : Nat) (v : Cell) : (s.setCell t v).buckets = s.buckets := rfl
@[simp] theorem setCell_orders (s : State) (t : Nat) (v : Cell) : (s.setCell t v).orders = s.orders := rfl
@[simp] theorem setCell_micros (s : State) (t : Nat) (v : Cell) : (s.setCell t v).micros = s.micros := rfl
@[simp] theorem setCell_opIds (s : State) (t : Nat) (v : Cell) : (s.setCell t v).opIds = s.opIds := rfl
@[simp] theorem setCell_opens (s : State) (t : Nat) (v : Cell) : (s.setCell t v).opens = s.opens := rfl
@[simp] theorem setCell_cmds (s : State) (t : Nat) (v : Cell) : (s.setCell t v).cmds = s.cmds := rfl
@[simp] theorem setCell_slice (s : State) (t : Nat) (v : Cell) : (s.setCell t v).slice = s.slice := rfl
@[simp] theorem setCell_stalls (s : State) (t : Nat) (v : Cell) : (s.setCell t v).stalls = s.stalls := rfl
@[simp] theorem setCell_stuck (s : State) (t : Nat) (v : Cell) : (s.setCell t v).stuck = s.stuck := rfl
@[simp] theorem setCell_hits (s : State) (t : Nat) (v : Cell) : (s.setCell t v).hits = s.hits := rfl
@[simp] theorem setCell_held (s : State) (t : Nat) (v : Cell) : (s.setCell t v).held = s.held := rfl

/-! ### updTask -/

@[simp] theorem updTask_active (s : State) (t : Nat) (f : Task → Task) : (s.updTask t f).active = s.active := rfl
@[simp] theorem updTask_agenda (s : State) (t : Nat) (f : Task → Task) : (s.updTask t f).agenda = s.agenda := rfl
@[simp] theorem updTask_free (s : State) (t : Nat) (f : Task → Task) : (s.updTask t f).free = s.free := rfl
@[simp] theorem updTask_mem (s : State) (t : Nat) (f : Task → Task) : (s.updTask t f).mem = s.mem := rfl
@[simp] theorem updTask_memUe (s : State) (t : Nat) (f : Task → Task) : (s.updTask t f).memUe = s.memUe := rfl
@[simp] theorem updTask_poison (s : State) (t : Nat) (f : Task → Task) : (s.updTask t f).poison = s.poison := rfl
@[simp] theorem updTask_times (s : State) (t : Nat) (f : Task → Task) : (s.updTask t f).times = s.times := rfl
@[simp] theorem updTask_isles (s : State) (t : Nat) (f : Task → Task) : (s.updTask t f).isles = s.isles := rfl
@[simp] theorem updTask_dies (s : State) (t : Nat) (f : Task → Task) : (s.updTask t f).dies = s.dies := rfl
@[simp] theorem updTask_flights (s : State) (t : Nat) (f : Task → Task) : (s.updTask t f).flights = s.flights := rfl
@[simp] theorem updTask_pages (s : State) (t : Nat) (f : Task → Task) : (s.updTask t f).pages = s.pages := rfl
@[simp] theorem updTask_jobs (s : State) (t : Nat) (f : Task → Task) : (s.updTask t f).jobs = s.jobs := rfl
@[simp] theorem updTask_kernels (s : State) (t : Nat) (f : Task → Task) : (s.updTask t f).kernels = s.kernels := rfl
@[simp] theorem updTask_lagoons (s : State) (t : Nat) (f : Task → Task) : (s.updTask t f).lagoons = s.lagoons := rfl
@[simp] theorem updTask_ctxs (s : State) (t : Nat) (f : Task → Task) : (s.updTask t f).ctxs = s.ctxs := rfl
@[simp] theorem updTask_tslot (s : State) (t : Nat) (f : Task → Task) : (s.updTask t f).tslot = s.tslot := rfl
@[simp] theorem updTask_tenant (s : State) (t : Nat) (f : Task → Task) : (s.updTask t f).tenant = s.tenant := rfl
@[simp] theorem updTask_keys (s : State) (t : Nat) (f : Task → Task) : (s.updTask t f).keys = s.keys := rfl
@[simp] theorem updTask_circuits (s : State) (t : Nat) (f : Task → Task) : (s.updTask t f).circuits = s.circuits := rfl
@[simp] theorem updTask_mgmt (s : State) (t : Nat) (f : Task → Task) : (s.updTask t f).mgmt = s.mgmt := rfl
@[simp] theorem updTask_hostPts (s : State) (t : Nat) (f : Task → Task) : (s.updTask t f).hostPts = s.hostPts := rfl
@[simp] theorem updTask_schedPts (s : State) (t : Nat) (f : Task → Task) : (s.updTask t f).schedPts = s.schedPts := rfl
@[simp] theorem updTask_secPts (s : State) (t : Nat) (f : Task → Task) : (s.updTask t f).secPts = s.secPts := rfl
@[simp] theorem updTask_rollover (s : State) (t : Nat) (f : Task → Task) : (s.updTask t f).rollover = s.rollover := rfl
@[simp] theorem updTask_served (s : State) (t : Nat) (f : Task → Task) : (s.updTask t f).served = s.served := rfl
@[simp] theorem updTask_buckets (s : State) (t : Nat) (f : Task → Task) : (s.updTask t f).buckets = s.buckets := rfl
@[simp] theorem updTask_orders (s : State) (t : Nat) (f : Task → Task) : (s.updTask t f).orders = s.orders := rfl
@[simp] theorem updTask_micros (s : State) (t : Nat) (f : Task → Task) : (s.updTask t f).micros = s.micros := rfl
@[simp] theorem updTask_opIds (s : State) (t : Nat) (f : Task → Task) : (s.updTask t f).opIds = s.opIds := rfl
@[simp] theorem updTask_opens (s : State) (t : Nat) (f : Task → Task) : (s.updTask t f).opens = s.opens := rfl
@[simp] theorem updTask_cmds (s : State) (t : Nat) (f : Task → Task) : (s.updTask t f).cmds = s.cmds := rfl
@[simp] theorem updTask_slice (s : State) (t : Nat) (f : Task → Task) : (s.updTask t f).slice = s.slice := rfl
@[simp] theorem updTask_stalls (s : State) (t : Nat) (f : Task → Task) : (s.updTask t f).stalls = s.stalls := rfl
@[simp] theorem updTask_stuck (s : State) (t : Nat) (f : Task → Task) : (s.updTask t f).stuck = s.stuck := rfl
@[simp] theorem updTask_hits (s : State) (t : Nat) (f : Task → Task) : (s.updTask t f).hits = s.hits := rfl
@[simp] theorem updTask_held (s : State) (t : Nat) (f : Task → Task) : (s.updTask t f).held = s.held := rfl

/-! ### updOp -/

@[simp] theorem updOp_active (s : State) (t c : Nat) (f : Op → Op) : (s.updOp t c f).active = s.active := rfl
@[simp] theorem updOp_agenda (s : State) (t c : Nat) (f : Op → Op) : (s.updOp t c f).agenda = s.agenda := rfl
@[simp] theorem updOp_free (s : State) (t c : Nat) (f : Op → Op) : (s.updOp t c f).free = s.free := rfl
@[simp] theorem updOp_mem (s : State) (t c : Nat) (f : Op → Op) : (s.updOp t c f).mem = s.mem := rfl
@[simp] theorem updOp_memUe (s : State) (t c : Nat) (f : Op → Op) : (s.updOp t c f).memUe = s.memUe := rfl
@[simp] theorem updOp_poison (s : State) (t c : Nat) (f : Op → Op) : (s.updOp t c f).poison = s.poison := rfl
@[simp] theorem updOp_times (s : State) (t c : Nat) (f : Op → Op) : (s.updOp t c f).times = s.times := rfl
@[simp] theorem updOp_isles (s : State) (t c : Nat) (f : Op → Op) : (s.updOp t c f).isles = s.isles := rfl
@[simp] theorem updOp_dies (s : State) (t c : Nat) (f : Op → Op) : (s.updOp t c f).dies = s.dies := rfl
@[simp] theorem updOp_flights (s : State) (t c : Nat) (f : Op → Op) : (s.updOp t c f).flights = s.flights := rfl
@[simp] theorem updOp_pages (s : State) (t c : Nat) (f : Op → Op) : (s.updOp t c f).pages = s.pages := rfl
@[simp] theorem updOp_jobs (s : State) (t c : Nat) (f : Op → Op) : (s.updOp t c f).jobs = s.jobs := rfl
@[simp] theorem updOp_kernels (s : State) (t c : Nat) (f : Op → Op) : (s.updOp t c f).kernels = s.kernels := rfl
@[simp] theorem updOp_lagoons (s : State) (t c : Nat) (f : Op → Op) : (s.updOp t c f).lagoons = s.lagoons := rfl
@[simp] theorem updOp_ctxs (s : State) (t c : Nat) (f : Op → Op) : (s.updOp t c f).ctxs = s.ctxs := rfl
@[simp] theorem updOp_tslot (s : State) (t c : Nat) (f : Op → Op) : (s.updOp t c f).tslot = s.tslot := rfl
@[simp] theorem updOp_tenant (s : State) (t c : Nat) (f : Op → Op) : (s.updOp t c f).tenant = s.tenant := rfl
@[simp] theorem updOp_keys (s : State) (t c : Nat) (f : Op → Op) : (s.updOp t c f).keys = s.keys := rfl
@[simp] theorem updOp_circuits (s : State) (t c : Nat) (f : Op → Op) : (s.updOp t c f).circuits = s.circuits := rfl
@[simp] theorem updOp_mgmt (s : State) (t c : Nat) (f : Op → Op) : (s.updOp t c f).mgmt = s.mgmt := rfl
@[simp] theorem updOp_hostPts (s : State) (t c : Nat) (f : Op → Op) : (s.updOp t c f).hostPts = s.hostPts := rfl
@[simp] theorem updOp_schedPts (s : State) (t c : Nat) (f : Op → Op) : (s.updOp t c f).schedPts = s.schedPts := rfl
@[simp] theorem updOp_secPts (s : State) (t c : Nat) (f : Op → Op) : (s.updOp t c f).secPts = s.secPts := rfl
@[simp] theorem updOp_rollover (s : State) (t c : Nat) (f : Op → Op) : (s.updOp t c f).rollover = s.rollover := rfl
@[simp] theorem updOp_served (s : State) (t c : Nat) (f : Op → Op) : (s.updOp t c f).served = s.served := rfl
@[simp] theorem updOp_buckets (s : State) (t c : Nat) (f : Op → Op) : (s.updOp t c f).buckets = s.buckets := rfl
@[simp] theorem updOp_orders (s : State) (t c : Nat) (f : Op → Op) : (s.updOp t c f).orders = s.orders := rfl
@[simp] theorem updOp_micros (s : State) (t c : Nat) (f : Op → Op) : (s.updOp t c f).micros = s.micros := rfl
@[simp] theorem updOp_opIds (s : State) (t c : Nat) (f : Op → Op) : (s.updOp t c f).opIds = s.opIds := rfl
@[simp] theorem updOp_opens (s : State) (t c : Nat) (f : Op → Op) : (s.updOp t c f).opens = s.opens := rfl
@[simp] theorem updOp_cmds (s : State) (t c : Nat) (f : Op → Op) : (s.updOp t c f).cmds = s.cmds := rfl
@[simp] theorem updOp_slice (s : State) (t c : Nat) (f : Op → Op) : (s.updOp t c f).slice = s.slice := rfl
@[simp] theorem updOp_stalls (s : State) (t c : Nat) (f : Op → Op) : (s.updOp t c f).stalls = s.stalls := rfl
@[simp] theorem updOp_stuck (s : State) (t c : Nat) (f : Op → Op) : (s.updOp t c f).stuck = s.stuck := rfl
@[simp] theorem updOp_hits (s : State) (t c : Nat) (f : Op → Op) : (s.updOp t c f).hits = s.hits := rfl
@[simp] theorem updOp_held (s : State) (t c : Nat) (f : Op → Op) : (s.updOp t c f).held = s.held := rfl

/-! ### updDie -/

@[simp] theorem updDie_active (s : State) (d : Nat) (f : Die → Die) : (s.updDie d f).active = s.active := rfl
@[simp] theorem updDie_agenda (s : State) (d : Nat) (f : Die → Die) : (s.updDie d f).agenda = s.agenda := rfl
@[simp] theorem updDie_free (s : State) (d : Nat) (f : Die → Die) : (s.updDie d f).free = s.free := rfl
@[simp] theorem updDie_mem (s : State) (d : Nat) (f : Die → Die) : (s.updDie d f).mem = s.mem := rfl
@[simp] theorem updDie_memUe (s : State) (d : Nat) (f : Die → Die) : (s.updDie d f).memUe = s.memUe := rfl
@[simp] theorem updDie_poison (s : State) (d : Nat) (f : Die → Die) : (s.updDie d f).poison = s.poison := rfl
@[simp] theorem updDie_times (s : State) (d : Nat) (f : Die → Die) : (s.updDie d f).times = s.times := rfl
@[simp] theorem updDie_isles (s : State) (d : Nat) (f : Die → Die) : (s.updDie d f).isles = s.isles := rfl
@[simp] theorem updDie_tiles (s : State) (d : Nat) (f : Die → Die) : (s.updDie d f).tiles = s.tiles := rfl
@[simp] theorem updDie_flights (s : State) (d : Nat) (f : Die → Die) : (s.updDie d f).flights = s.flights := rfl
@[simp] theorem updDie_pages (s : State) (d : Nat) (f : Die → Die) : (s.updDie d f).pages = s.pages := rfl
@[simp] theorem updDie_jobs (s : State) (d : Nat) (f : Die → Die) : (s.updDie d f).jobs = s.jobs := rfl
@[simp] theorem updDie_kernels (s : State) (d : Nat) (f : Die → Die) : (s.updDie d f).kernels = s.kernels := rfl
@[simp] theorem updDie_lagoons (s : State) (d : Nat) (f : Die → Die) : (s.updDie d f).lagoons = s.lagoons := rfl
@[simp] theorem updDie_ctxs (s : State) (d : Nat) (f : Die → Die) : (s.updDie d f).ctxs = s.ctxs := rfl
@[simp] theorem updDie_tslot (s : State) (d : Nat) (f : Die → Die) : (s.updDie d f).tslot = s.tslot := rfl
@[simp] theorem updDie_tenant (s : State) (d : Nat) (f : Die → Die) : (s.updDie d f).tenant = s.tenant := rfl
@[simp] theorem updDie_keys (s : State) (d : Nat) (f : Die → Die) : (s.updDie d f).keys = s.keys := rfl
@[simp] theorem updDie_circuits (s : State) (d : Nat) (f : Die → Die) : (s.updDie d f).circuits = s.circuits := rfl
@[simp] theorem updDie_mgmt (s : State) (d : Nat) (f : Die → Die) : (s.updDie d f).mgmt = s.mgmt := rfl
@[simp] theorem updDie_hostPts (s : State) (d : Nat) (f : Die → Die) : (s.updDie d f).hostPts = s.hostPts := rfl
@[simp] theorem updDie_schedPts (s : State) (d : Nat) (f : Die → Die) : (s.updDie d f).schedPts = s.schedPts := rfl
@[simp] theorem updDie_secPts (s : State) (d : Nat) (f : Die → Die) : (s.updDie d f).secPts = s.secPts := rfl
@[simp] theorem updDie_rollover (s : State) (d : Nat) (f : Die → Die) : (s.updDie d f).rollover = s.rollover := rfl
@[simp] theorem updDie_served (s : State) (d : Nat) (f : Die → Die) : (s.updDie d f).served = s.served := rfl
@[simp] theorem updDie_buckets (s : State) (d : Nat) (f : Die → Die) : (s.updDie d f).buckets = s.buckets := rfl
@[simp] theorem updDie_orders (s : State) (d : Nat) (f : Die → Die) : (s.updDie d f).orders = s.orders := rfl
@[simp] theorem updDie_micros (s : State) (d : Nat) (f : Die → Die) : (s.updDie d f).micros = s.micros := rfl
@[simp] theorem updDie_opIds (s : State) (d : Nat) (f : Die → Die) : (s.updDie d f).opIds = s.opIds := rfl
@[simp] theorem updDie_opens (s : State) (d : Nat) (f : Die → Die) : (s.updDie d f).opens = s.opens := rfl
@[simp] theorem updDie_cmds (s : State) (d : Nat) (f : Die → Die) : (s.updDie d f).cmds = s.cmds := rfl
@[simp] theorem updDie_slice (s : State) (d : Nat) (f : Die → Die) : (s.updDie d f).slice = s.slice := rfl
@[simp] theorem updDie_stalls (s : State) (d : Nat) (f : Die → Die) : (s.updDie d f).stalls = s.stalls := rfl
@[simp] theorem updDie_stuck (s : State) (d : Nat) (f : Die → Die) : (s.updDie d f).stuck = s.stuck := rfl
@[simp] theorem updDie_hits (s : State) (d : Nat) (f : Die → Die) : (s.updDie d f).hits = s.hits := rfl
@[simp] theorem updDie_held (s : State) (d : Nat) (f : Die → Die) : (s.updDie d f).held = s.held := rfl

/-! ### The part that an update changes -/

@[simp] theorem isle_setIsle_self (s : State) (k : Nat) (v : Isle) : (s.setIsle k v).isle k = v := by
  simp [State.isle, State.setIsle]

theorem isle_setIsle_ne (s : State) (k j : Nat) (v : Isle) (h : j ≠ k) : (s.setIsle k v).isle j = s.isle j := by
  simp [State.isle, State.setIsle, tbl_get_put_ne _ _ _ _ _ h]

@[simp] theorem isle_updIsle_self (s : State) (k : Nat) (f : Isle → Isle) : (s.updIsle k f).isle k = f (s.isle k) := by
  simp [State.updIsle]

theorem isle_updIsle_ne (s : State) (k j : Nat) (f : Isle → Isle) (h : j ≠ k) : (s.updIsle k f).isle j = s.isle j :=
  isle_setIsle_ne s k j _ h

@[simp] theorem core_setCore_self (s : State) (k : Nat) (v : Core) : (s.setCore k v).core k = v := by
  simp [State.core, State.setCore]

theorem core_setCore_ne (s : State) (k j : Nat) (v : Core) (h : j ≠ k) : (s.setCore k v).core j = s.core j := by
  simp [State.core, State.setCore, isle_setIsle_ne _ _ _ _ h]

@[simp] theorem core_updCore_self (s : State) (k : Nat) (f : Core → Core) : (s.updCore k f).core k = f (s.core k) := by
  simp [State.updCore]

theorem core_updCore_ne (s : State) (k j : Nat) (f : Core → Core) (h : j ≠ k) : (s.updCore k f).core j = s.core j :=
  core_setCore_ne s k j _ h

@[simp] theorem tile_setTile_self (s : State) (t : Nat) (v : Tile) : (s.setTile t v).tile t = v := by
  simp [State.tile, State.setTile]

theorem tile_setTile_ne (s : State) (t u : Nat) (v : Tile) (h : u ≠ t) : (s.setTile t v).tile u = s.tile u := by
  simp [State.tile, State.setTile, tbl_get_put_ne _ _ _ _ _ h]

@[simp] theorem tile_updTile_self (s : State) (t : Nat) (f : Tile → Tile) : (s.updTile t f).tile t = f (s.tile t) := by
  simp [State.updTile]

@[simp] theorem cell_setCell_self (s : State) (t : Nat) (v : Cell) : (s.setCell t v).cell t = v := by
  simp [State.cell, State.setCell]

theorem cell_setCell_ne (s : State) (t u : Nat) (v : Cell) (h : u ≠ t) : (s.setCell t v).cell u = s.cell u := by
  simp [State.cell, State.setCell, tile_setTile_ne _ _ _ _ h]

@[simp] theorem die_updDie_self (s : State) (d : Nat) (f : Die → Die) : (s.updDie d f).die d = f (s.die d) := by
  simp [State.die, State.updDie]

theorem die_updDie_ne (s : State) (d e : Nat) (f : Die → Die) (h : e ≠ d) : (s.updDie d f).die e = s.die e := by
  simp [State.die, State.updDie, tbl_get_put_ne _ _ _ _ _ h]

@[simp] theorem isle_setTile (s : State) (t k : Nat) (v : Tile) : (s.setTile t v).isle k = s.isle k := rfl
@[simp] theorem core_setTile (s : State) (t k : Nat) (v : Tile) : (s.setTile t v).core k = s.core k := rfl
@[simp] theorem core_setCell (s : State) (t k : Nat) (v : Cell) : (s.setCell t v).core k = s.core k := rfl
@[simp] theorem isle_updDie (s : State) (d k : Nat) (f : Die → Die) : (s.updDie d f).isle k = s.isle k := rfl
@[simp] theorem core_updDie (s : State) (d k : Nat) (f : Die → Die) : (s.updDie d f).core k = s.core k := rfl
@[simp] theorem tile_setIsle (s : State) (k t : Nat) (v : Isle) : (s.setIsle k v).tile t = s.tile t := rfl
@[simp] theorem tile_updIsle (s : State) (k t : Nat) (f : Isle → Isle) : (s.updIsle k f).tile t = s.tile t := rfl
@[simp] theorem tile_updCore (s : State) (k t : Nat) (f : Core → Core) : (s.updCore k f).tile t = s.tile t := rfl
@[simp] theorem cell_updCore (s : State) (k t : Nat) (f : Core → Core) : (s.updCore k f).cell t = s.cell t := rfl
@[simp] theorem die_updCore (s : State) (k d : Nat) (f : Core → Core) : (s.updCore k f).die d = s.die d := rfl
@[simp] theorem die_updIsle (s : State) (k d : Nat) (f : Isle → Isle) : (s.updIsle k f).die d = s.die d := rfl
@[simp] theorem tile_updDie (s : State) (d t : Nat) (f : Die → Die) : (s.updDie d f).tile t = s.tile t := rfl

/-! ### A core update leaves the rest of the isle -/

@[simp] theorem updCore_isle_ctx (s : State) (k j : Nat) (f : Core → Core) : ((s.updCore k f).isle j).ctx = (s.isle j).ctx := by
  by_cases h : j = k
  · subst h; simp [State.updCore, State.setCore]
  · rw [State.updCore, State.setCore, isle_setIsle_ne _ _ _ _ h]
@[simp] theorem updCore_isle_tenant (s : State) (k j : Nat) (f : Core → Core) : ((s.updCore k f).isle j).tenant = (s.isle j).tenant := by
  by_cases h : j = k
  · subst h; simp [State.updCore, State.setCore]
  · rw [State.updCore, State.setCore, isle_setIsle_ne _ _ _ _ h]
@[simp] theorem updCore_isle_ctb (s : State) (k j : Nat) (f : Core → Core) : ((s.updCore k f).isle j).ctb = (s.isle j).ctb := by
  by_cases h : j = k
  · subst h; simp [State.updCore, State.setCore]
  · rw [State.updCore, State.setCore, isle_setIsle_ne _ _ _ _ h]
@[simp] theorem updCore_isle_cerr (s : State) (k j : Nat) (f : Core → Core) : ((s.updCore k f).isle j).cerr = (s.isle j).cerr := by
  by_cases h : j = k
  · subst h; simp [State.updCore, State.setCore]
  · rw [State.updCore, State.setCore, isle_setIsle_ne _ _ _ _ h]
@[simp] theorem updCore_isle_tagTime (s : State) (k j : Nat) (f : Core → Core) : ((s.updCore k f).isle j).tagTime = (s.isle j).tagTime := by
  by_cases h : j = k
  · subst h; simp [State.updCore, State.setCore]
  · rw [State.updCore, State.setCore, isle_setIsle_ne _ _ _ _ h]
@[simp] theorem updCore_isle_banks (s : State) (k j : Nat) (f : Core → Core) : ((s.updCore k f).isle j).banks = (s.isle j).banks := by
  by_cases h : j = k
  · subst h; simp [State.updCore, State.setCore]
  · rw [State.updCore, State.setCore, isle_setIsle_ne _ _ _ _ h]
@[simp] theorem updCore_isle_spm (s : State) (k j : Nat) (f : Core → Core) : ((s.updCore k f).isle j).spm = (s.isle j).spm := by
  by_cases h : j = k
  · subst h; simp [State.updCore, State.setCore]
  · rw [State.updCore, State.setCore, isle_setIsle_ne _ _ _ _ h]
@[simp] theorem updCore_isle_spmUe (s : State) (k j : Nat) (f : Core → Core) : ((s.updCore k f).isle j).spmUe = (s.isle j).spmUe := by
  by_cases h : j = k
  · subst h; simp [State.updCore, State.setCore]
  · rw [State.updCore, State.setCore, isle_setIsle_ne _ _ _ _ h]
@[simp] theorem updCore_isle_dir (s : State) (k j : Nat) (f : Core → Core) : ((s.updCore k f).isle j).dir = (s.isle j).dir := by
  by_cases h : j = k
  · subst h; simp [State.updCore, State.setCore]
  · rw [State.updCore, State.setCore, isle_setIsle_ne _ _ _ _ h]
@[simp] theorem updCore_isle_frames (s : State) (k j : Nat) (f : Core → Core) : ((s.updCore k f).isle j).frames = (s.isle j).frames := by
  by_cases h : j = k
  · subst h; simp [State.updCore, State.setCore]
  · rw [State.updCore, State.setCore, isle_setIsle_ne _ _ _ _ h]
@[simp] theorem updCore_isle_freeList (s : State) (k j : Nat) (f : Core → Core) : ((s.updCore k f).isle j).freeList = (s.isle j).freeList := by
  by_cases h : j = k
  · subst h; simp [State.updCore, State.setCore]
  · rw [State.updCore, State.setCore, isle_setIsle_ne _ _ _ _ h]
@[simp] theorem updCore_isle_scales (s : State) (k j : Nat) (f : Core → Core) : ((s.updCore k f).isle j).scales = (s.isle j).scales := by
  by_cases h : j = k
  · subst h; simp [State.updCore, State.setCore]
  · rw [State.updCore, State.setCore, isle_setIsle_ne _ _ _ _ h]
@[simp] theorem updCore_isle_scaleMap (s : State) (k j : Nat) (f : Core → Core) : ((s.updCore k f).isle j).scaleMap = (s.isle j).scaleMap := by
  by_cases h : j = k
  · subst h; simp [State.updCore, State.setCore]
  · rw [State.updCore, State.setCore, isle_setIsle_ne _ _ _ _ h]
@[simp] theorem updCore_isle_l2 (s : State) (k j : Nat) (f : Core → Core) : ((s.updCore k f).isle j).l2 = (s.isle j).l2 := by
  by_cases h : j = k
  · subst h; simp [State.updCore, State.setCore]
  · rw [State.updCore, State.setCore, isle_setIsle_ne _ _ _ _ h]
@[simp] theorem updCore_isle_tlb (s : State) (k j : Nat) (f : Core → Core) : ((s.updCore k f).isle j).tlb = (s.isle j).tlb := by
  by_cases h : j = k
  · subst h; simp [State.updCore, State.setCore]
  · rw [State.updCore, State.setCore, isle_setIsle_ne _ _ _ _ h]
@[simp] theorem updCore_isle_engPts (s : State) (k j : Nat) (f : Core → Core) : ((s.updCore k f).isle j).engPts = (s.isle j).engPts := by
  by_cases h : j = k
  · subst h; simp [State.updCore, State.setCore]
  · rw [State.updCore, State.setCore, isle_setIsle_ne _ _ _ _ h]
@[simp] theorem updCore_isle_ops (s : State) (k j : Nat) (f : Core → Core) : ((s.updCore k f).isle j).ops = (s.isle j).ops := by
  by_cases h : j = k
  · subst h; simp [State.updCore, State.setCore]
  · rw [State.updCore, State.setCore, isle_setIsle_ne _ _ _ _ h]
@[simp] theorem updCore_isle_templates (s : State) (k j : Nat) (f : Core → Core) : ((s.updCore k f).isle j).templates = (s.isle j).templates := by
  by_cases h : j = k
  · subst h; simp [State.updCore, State.setCore]
  · rw [State.updCore, State.setCore, isle_setIsle_ne _ _ _ _ h]
@[simp] theorem updCore_isle_sigs (s : State) (k j : Nat) (f : Core → Core) : ((s.updCore k f).isle j).sigs = (s.isle j).sigs := by
  by_cases h : j = k
  · subst h; simp [State.updCore, State.setCore]
  · rw [State.updCore, State.setCore, isle_setIsle_ne _ _ _ _ h]
@[simp] theorem updCore_isle_prefetches (s : State) (k j : Nat) (f : Core → Core) : ((s.updCore k f).isle j).prefetches = (s.isle j).prefetches := by
  by_cases h : j = k
  · subst h; simp [State.updCore, State.setCore]
  · rw [State.updCore, State.setCore, isle_setIsle_ne _ _ _ _ h]
@[simp] theorem updCore_isle_wakes (s : State) (k j : Nat) (f : Core → Core) : ((s.updCore k f).isle j).wakes = (s.isle j).wakes := by
  by_cases h : j = k
  · subst h; simp [State.updCore, State.setCore]
  · rw [State.updCore, State.setCore, isle_setIsle_ne _ _ _ _ h]
@[simp] theorem updCore_isle_ports (s : State) (k j : Nat) (f : Core → Core) : ((s.updCore k f).isle j).ports = (s.isle j).ports := by
  by_cases h : j = k
  · subst h; simp [State.updCore, State.setCore]
  · rw [State.updCore, State.setCore, isle_setIsle_ne _ _ _ _ h]
@[simp] theorem updCore_isle_hwq (s : State) (k j : Nat) (f : Core → Core) : ((s.updCore k f).isle j).hwq = (s.isle j).hwq := by
  by_cases h : j = k
  · subst h; simp [State.updCore, State.setCore]
  · rw [State.updCore, State.setCore, isle_setIsle_ne _ _ _ _ h]
@[simp] theorem updCore_isle_ring (s : State) (k j : Nat) (f : Core → Core) : ((s.updCore k f).isle j).ring = (s.isle j).ring := by
  by_cases h : j = k
  · subst h; simp [State.updCore, State.setCore]
  · rw [State.updCore, State.setCore, isle_setIsle_ne _ _ _ _ h]
@[simp] theorem updCore_isle_trHead (s : State) (k j : Nat) (f : Core → Core) : ((s.updCore k f).isle j).trHead = (s.isle j).trHead := by
  by_cases h : j = k
  · subst h; simp [State.updCore, State.setCore]
  · rw [State.updCore, State.setCore, isle_setIsle_ne _ _ _ _ h]
@[simp] theorem updCore_isle_trTail (s : State) (k j : Nat) (f : Core → Core) : ((s.updCore k f).isle j).trTail = (s.isle j).trTail := by
  by_cases h : j = k
  · subst h; simp [State.updCore, State.setCore]
  · rw [State.updCore, State.setCore, isle_setIsle_ne _ _ _ _ h]
@[simp] theorem updCore_isle_trAct (s : State) (k j : Nat) (f : Core → Core) : ((s.updCore k f).isle j).trAct = (s.isle j).trAct := by
  by_cases h : j = k
  · subst h; simp [State.updCore, State.setCore]
  · rw [State.updCore, State.setCore, isle_setIsle_ne _ _ _ _ h]
@[simp] theorem updCore_isle_tsw (s : State) (k j : Nat) (f : Core → Core) : ((s.updCore k f).isle j).tsw = (s.isle j).tsw := by
  by_cases h : j = k
  · subst h; simp [State.updCore, State.setCore]
  · rw [State.updCore, State.setCore, isle_setIsle_ne _ _ _ _ h]
@[simp] theorem updCore_isle_tswAt (s : State) (k j : Nat) (f : Core → Core) : ((s.updCore k f).isle j).tswAt = (s.isle j).tswAt := by
  by_cases h : j = k
  · subst h; simp [State.updCore, State.setCore]
  · rw [State.updCore, State.setCore, isle_setIsle_ne _ _ _ _ h]
@[simp] theorem updCore_isle_loads (s : State) (k j : Nat) (f : Core → Core) : ((s.updCore k f).isle j).loads = (s.isle j).loads := by
  by_cases h : j = k
  · subst h; simp [State.updCore, State.setCore]
  · rw [State.updCore, State.setCore, isle_setIsle_ne _ _ _ _ h]
@[simp] theorem updCore_isle_saved (s : State) (k j : Nat) (f : Core → Core) : ((s.updCore k f).isle j).saved = (s.isle j).saved := by
  by_cases h : j = k
  · subst h; simp [State.updCore, State.setCore]
  · rw [State.updCore, State.setCore, isle_setIsle_ne _ _ _ _ h]
@[simp] theorem updCore_isle_fenced (s : State) (k j : Nat) (f : Core → Core) : ((s.updCore k f).isle j).fenced = (s.isle j).fenced := by
  by_cases h : j = k
  · subst h; simp [State.updCore, State.setCore]
  · rw [State.updCore, State.setCore, isle_setIsle_ne _ _ _ _ h]
@[simp] theorem updCore_isle_waitRecs (s : State) (k j : Nat) (f : Core → Core) : ((s.updCore k f).isle j).waitRecs = (s.isle j).waitRecs := by
  by_cases h : j = k
  · subst h; simp [State.updCore, State.setCore]
  · rw [State.updCore, State.setCore, isle_setIsle_ne _ _ _ _ h]

/-! ### A g register write (R82) -/

@[simp] theorem setG_pc (c : Core) (r : BitVec 5) (v : Word64) : (c.setG r v).pc = c.pc := by
  unfold Core.setG; split <;> rfl
@[simp] theorem setG_pfx (c : Core) (r : BitVec 5) (v : Word64) : (c.setG r v).pfx = c.pfx := by
  unfold Core.setG; split <;> rfl
@[simp] theorem setG_status (c : Core) (r : BitVec 5) (v : Word64) : (c.setG r v).status = c.status := by
  unfold Core.setG; split <;> rfl
@[simp] theorem setG_epc (c : Core) (r : BitVec 5) (v : Word64) : (c.setG r v).epc = c.epc := by
  unfold Core.setG; split <;> rfl
@[simp] theorem setG_cause (c : Core) (r : BitVec 5) (v : Word64) : (c.setG r v).cause = c.cause := by
  unfold Core.setG; split <;> rfl
@[simp] theorem setG_tval (c : Core) (r : BitVec 5) (v : Word64) : (c.setG r v).tval = c.tval := by
  unfold Core.setG; split <;> rfl
@[simp] theorem setG_tvec (c : Core) (r : BitVec 5) (v : Word64) : (c.setG r v).tvec = c.tvec := by
  unfold Core.setG; split <;> rfl
@[simp] theorem setG_ptroot (c : Core) (r : BitVec 5) (v : Word64) : (c.setG r v).ptroot = c.ptroot := by
  unfold Core.setG; split <;> rfl
@[simp] theorem setG_lease (c : Core) (r : BitVec 5) (v : Word64) : (c.setG r v).lease = c.lease := by
  unfold Core.setG; split <;> rfl
@[simp] theorem setG_capbase (c : Core) (r : BitVec 5) (v : Word64) : (c.setG r v).capbase = c.capbase := by
  unfold Core.setG; split <;> rfl
@[simp] theorem setG_mepc (c : Core) (r : BitVec 5) (v : Word64) : (c.setG r v).mepc = c.mepc := by
  unfold Core.setG; split <;> rfl
@[simp] theorem setG_mcause (c : Core) (r : BitVec 5) (v : Word64) : (c.setG r v).mcause = c.mcause := by
  unfold Core.setG; split <;> rfl
@[simp] theorem setG_mtval (c : Core) (r : BitVec 5) (v : Word64) : (c.setG r v).mtval = c.mtval := by
  unfold Core.setG; split <;> rfl
@[simp] theorem setG_mtvec (c : Core) (r : BitVec 5) (v : Word64) : (c.setG r v).mtvec = c.mtvec := by
  unfold Core.setG; split <;> rfl
@[simp] theorem setG_fcsr (c : Core) (r : BitVec 5) (v : Word64) : (c.setG r v).fcsr = c.fcsr := by
  unfold Core.setG; split <;> rfl
@[simp] theorem setG_lbeg0 (c : Core) (r : BitVec 5) (v : Word64) : (c.setG r v).lbeg0 = c.lbeg0 := by
  unfold Core.setG; split <;> rfl
@[simp] theorem setG_lend0 (c : Core) (r : BitVec 5) (v : Word64) : (c.setG r v).lend0 = c.lend0 := by
  unfold Core.setG; split <;> rfl
@[simp] theorem setG_lbeg1 (c : Core) (r : BitVec 5) (v : Word64) : (c.setG r v).lbeg1 = c.lbeg1 := by
  unfold Core.setG; split <;> rfl
@[simp] theorem setG_lend1 (c : Core) (r : BitVec 5) (v : Word64) : (c.setG r v).lend1 = c.lend1 := by
  unfold Core.setG; split <;> rfl
@[simp] theorem setG_event (c : Core) (r : BitVec 5) (v : Word64) : (c.setG r v).event = c.event := by
  unfold Core.setG; split <;> rfl
@[simp] theorem setG_eventPts (c : Core) (r : BitVec 5) (v : Word64) : (c.setG r v).eventPts = c.eventPts := by
  unfold Core.setG; split <;> rfl
@[simp] theorem setG_halted (c : Core) (r : BitVec 5) (v : Word64) : (c.setG r v).halted = c.halted := by
  unfold Core.setG; split <;> rfl
@[simp] theorem setG_stopped (c : Core) (r : BitVec 5) (v : Word64) : (c.setG r v).stopped = c.stopped := by
  unfold Core.setG; split <;> rfl
@[simp] theorem setG_waiting (c : Core) (r : BitVec 5) (v : Word64) : (c.setG r v).waiting = c.waiting := by
  unfold Core.setG; split <;> rfl
@[simp] theorem setG_atVector (c : Core) (r : BitVec 5) (v : Word64) : (c.setG r v).atVector = c.atVector := by
  unfold Core.setG; split <;> rfl
@[simp] theorem setG_unfenced (c : Core) (r : BitVec 5) (v : Word64) : (c.setG r v).unfenced = c.unfenced := by
  unfold Core.setG; split <;> rfl
@[simp] theorem setG_pts (c : Core) (r : BitVec 5) (v : Word64) : (c.setG r v).pts = c.pts := by
  unfold Core.setG; split <;> rfl
@[simp] theorem setG_killed (c : Core) (r : BitVec 5) (v : Word64) : (c.setG r v).killed = c.killed := by
  unfold Core.setG; split <;> rfl
@[simp] theorem setG_check (c : Core) (r : BitVec 5) (v : Word64) : (c.setG r v).check = c.check := by
  unfold Core.setG; split <;> rfl
@[simp] theorem setG_preempts (c : Core) (r : BitVec 5) (v : Word64) : (c.setG r v).preempts = c.preempts := by
  unfold Core.setG; split <;> rfl
@[simp] theorem setG_overflow (c : Core) (r : BitVec 5) (v : Word64) : (c.setG r v).overflow = c.overflow := by
  unfold Core.setG; split <;> rfl

end Sys2Proof.Laws
end

