-- ==== Sys2Proof/Laws/Memory.lean ====
section
/-! SUPPORT. The laws of memory: every memory operation keeps the canonical form, a write is read back, and every other
byte reads as before. -/

namespace Sys2Proof.Laws

open Sys2Proof.Machine

/-! ### Keys that rise -/

/-- The boolean form of rising keys says that any two entries are in order. -/
theorem rising_iff (m : Tbl Byte) : Memory.rising m = true ↔ m.Pairwise (fun a b => a.1 < b.1) := by
  induction m with
  | nil => simp [Memory.rising]
  | cons e r ih =>
    obtain ⟨a, x⟩ := e
    cases r with
    | nil => simp [Memory.rising]
    | cons f r =>
      obtain ⟨b, y⟩ := f
      simp only [Memory.rising, Bool.and_eq_true, decide_eq_true_eq, ih, List.pairwise_cons, List.mem_cons]
      constructor
      · rintro ⟨h, h1, h2⟩
        refine ⟨?_, h1, h2⟩
        rintro e (rfl | he)
        · exact h
        · exact Nat.lt_trans h (h1 e he)
      · rintro ⟨h, h1, h2⟩
        exact ⟨h (b, y) (Or.inl rfl), h1, h2⟩

/-- An entry of a table after `put` is the new one or an old one. -/
theorem mem_put {m : Tbl Byte} {k : Nat} {v : Byte} {e : Nat × Byte} (h : e ∈ m.put k v) : e = (k, v) ∨ e ∈ m := by
  induction m with
  | nil => simpa [Tbl.put] using h
  | cons f r ih =>
    obtain ⟨a, x⟩ := f
    simp only [Tbl.put] at h
    split at h
    · simpa using h
    · split at h
      · rcases List.mem_cons.1 h with h | h
        · exact .inl h
        · exact .inr (List.mem_cons_of_mem _ h)
      · rcases List.mem_cons.1 h with h | h
        · exact .inr (h ▸ List.mem_cons_self)
        · rcases ih h with h | h
          · exact .inl h
          · exact .inr (List.mem_cons_of_mem _ h)

/-- Setting an entry keeps the keys rising. -/
theorem rising_put {m : Tbl Byte} (k : Nat) (v : Byte) (h : Memory.rising m = true) : Memory.rising (m.put k v) = true := by
  rw [rising_iff] at h ⊢
  induction m with
  | nil => simp [Tbl.put]
  | cons f r ih =>
    obtain ⟨a, x⟩ := f
    obtain ⟨h1, h2⟩ := List.pairwise_cons.1 h
    simp only [Tbl.put]
    split
    · rename_i hk
      refine List.pairwise_cons.2 ⟨?_, h⟩
      intro e he
      rcases List.mem_cons.1 he with rfl | he
      · exact hk
      · exact Nat.lt_trans hk (h1 e he)
    · split
      · rename_i hk
        subst hk
        exact List.pairwise_cons.2 ⟨h1, h2⟩
      · rename_i hk hk'
        refine List.pairwise_cons.2 ⟨?_, ih h2⟩
        intro e he
        rcases mem_put he with rfl | he
        · exact Nat.lt_of_le_of_ne (Nat.le_of_not_lt hk) (Ne.symm hk')
        · exact h1 e he

/-- Removing an entry keeps the keys rising. -/
theorem rising_erase {m : Tbl Byte} (k : Nat) (h : Memory.rising m = true) : Memory.rising (m.erase k) = true := by
  rw [rising_iff] at h ⊢
  exact List.Pairwise.filter _ h

/-! ### The canonical form -/

/-- Memory with nothing listed is canonical. -/
@[simp] theorem wf_nil : Memory.wf [] = true := rfl

/-- A write of one byte keeps the canonical form. -/
theorem wf_write {m : Tbl Byte} (a : Nat) (b : Byte) (h : Memory.wf m = true) : Memory.wf (Memory.write m a b) = true := by
  simp only [Memory.wf, Bool.and_eq_true, List.all_eq_true] at h ⊢
  obtain ⟨h1, h2⟩ := h
  unfold Memory.write
  split
  · exact ⟨rising_erase a h1, fun e he => h2 e (List.mem_filter.1 he).1⟩
  · rename_i hb
    refine ⟨rising_put a b h1, fun e he => ?_⟩
    rcases mem_put he with rfl | he
    · simpa using hb
    · exact h2 e he

/-- A write of bytes keeps the canonical form. -/
theorem wf_writeN {m : Tbl Byte} (a : Nat) (l : List Byte) (h : Memory.wf m = true) :
    Memory.wf (Memory.writeN m a l) = true := by
  induction l generalizing m a with
  | nil => exact h
  | cons b r ih => exact ih (a + 1) (wf_write a b h)

/-! ### Reads after writes -/

/-- A byte that has been written reads as written. -/
@[simp] theorem read_write_self (m : Tbl Byte) (a : Nat) (b : Byte) : Memory.read (Memory.write m a b) a = b := by
  unfold Memory.read Memory.write
  split
  · rename_i h; simp [h]
  · simp

/-- A write leaves every other byte. -/
theorem read_write_ne (m : Tbl Byte) (a c : Nat) (b : Byte) (h : c ≠ a) :
    Memory.read (Memory.write m a b) c = Memory.read m c := by
  unfold Memory.read Memory.write
  split
  · exact tbl_get_erase_ne _ _ _ _ h
  · exact tbl_get_put_ne _ _ _ _ _ h

/-- A write of bytes leaves every byte outside the range. -/
theorem read_writeN_out (m : Tbl Byte) (a c : Nat) (l : List Byte) (h : c < a ∨ a + l.length ≤ c) :
    Memory.read (Memory.writeN m a l) c = Memory.read m c := by
  induction l generalizing m a with
  | nil => rfl
  | cons b r ih =>
    simp only [List.length_cons] at h
    rw [Memory.writeN, ih _ _ (by omega), read_write_ne _ _ _ _ (by omega)]

/-- A byte of a written range reads as written. -/
theorem read_writeN_in (m : Tbl Byte) (a i : Nat) (l : List Byte) (h : i < l.length) :
    Memory.read (Memory.writeN m a l) (a + i) = l[i] := by
  induction l generalizing m a i with
  | nil => simp at h
  | cons b r ih =>
    cases i with
    | zero =>
      simp only [Memory.writeN, Nat.add_zero, List.getElem_cons_zero]
      rw [read_writeN_out _ _ _ _ (by omega), read_write_self]
    | succ n =>
      simp only [Memory.writeN, List.getElem_cons_succ]
      have := ih (Memory.write m a b) (a + 1) n (by simpa using h)
      rw [show a + (n + 1) = a + 1 + n by omega, this]

/-! ### The operations that reach home memory -/

/-- Marks are no part of memory. -/
@[simp] theorem clearMarks_mem (s : State) (key n : Nat) : (clearMarks s key n).mem = s.mem := by
  unfold clearMarks; split <;> rfl

/-- A write to the home writes its bytes there. -/
@[simp] theorem writeHome_mem (s : State) (key : Nat) (l : List Byte) :
    (writeHome s key l).mem = Memory.writeN s.mem key l := by simp [writeHome]

/-- A write to the home keeps the canonical form. -/
theorem wf_writeHome {s : State} (key : Nat) (l : List Byte) (h : Memory.wf s.mem = true) :
    Memory.wf (writeHome s key l).mem = true := by
  rw [writeHome_mem]; exact wf_writeN key l h

/-- Memory after reset is canonical. -/
theorem wf_reset : Memory.wf State.reset.mem = true := rfl

/-- A fold of updates that each keep the canonical form keeps it. -/
theorem wf_foldl {α : Type} (f : State → α → State) (hf : ∀ s x, Memory.wf s.mem = true → Memory.wf (f s x).mem = true)
    (l : List α) (s : State) (h : Memory.wf s.mem = true) : Memory.wf (l.foldl f s).mem = true := by
  induction l generalizing s with
  | nil => exact h
  | cons x r ih => exact ih _ (hf s x h)

/-- Logical times are no part of memory. -/
@[simp] theorem setPts_mem (s : State) (g : Agent) (p : Nat) : (s.setPts g p).mem = s.mem := by
  cases g <;> simp [State.setPts]

@[simp] theorem mergePts_mem (s : State) (g : Agent) (p : Nat) : (s.mergePts g p).mem = s.mem := by
  unfold State.mergePts; split <;> simp

@[simp] theorem noteTime_mem (s : State) (t : Nat) : (noteTime s t).mem = s.mem := by
  unfold noteTime; split <;> rfl

@[simp] theorem holdTime_mem (s : State) (t : Nat) : (holdTime s t).mem = s.mem := by
  unfold holdTime; split
  · exact noteTime_mem s t
  · rfl

@[simp] theorem holdAccess_mem (s : State) (d h : Nat) : (holdAccess s d h).mem = s.mem := by
  unfold holdAccess; split <;> rfl

@[simp] theorem countHit_mem (s : State) (g : Agent) : (countHit s g).mem = s.mem := rfl

/-- A line that enters an L2 writes no memory (R177). -/
@[simp] theorem fillLine_mem (s : State) (k line : Nat) (v : L2Line) : (fillLine s k line v).mem = s.mem := by
  unfold fillLine
  split
  · rfl
  · split <;> rfl

/-- A write-back keeps the canonical form. -/
theorem wf_writeBack {s : State} (k line : Nat) (h : Memory.wf s.mem = true) :
    Memory.wf (writeBack s k line).mem = true := by
  unfold writeBack
  split
  · exact h
  · split
    · exact h
    · rename_i v _ _
      have : ∀ (l : List Nat) (m : Tbl Byte), Memory.wf m = true → Memory.wf (l.foldl
          (fun m i => if bit v.dirty i then Memory.write m (64 * line + i) (v.data.getD i 0) else m) m) = true := by
        intro l
        induction l with
        | nil => exact fun m hm => hm
        | cons i r ih =>
          intro m hm
          apply ih
          dsimp only
          split
          · exact wf_write _ _ hm
          · exact hm
      simpa using this (List.range 64) s.mem h

theorem wf_writeBackAll {s : State} (k : Nat) (h : Memory.wf s.mem = true) :
    Memory.wf (writeBackAll s k).mem = true :=
  wf_foldl _ (fun _ l => wf_writeBack k l) _ _ h

@[simp] theorem dropCleanLoc_mem (s : State) (k : Nat) : (dropCleanLoc s k).mem = s.mem := rfl

theorem wf_evictLine {s : State} (k line : Nat) (h : Memory.wf s.mem = true) :
    Memory.wf (evictLine s k line).mem = true := by
  unfold evictLine
  split
  · exact h
  · split
    · exact h
    · exact wf_writeBack k line h

/-- A COH load at the home writes no memory (R207). -/
@[simp] theorem cohMiss_mem (s : State) (g : Agent) (key n : Nat) : (cohMiss s g key n).2.mem = s.mem := by
  simp only [cohMiss, setPts_mem, holdTime_mem]
  split <;> simp

/-- A COH load writes no memory (R207). -/
@[simp] theorem cohLoad_mem (s : State) (g : Agent) (key n : Nat) : (cohLoad s g key n).2.mem = s.mem := by
  unfold cohLoad; split <;> simp

/-- A COH store writes its bytes at the home (R208). -/
@[simp] theorem cohStore_mem (s : State) (g : Agent) (key : Nat) (l : List Byte) :
    (cohStore s g key l).mem = Memory.writeN s.mem key l := by
  simp only [cohStore, setPts_mem, holdTime_mem]
  split
  · split
    · split <;> simp
    · simp
  · simp

theorem wf_cohStore {s : State} (g : Agent) (key : Nat) (l : List Byte) (h : Memory.wf s.mem = true) :
    Memory.wf (cohStore s g key l).mem = true := by
  rw [cohStore_mem]; exact wf_writeN key l h

/-- A LOC load writes no memory (R219). -/
@[simp] theorem locLoad_mem (s : State) (k key n : Nat) : (locLoad s k key n).2.mem = s.mem := by
  simp only [locLoad]
  split
  · dsimp only
    split <;> simp
  · rfl

/-- A LOC store keeps the canonical form: its bytes stay in the isle's L2, or go home (R219). -/
theorem wf_locStore {s : State} (k key : Nat) (l : List Byte) (h : Memory.wf s.mem = true) :
    Memory.wf (locStore s k key l).mem = true := by
  simp only [locStore]
  split
  · have h1 : Memory.wf ((dieIsles (isleDie k)).foldl (fun s j =>
        if j = k ∨ ((s.isle j).line (lineOf key)).isNone then s
        else (writeBack s j (lineOf key)).updIsle j (fun i => i.dropLine (lineOf key))) s).mem = true := by
      refine wf_foldl _ (fun s j hs => ?_) _ _ h
      split
      · exact hs
      · simpa using wf_writeBack j (lineOf key) hs
    split
    · simpa using h1
    · exact wf_writeHome key l h1
  · exact wf_writeHome key l h

theorem wf_flushForAtomic {s : State} (k line : Nat) (h : Memory.wf s.mem = true) :
    Memory.wf (flushForAtomic s k line).mem = true := by
  unfold flushForAtomic
  split
  · refine wf_foldl _ (fun s x hs => ?_) _ _ h
    split
    · exact hs
    · exact wf_writeBack x line hs
  · exact h

/-- A read by kind writes no memory. -/
@[simp] theorem loadLoc_mem (s : State) (g : Agent) (l : Loc) (n : Nat) : (loadLoc s g l n).2.mem = s.mem := by
  unfold loadLoc; split <;> simp

/-- A write by kind keeps the canonical form. -/
theorem wf_storeLoc {s : State} (g : Agent) (l : Loc) (b : List Byte) (h : Memory.wf s.mem = true) :
    Memory.wf (storeLoc s g l b).mem = true := by
  unfold storeLoc
  split
  · exact wf_cohStore _ _ _ h
  · exact wf_locStore _ _ _ h
  · exact wf_writeHome _ _ h

/-- A read at the home keeps the canonical form: the dirty copies of a LOC line go home before it (R177). -/
theorem wf_homeLoad {s : State} (g : Agent) (l : Loc) (n : Nat) (h : Memory.wf s.mem = true) :
    Memory.wf (homeLoad s g l n).2.mem = true := by
  unfold homeLoad
  split
  · simpa using h
  · exact wf_flushForAtomic _ _ h
  · exact h

/-- A write at the home keeps the canonical form. -/
theorem wf_homeStore {s : State} (g : Agent) (l : Loc) (b : List Byte) (h : Memory.wf s.mem = true) :
    Memory.wf (homeStore s g l b).mem = true := by
  unfold homeStore
  split
  · exact wf_cohStore _ _ _ h
  · exact wf_writeHome _ _ (wf_flushForAtomic _ _ h)
  · exact wf_writeHome _ _ h

/-- The read of a request that goes through its agent's cache writes no memory. -/
theorem read_mem {rq : Req} (hr : rq.home = false) (s : State) (l : Loc) (n : Nat) : (rq.read s l n).2.mem = s.mem := by
  simp [Req.read, hr]

/-- The read of a request keeps the canonical form. -/
theorem wf_read (rq : Req) {s : State} (l : Loc) (n : Nat) (h : Memory.wf s.mem = true) :
    Memory.wf (rq.read s l n).2.mem = true := by
  unfold Req.read
  split
  · exact wf_homeLoad _ _ _ h
  · simpa using h

/-- The write of a request keeps the canonical form. -/
theorem wf_reqWrite (rq : Req) {s : State} (l : Loc) (b : List Byte) (h : Memory.wf s.mem = true) :
    Memory.wf (rq.write s l b).mem = true := by
  unfold Req.write
  split
  · exact wf_homeStore _ _ _ h
  · exact wf_storeLoc _ _ _ h

/-- Stage 2 writes no memory. -/
theorem stage2_mem {s s' : State} {d t g key : Nat} {a : Access} (h : stage2 s d t g a = .ok (key, s')) :
    s'.mem = s.mem := by
  simp only [stage2, Except.map] at h
  (repeat' split at h) <;> cases h <;> simp

theorem walkRead_mem {s s' : State} {rq : Req} {g e : Nat} (h : walkRead s rq g = .ok (e, s')) : s'.mem = s.mem := by
  simp only [walkRead] at h
  split at h
  · cases h
  · rename_i key s1 h1
    split at h
    · cases h
    · cases h
      simpa using stage2_mem h1

/-- A walk writes no memory. -/
theorem walk_mem (rq : Req) (va fuel : Nat) : ∀ (s s' : State) (level tbl : Nat) (r : Leaf × Nat),
    walk s rq va level fuel tbl = .ok (r, s') → s'.mem = s.mem := by
  induction fuel with
  | zero => intro s s' level tbl r h; simp [walk] at h
  | succ n ih =>
    intro s s' level tbl r h
    simp only [walk] at h
    split at h
    · cases h
    · rename_i e s1 h1
      split at h
      · cases h
      · split at h
        · cases h
        · split at h
          · split at h
            · cases h
            · cases h; exact walkRead_mem h1
          · split at h
            · cases h
            · exact (ih _ _ _ _ _ h).trans (walkRead_mem h1)

/-- Stage 1 writes no memory. -/
theorem stage1_mem {s s' : State} {rq : Req} {va : Word64} {l : Leaf} (h : stage1 s rq va = .ok (l, s')) :
    s'.mem = s.mem := by
  simp only [stage1] at h
  split at h
  · split at h
    · cases h; rfl
    · split at h
      · cases h
      · rename_i l' size s1 h1
        cases h
        have := walk_mem _ _ _ _ _ _ _ _ h1
        split
        · simpa using this
        · exact this
  · cases h

theorem toLoc_mem {s s' : State} {rq : Req} {g : Nat} {kind : BitVec 2} {a : Access} {l : Loc}
    (h : toLoc s rq g kind a = .ok (l, s')) : s'.mem = s.mem := by
  simp only [toLoc] at h
  split at h
  · split at h
    · cases h; rfl
    · cases h
  · split at h
    · cases h
    · rename_i h1; cases h; exact stage2_mem h1

/-- A translation writes no memory. -/
theorem translate_mem {s s' : State} {rq : Req} {va : Word64} {a : Access} {l : Loc}
    (h : translate s rq va a = .ok (l, s')) : s'.mem = s.mem := by
  simp only [Sys2Proof.Machine.translate] at h
  (repeat' split at h) <;> try cases h
  all_goals first
    | (rename_i h1; exact toLoc_mem h1)
    | (rename_i h1 _ _ h2; exact (toLoc_mem h2).trans (stage1_mem h1))

/-- An engine's read through its cache writes no memory. -/
theorem readIn_mem {s s' : State} {rq : Req} {va n : Nat} {b : List Byte} (hr : rq.home = false)
    (h : readIn s rq va n = .ok (b, s')) : s'.mem = s.mem := by
  simp only [readIn] at h
  split at h
  · cases h
  · rename_i l s1 h1
    split at h
    · cases h; exact translate_mem h1
    · split at h
      · cases h
      · have := congrArg (fun r => r.2.mem) (Except.ok.inj h)
        simp only [read_mem hr] at this
        exact this.symm.trans (translate_mem h1)

/-- An engine's read keeps the canonical form. -/
theorem wf_readIn {s s' : State} {rq : Req} {va n : Nat} {b : List Byte} (h : Memory.wf s.mem = true)
    (hr : readIn s rq va n = .ok (b, s')) : Memory.wf s'.mem = true := by
  simp only [readIn] at hr
  split at hr
  · cases hr
  · rename_i l s1 h1
    have h2 : Memory.wf s1.mem = true := by rw [translate_mem h1]; exact h
    split at hr
    · cases hr; exact h2
    · split at hr
      · cases hr
      · have h3 := congrArg (fun r => Memory.wf r.2.mem) (Except.ok.inj hr)
        exact h3.symm.trans (wf_read rq _ _ h2)

/-- An engine's write keeps the canonical form. -/
theorem wf_writeIn {s s' : State} {rq : Req} {va : Nat} {b : List Byte} (h : Memory.wf s.mem = true)
    (hw : writeIn s rq va b = .ok s') : Memory.wf s'.mem = true := by
  simp only [writeIn] at hw
  split at hw
  · cases hw
  · rename_i l s1 h1
    have h2 : Memory.wf s1.mem = true := by rw [translate_mem h1]; exact h
    split at hw
    · cases hw; exact h2
    · cases hw; exact wf_reqWrite _ _ _ h2

/-- A read that may span lines, through the agent's cache, writes no memory. -/
theorem readVa_mem (rq : Req) (hr : rq.home = false) (fuel : Nat) : ∀ (s s' : State) (va n : Nat) (b : List Byte),
    readVa s rq va n fuel = .ok (b, s') → s'.mem = s.mem := by
  induction fuel with
  | zero =>
    intro s s' va n b h
    cases n <;> simp only [readVa] at h <;> cases h <;> rfl
  | succ f ih =>
    intro s s' va n b h
    cases n with
    | zero => simp only [readVa] at h; cases h; rfl
    | succ n =>
      simp only [readVa] at h
      split at h
      · cases h
      · rename_i h1
        split at h
        · cases h
        · rename_i h2
          cases h
          exact (ih _ _ _ _ _ h2).trans (readIn_mem hr h1)

/-- A read that may span lines keeps the canonical form. -/
theorem wf_readVa (rq : Req) (fuel : Nat) : ∀ (s s' : State) (va n : Nat) (b : List Byte), Memory.wf s.mem = true →
    readVa s rq va n fuel = .ok (b, s') → Memory.wf s'.mem = true := by
  induction fuel with
  | zero =>
    intro s s' va n b h hr
    cases n <;> simp only [readVa] at hr <;> cases hr <;> exact h
  | succ f ih =>
    intro s s' va n b h hr
    cases n with
    | zero => simp only [readVa] at hr; cases hr; exact h
    | succ n =>
      simp only [readVa] at hr
      split at hr
      · cases hr
      · rename_i h1
        split at hr
        · cases hr
        · rename_i h2
          cases hr
          exact ih _ _ _ _ _ (wf_readIn h h1) h2

/-- A write that may span lines keeps the canonical form. -/
theorem wf_writeVa (rq : Req) (fuel : Nat) : ∀ (s s' : State) (va : Nat) (b : List Byte), Memory.wf s.mem = true →
    writeVa s rq va b fuel = .ok s' → Memory.wf s'.mem = true := by
  induction fuel with
  | zero => intro s s' va b h hw; simp only [writeVa] at hw; cases hw; exact h
  | succ f ih =>
    intro s s' va b h hw
    simp only [writeVa] at hw
    split at hw
    · cases hw; exact h
    · split at hw
      · cases hw
      · rename_i h1
        exact ih _ _ _ _ (wf_writeIn h h1) hw

/-- An atomic read and write of bytes keeps the canonical form. -/
theorem wf_atomicCoh {s : State} (g : Agent) (key n : Nat) (f : List Byte → Option (List Byte))
    (h : Memory.wf s.mem = true) : Memory.wf (atomicCoh s g key n f).2.mem = true := by
  simp only [atomicCoh]
  split
  · simpa using h
  · exact wf_cohStore _ _ _ h

end Sys2Proof.Laws
end

