-- ==== Sys2Proof/Laws/PerInstr.lean ====
section
/-! SUPPORT. The per-instruction family Wf: what the encoder gives an instruction is one word or one halfword, and its top
bit says which (R78). -/

namespace Sys2Proof.Laws.Wf

/-- R78: a word that the encoder gives begins a 32-bit instruction, a halfword that it gives is a whole 16-bit
instruction, and no instruction has both. -/
def Statement (i : Instr) : Prop :=
  (∀ w, encode32 i = some w → w.getLsbD 31 = true) ∧ (∀ h, encode16 i = some h → isWide h = false) ∧
    (encode32 i = none ∨ encode16 i = none)

/-- An instruction with a word whose top bit is set. -/
theorem of_word {i : Instr} {w : Word32} (h : encode32 i = some w) (h' : encode16 i = none)
    (hw : w.getLsbD 31 = true) : Statement i :=
  ⟨fun w' e => by rw [h] at e; cases e; exact hw, (by simp [h']), .inr h'⟩

/-- An instruction with a halfword whose top bit is clear. -/
theorem of_half {i : Instr} {x : BitVec 16} (h : encode16 i = some x) (h' : encode32 i = none)
    (hx : x.getLsbD 15 = false) : Statement i :=
  ⟨(by simp [h']), fun x' e => by rw [h] at e; cases e; exact hx, .inl h'⟩

/-- A step without an encoding. -/
theorem of_none {i : Instr} (h : encode32 i = none) (h' : encode16 i = none) : Statement i :=
  ⟨(by simp [h]), (by simp [h']), .inl h⟩

theorem add (d : BitVec 5) (a : BitVec 5) (b : BitVec 5) (v0 : BitVec 5) : Statement (.add d a b v0) :=
  of_word rfl rfl (by simp only [BitVec.getLsbD_append]; rfl)
theorem sub (d : BitVec 5) (a : BitVec 5) (b : BitVec 5) (v0 : BitVec 5) : Statement (.sub d a b v0) :=
  of_word rfl rfl (by simp only [BitVec.getLsbD_append]; rfl)
theorem mul (d : BitVec 5) (a : BitVec 5) (b : BitVec 5) (v0 : BitVec 5) : Statement (.mul d a b v0) :=
  of_word rfl rfl (by simp only [BitVec.getLsbD_append]; rfl)
theorem mulh (d : BitVec 5) (a : BitVec 5) (b : BitVec 5) (v0 : BitVec 5) : Statement (.mulh d a b v0) :=
  of_word rfl rfl (by simp only [BitVec.getLsbD_append]; rfl)
theorem mulhn (d : BitVec 5) (a : BitVec 5) (b : BitVec 5) (v0 : BitVec 5) : Statement (.mulhn d a b v0) :=
  of_word rfl rfl (by simp only [BitVec.getLsbD_append]; rfl)
theorem div (d : BitVec 5) (a : BitVec 5) (b : BitVec 5) (v0 : BitVec 5) : Statement (.div d a b v0) :=
  of_word rfl rfl (by simp only [BitVec.getLsbD_append]; rfl)
theorem divn (d : BitVec 5) (a : BitVec 5) (b : BitVec 5) (v0 : BitVec 5) : Statement (.divn d a b v0) :=
  of_word rfl rfl (by simp only [BitVec.getLsbD_append]; rfl)
theorem rem (d : BitVec 5) (a : BitVec 5) (b : BitVec 5) (v0 : BitVec 5) : Statement (.rem d a b v0) :=
  of_word rfl rfl (by simp only [BitVec.getLsbD_append]; rfl)
theorem remn (d : BitVec 5) (a : BitVec 5) (b : BitVec 5) (v0 : BitVec 5) : Statement (.remn d a b v0) :=
  of_word rfl rfl (by simp only [BitVec.getLsbD_append]; rfl)
theorem and (d : BitVec 5) (a : BitVec 5) (b : BitVec 5) (v0 : BitVec 5) : Statement (.and d a b v0) :=
  of_word rfl rfl (by simp only [BitVec.getLsbD_append]; rfl)
theorem or (d : BitVec 5) (a : BitVec 5) (b : BitVec 5) (v0 : BitVec 5) : Statement (.or d a b v0) :=
  of_word rfl rfl (by simp only [BitVec.getLsbD_append]; rfl)
theorem xor (d : BitVec 5) (a : BitVec 5) (b : BitVec 5) (v0 : BitVec 5) : Statement (.xor d a b v0) :=
  of_word rfl rfl (by simp only [BitVec.getLsbD_append]; rfl)
theorem shl (d : BitVec 5) (a : BitVec 5) (b : BitVec 5) (v0 : BitVec 5) : Statement (.shl d a b v0) :=
  of_word rfl rfl (by simp only [BitVec.getLsbD_append]; rfl)
theorem shr (d : BitVec 5) (a : BitVec 5) (b : BitVec 5) (v0 : BitVec 5) : Statement (.shr d a b v0) :=
  of_word rfl rfl (by simp only [BitVec.getLsbD_append]; rfl)
theorem sra (d : BitVec 5) (a : BitVec 5) (b : BitVec 5) (v0 : BitVec 5) : Statement (.sra d a b v0) :=
  of_word rfl rfl (by simp only [BitVec.getLsbD_append]; rfl)
theorem rotr (d : BitVec 5) (a : BitVec 5) (b : BitVec 5) (v0 : BitVec 5) : Statement (.rotr d a b v0) :=
  of_word rfl rfl (by simp only [BitVec.getLsbD_append]; rfl)
theorem min (d : BitVec 5) (a : BitVec 5) (b : BitVec 5) (v0 : BitVec 5) : Statement (.min d a b v0) :=
  of_word rfl rfl (by simp only [BitVec.getLsbD_append]; rfl)
theorem max (d : BitVec 5) (a : BitVec 5) (b : BitVec 5) (v0 : BitVec 5) : Statement (.max d a b v0) :=
  of_word rfl rfl (by simp only [BitVec.getLsbD_append]; rfl)
theorem minn (d : BitVec 5) (a : BitVec 5) (b : BitVec 5) (v0 : BitVec 5) : Statement (.minn d a b v0) :=
  of_word rfl rfl (by simp only [BitVec.getLsbD_append]; rfl)
theorem maxn (d : BitVec 5) (a : BitVec 5) (b : BitVec 5) (v0 : BitVec 5) : Statement (.maxn d a b v0) :=
  of_word rfl rfl (by simp only [BitVec.getLsbD_append]; rfl)
theorem seq (d : BitVec 5) (a : BitVec 5) (b : BitVec 5) (v0 : BitVec 5) : Statement (.seq d a b v0) :=
  of_word rfl rfl (by simp only [BitVec.getLsbD_append]; rfl)
theorem slt (d : BitVec 5) (a : BitVec 5) (b : BitVec 5) (v0 : BitVec 5) : Statement (.slt d a b v0) :=
  of_word rfl rfl (by simp only [BitVec.getLsbD_append]; rfl)
theorem sltn (d : BitVec 5) (a : BitVec 5) (b : BitVec 5) (v0 : BitVec 5) : Statement (.sltn d a b v0) :=
  of_word rfl rfl (by simp only [BitVec.getLsbD_append]; rfl)
theorem sel (d : BitVec 5) (a : BitVec 5) (b : BitVec 5) (c : BitVec 5) : Statement (.sel d a b c) :=
  of_word rfl rfl (by simp only [BitVec.getLsbD_append]; rfl)
theorem adds (d : BitVec 5) (a : BitVec 5) (b : BitVec 5) (v0 : BitVec 5) : Statement (.adds d a b v0) :=
  of_word rfl rfl (by simp only [BitVec.getLsbD_append]; rfl)
theorem neg (d : BitVec 5) (a : BitVec 5) (v0 : BitVec 10) : Statement (.neg d a v0) :=
  of_word rfl rfl (by simp only [BitVec.getLsbD_append]; rfl)
theorem clz (d : BitVec 5) (a : BitVec 5) (v0 : BitVec 10) : Statement (.clz d a v0) :=
  of_word rfl rfl (by simp only [BitVec.getLsbD_append]; rfl)
theorem ctz (d : BitVec 5) (a : BitVec 5) (v0 : BitVec 10) : Statement (.ctz d a v0) :=
  of_word rfl rfl (by simp only [BitVec.getLsbD_append]; rfl)
theorem popc (d : BitVec 5) (a : BitVec 5) (v0 : BitVec 10) : Statement (.popc d a v0) :=
  of_word rfl rfl (by simp only [BitVec.getLsbD_append]; rfl)
theorem mov (d : BitVec 5) (a : BitVec 5) (v0 : BitVec 10) : Statement (.mov d a v0) :=
  of_word rfl rfl (by simp only [BitVec.getLsbD_append]; rfl)
theorem sext (d : BitVec 5) (a : BitVec 5) (z : BitVec 5) (v0 : BitVec 5) : Statement (.sext d a z v0) :=
  of_word rfl rfl (by simp only [BitVec.getLsbD_append]; rfl)
theorem zext (d : BitVec 5) (a : BitVec 5) (z : BitVec 5) (v0 : BitVec 5) : Statement (.zext d a z v0) :=
  of_word rfl rfl (by simp only [BitVec.getLsbD_append]; rfl)
theorem addi (d : BitVec 5) (a : BitVec 5) (i : BitVec 12) : Statement (.addi d a i) :=
  of_word rfl rfl (by simp only [BitVec.getLsbD_append]; rfl)
theorem andi (d : BitVec 5) (a : BitVec 5) (i : BitVec 12) : Statement (.andi d a i) :=
  of_word rfl rfl (by simp only [BitVec.getLsbD_append]; rfl)
theorem ori (d : BitVec 5) (a : BitVec 5) (i : BitVec 12) : Statement (.ori d a i) :=
  of_word rfl rfl (by simp only [BitVec.getLsbD_append]; rfl)
theorem xori (d : BitVec 5) (a : BitVec 5) (i : BitVec 12) : Statement (.xori d a i) :=
  of_word rfl rfl (by simp only [BitVec.getLsbD_append]; rfl)
theorem slti (d : BitVec 5) (a : BitVec 5) (i : BitVec 12) : Statement (.slti d a i) :=
  of_word rfl rfl (by simp only [BitVec.getLsbD_append]; rfl)
theorem shli (d : BitVec 5) (a : BitVec 5) (n : BitVec 6) (v0 : BitVec 6) : Statement (.shli d a n v0) :=
  of_word rfl rfl (by simp only [BitVec.getLsbD_append]; rfl)
theorem shri (d : BitVec 5) (a : BitVec 5) (n : BitVec 6) (v0 : BitVec 6) : Statement (.shri d a n v0) :=
  of_word rfl rfl (by simp only [BitVec.getLsbD_append]; rfl)
theorem srai (d : BitVec 5) (a : BitVec 5) (n : BitVec 6) (v0 : BitVec 6) : Statement (.srai d a n v0) :=
  of_word rfl rfl (by simp only [BitVec.getLsbD_append]; rfl)
theorem bfx (d : BitVec 5) (a : BitVec 5) (p : BitVec 6) (l : BitVec 6) : Statement (.bfx d a p l) :=
  of_word rfl rfl (by simp only [BitVec.getLsbD_append]; rfl)
theorem bfi (d : BitVec 5) (a : BitVec 5) (p : BitVec 6) (l : BitVec 6) : Statement (.bfi d a p l) :=
  of_word rfl rfl (by simp only [BitVec.getLsbD_append]; rfl)
theorem li (d : BitVec 5) (i : BitVec 20) : Statement (.li d i) :=
  of_word rfl rfl (by simp only [BitVec.getLsbD_append]; rfl)
theorem lih (d : BitVec 5) (i : BitVec 20) : Statement (.lih d i) :=
  of_word rfl rfl (by simp only [BitVec.getLsbD_append]; rfl)
theorem beq (a : BitVec 5) (b : BitVec 5) (o : BitVec 12) : Statement (.beq a b o) :=
  of_word rfl rfl (by simp only [BitVec.getLsbD_append]; rfl)
theorem bne (a : BitVec 5) (b : BitVec 5) (o : BitVec 12) : Statement (.bne a b o) :=
  of_word rfl rfl (by simp only [BitVec.getLsbD_append]; rfl)
theorem blt (a : BitVec 5) (b : BitVec 5) (o : BitVec 12) : Statement (.blt a b o) :=
  of_word rfl rfl (by simp only [BitVec.getLsbD_append]; rfl)
theorem bge (a : BitVec 5) (b : BitVec 5) (o : BitVec 12) : Statement (.bge a b o) :=
  of_word rfl rfl (by simp only [BitVec.getLsbD_append]; rfl)
theorem bltn (a : BitVec 5) (b : BitVec 5) (o : BitVec 12) : Statement (.bltn a b o) :=
  of_word rfl rfl (by simp only [BitVec.getLsbD_append]; rfl)
theorem bgen (a : BitVec 5) (b : BitVec 5) (o : BitVec 12) : Statement (.bgen a b o) :=
  of_word rfl rfl (by simp only [BitVec.getLsbD_append]; rfl)
theorem bz (a : BitVec 5) (o : BitVec 12) (v0 : BitVec 5) : Statement (.bz a o v0) :=
  of_word rfl rfl (by simp only [BitVec.getLsbD_append]; rfl)
theorem bnz (a : BitVec 5) (o : BitVec 12) (v0 : BitVec 5) : Statement (.bnz a o v0) :=
  of_word rfl rfl (by simp only [BitVec.getLsbD_append]; rfl)
theorem jal (d : BitVec 5) (o : BitVec 20) : Statement (.jal d o) :=
  of_word rfl rfl (by simp only [BitVec.getLsbD_append]; rfl)
theorem jr (d : BitVec 5) (a : BitVec 5) (i : BitVec 12) : Statement (.jr d a i) :=
  of_word rfl rfl (by simp only [BitVec.getLsbD_append]; rfl)
theorem loop (d : BitVec 5) (a : BitVec 5) (i : BitVec 12) : Statement (.loop d a i) :=
  of_word rfl rfl (by simp only [BitVec.getLsbD_append]; rfl)
theorem halt (v0 : BitVec 10) (v1 : BitVec 12) : Statement (.halt v0 v1) :=
  of_word rfl rfl (by simp only [BitVec.getLsbD_append]; rfl)
theorem fadd (d : BitVec 5) (a : BitVec 5) (b : BitVec 5) (v0 : BitVec 5) : Statement (.fadd d a b v0) :=
  of_word rfl rfl (by simp only [BitVec.getLsbD_append]; rfl)
theorem fsub (d : BitVec 5) (a : BitVec 5) (b : BitVec 5) (v0 : BitVec 5) : Statement (.fsub d a b v0) :=
  of_word rfl rfl (by simp only [BitVec.getLsbD_append]; rfl)
theorem fmul (d : BitVec 5) (a : BitVec 5) (b : BitVec 5) (v0 : BitVec 5) : Statement (.fmul d a b v0) :=
  of_word rfl rfl (by simp only [BitVec.getLsbD_append]; rfl)
theorem ffma (d : BitVec 5) (a : BitVec 5) (b : BitVec 5) (c : BitVec 5) : Statement (.ffma d a b c) :=
  of_word rfl rfl (by simp only [BitVec.getLsbD_append]; rfl)
theorem fdiv (d : BitVec 5) (a : BitVec 5) (b : BitVec 5) (v0 : BitVec 5) : Statement (.fdiv d a b v0) :=
  of_word rfl rfl (by simp only [BitVec.getLsbD_append]; rfl)
theorem fsqrt (d : BitVec 5) (a : BitVec 5) (v0 : BitVec 10) : Statement (.fsqrt d a v0) :=
  of_word rfl rfl (by simp only [BitVec.getLsbD_append]; rfl)
theorem fmin (d : BitVec 5) (a : BitVec 5) (b : BitVec 5) (v0 : BitVec 5) : Statement (.fmin d a b v0) :=
  of_word rfl rfl (by simp only [BitVec.getLsbD_append]; rfl)
theorem fmax (d : BitVec 5) (a : BitVec 5) (b : BitVec 5) (v0 : BitVec 5) : Statement (.fmax d a b v0) :=
  of_word rfl rfl (by simp only [BitVec.getLsbD_append]; rfl)
theorem feq (d : BitVec 5) (a : BitVec 5) (b : BitVec 5) (v0 : BitVec 5) : Statement (.feq d a b v0) :=
  of_word rfl rfl (by simp only [BitVec.getLsbD_append]; rfl)
theorem flt (d : BitVec 5) (a : BitVec 5) (b : BitVec 5) (v0 : BitVec 5) : Statement (.flt d a b v0) :=
  of_word rfl rfl (by simp only [BitVec.getLsbD_append]; rfl)
theorem fle (d : BitVec 5) (a : BitVec 5) (b : BitVec 5) (v0 : BitVec 5) : Statement (.fle d a b v0) :=
  of_word rfl rfl (by simp only [BitVec.getLsbD_append]; rfl)
theorem fclass (d : BitVec 5) (a : BitVec 5) (v0 : BitVec 10) : Statement (.fclass d a v0) :=
  of_word rfl rfl (by simp only [BitVec.getLsbD_append]; rfl)
theorem fmv (d : BitVec 5) (a : BitVec 5) (v0 : BitVec 10) : Statement (.fmv d a v0) :=
  of_word rfl rfl (by simp only [BitVec.getLsbD_append]; rfl)
theorem fcvt (d : BitVec 5) (a : BitVec 5) (s : BitVec 4) (t : BitVec 4) (v0 : BitVec 4) : Statement (.fcvt d a s t v0) :=
  of_word rfl rfl (by simp only [BitVec.getLsbD_append]; rfl)
theorem ld (t : BitVec 5) (a : BitVec 5) (z : BitVec 3) (o : BitVec 11) : Statement (.ld t a z o) :=
  of_word rfl rfl (by simp only [BitVec.getLsbD_append]; rfl)
theorem ldn (t : BitVec 5) (a : BitVec 5) (z : BitVec 3) (o : BitVec 11) : Statement (.ldn t a z o) :=
  of_word rfl rfl (by simp only [BitVec.getLsbD_append]; rfl)
theorem st (t : BitVec 5) (a : BitVec 5) (z : BitVec 3) (o : BitVec 11) : Statement (.st t a z o) :=
  of_word rfl rfl (by simp only [BitVec.getLsbD_append]; rfl)
theorem pref (w : BitVec 1) (a : BitVec 5) (o : BitVec 11) (v0 : BitVec 4) (v1 : BitVec 3) : Statement (.pref w a o v0 v1) :=
  of_word rfl rfl (by simp only [BitVec.getLsbD_append]; rfl)
theorem lda (t : BitVec 5) (a : BitVec 5) (z : BitVec 3) (o : BitVec 11) : Statement (.lda t a z o) :=
  of_word rfl rfl (by simp only [BitVec.getLsbD_append]; rfl)
theorem stl (t : BitVec 5) (a : BitVec 5) (z : BitVec 3) (o : BitVec 11) : Statement (.stl t a z o) :=
  of_word rfl rfl (by simp only [BitVec.getLsbD_append]; rfl)
theorem amo (d : BitVec 5) (a : BitVec 5) (b : BitVec 5) (z : BitVec 2) (o : BitVec 5) (v0 : BitVec 3) : Statement (.amo d a b z o v0) :=
  of_word rfl rfl (by simp only [BitVec.getLsbD_append]; rfl)
theorem cas (d : BitVec 5) (a : BitVec 5) (b : BitVec 5) (z : BitVec 2) (v0 : BitVec 3) : Statement (.cas d a b z v0) :=
  of_word rfl rfl (by simp only [BitVec.getLsbD_append]; rfl)
theorem lds (t : BitVec 5) (a : BitVec 5) (z : BitVec 3) (o : BitVec 11) : Statement (.lds t a z o) :=
  of_word rfl rfl (by simp only [BitVec.getLsbD_append]; rfl)
theorem sts (t : BitVec 5) (a : BitVec 5) (z : BitVec 3) (o : BitVec 11) : Statement (.sts t a z o) :=
  of_word rfl rfl (by simp only [BitVec.getLsbD_append]; rfl)
theorem amos (d : BitVec 5) (a : BitVec 5) (b : BitVec 5) (z : BitVec 2) (o : BitVec 5) (v0 : BitVec 3) : Statement (.amos d a b z o v0) :=
  of_word rfl rfl (by simp only [BitVec.getLsbD_append]; rfl)
theorem tsb (d : BitVec 5) (a : BitVec 5) (b : BitVec 5) (v0 : BitVec 5) : Statement (.tsb d a b v0) :=
  of_word rfl rfl (by simp only [BitVec.getLsbD_append]; rfl)
theorem tcb (d : BitVec 5) (a : BitVec 5) (b : BitVec 5) (v0 : BitVec 5) : Statement (.tcb d a b v0) :=
  of_word rfl rfl (by simp only [BitVec.getLsbD_append]; rfl)
theorem fence (k : BitVec 2) (s : BitVec 3) (v0 : BitVec 15) : Statement (.fence k s v0) :=
  of_word rfl rfl (by simp only [BitVec.getLsbD_append]; rfl)
theorem ownDecl (d : BitVec 5) (a : BitVec 5) (b : BitVec 5) (v0 : BitVec 3) : Statement (.ownDecl d a b v0) :=
  of_word rfl rfl (by simp only [BitVec.getLsbD_append]; rfl)
theorem ownGive (d : BitVec 5) (a : BitVec 5) (b : BitVec 5) (v0 : BitVec 3) : Statement (.ownGive d a b v0) :=
  of_word rfl rfl (by simp only [BitVec.getLsbD_append]; rfl)
theorem ownTake (d : BitVec 5) (a : BitVec 5) (v0 : BitVec 8) : Statement (.ownTake d a v0) :=
  of_word rfl rfl (by simp only [BitVec.getLsbD_append]; rfl)
theorem ownDrop (d : BitVec 5) (a : BitVec 5) (v0 : BitVec 8) : Statement (.ownDrop d a v0) :=
  of_word rfl rfl (by simp only [BitVec.getLsbD_append]; rfl)
theorem vadd (d : BitVec 5) (a : BitVec 5) (b : BitVec 5) (q : BitVec 1) (t : BitVec 4) : Statement (.vadd d a b q t) :=
  of_word rfl rfl (by simp only [BitVec.getLsbD_append]; rfl)
theorem vsub (d : BitVec 5) (a : BitVec 5) (b : BitVec 5) (q : BitVec 1) (t : BitVec 4) : Statement (.vsub d a b q t) :=
  of_word rfl rfl (by simp only [BitVec.getLsbD_append]; rfl)
theorem vmul (d : BitVec 5) (a : BitVec 5) (b : BitVec 5) (q : BitVec 1) (t : BitVec 4) : Statement (.vmul d a b q t) :=
  of_word rfl rfl (by simp only [BitVec.getLsbD_append]; rfl)
theorem vfma (d : BitVec 5) (a : BitVec 5) (b : BitVec 5) (q : BitVec 1) (t : BitVec 4) : Statement (.vfma d a b q t) :=
  of_word rfl rfl (by simp only [BitVec.getLsbD_append]; rfl)
theorem vmin (d : BitVec 5) (a : BitVec 5) (b : BitVec 5) (q : BitVec 1) (t : BitVec 4) : Statement (.vmin d a b q t) :=
  of_word rfl rfl (by simp only [BitVec.getLsbD_append]; rfl)
theorem vmax (d : BitVec 5) (a : BitVec 5) (b : BitVec 5) (q : BitVec 1) (t : BitVec 4) : Statement (.vmax d a b q t) :=
  of_word rfl rfl (by simp only [BitVec.getLsbD_append]; rfl)
theorem vabs (d : BitVec 5) (a : BitVec 5) (q : BitVec 1) (t : BitVec 4) (v0 : BitVec 5) : Statement (.vabs d a q t v0) :=
  of_word rfl rfl (by simp only [BitVec.getLsbD_append]; rfl)
theorem vneg (d : BitVec 5) (a : BitVec 5) (q : BitVec 1) (t : BitVec 4) (v0 : BitVec 5) : Statement (.vneg d a q t v0) :=
  of_word rfl rfl (by simp only [BitVec.getLsbD_append]; rfl)
theorem vand (d : BitVec 5) (a : BitVec 5) (b : BitVec 5) (t : BitVec 4) (v0 : BitVec 1) : Statement (.vand d a b t v0) :=
  of_word rfl rfl (by simp only [BitVec.getLsbD_append]; rfl)
theorem vor (d : BitVec 5) (a : BitVec 5) (b : BitVec 5) (t : BitVec 4) (v0 : BitVec 1) : Statement (.vor d a b t v0) :=
  of_word rfl rfl (by simp only [BitVec.getLsbD_append]; rfl)
theorem vxor (d : BitVec 5) (a : BitVec 5) (b : BitVec 5) (t : BitVec 4) (v0 : BitVec 1) : Statement (.vxor d a b t v0) :=
  of_word rfl rfl (by simp only [BitVec.getLsbD_append]; rfl)
theorem vshl (d : BitVec 5) (a : BitVec 5) (b : BitVec 5) (t : BitVec 4) (v0 : BitVec 1) : Statement (.vshl d a b t v0) :=
  of_word rfl rfl (by simp only [BitVec.getLsbD_append]; rfl)
theorem vshr (d : BitVec 5) (a : BitVec 5) (b : BitVec 5) (t : BitVec 4) (v0 : BitVec 1) : Statement (.vshr d a b t v0) :=
  of_word rfl rfl (by simp only [BitVec.getLsbD_append]; rfl)
theorem vsra (d : BitVec 5) (a : BitVec 5) (b : BitVec 5) (t : BitVec 4) (v0 : BitVec 1) : Statement (.vsra d a b t v0) :=
  of_word rfl rfl (by simp only [BitVec.getLsbD_append]; rfl)
theorem vsel (d : BitVec 5) (a : BitVec 5) (b : BitVec 5) (t : BitVec 4) (v0 : BitVec 1) : Statement (.vsel d a b t v0) :=
  of_word rfl rfl (by simp only [BitVec.getLsbD_append]; rfl)
theorem vred (d : BitVec 5) (a : BitVec 5) (q : BitVec 1) (t : BitVec 4) (v0 : BitVec 5) : Statement (.vred d a q t v0) :=
  of_word rfl rfl (by simp only [BitVec.getLsbD_append]; rfl)
theorem vrcp (d : BitVec 5) (a : BitVec 5) (t : BitVec 4) (v0 : BitVec 6) : Statement (.vrcp d a t v0) :=
  of_word rfl rfl (by simp only [BitVec.getLsbD_append]; rfl)
theorem vrsq (d : BitVec 5) (a : BitVec 5) (t : BitVec 4) (v0 : BitVec 6) : Statement (.vrsq d a t v0) :=
  of_word rfl rfl (by simp only [BitVec.getLsbD_append]; rfl)
theorem vexp2 (d : BitVec 5) (a : BitVec 5) (t : BitVec 4) (v0 : BitVec 6) : Statement (.vexp2 d a t v0) :=
  of_word rfl rfl (by simp only [BitVec.getLsbD_append]; rfl)
theorem vlog2 (d : BitVec 5) (a : BitVec 5) (t : BitVec 4) (v0 : BitVec 6) : Statement (.vlog2 d a t v0) :=
  of_word rfl rfl (by simp only [BitVec.getLsbD_append]; rfl)
theorem vcmp (d : BitVec 5) (a : BitVec 5) (b : BitVec 5) (q : BitVec 1) (t : BitVec 4) (r : BitVec 3) : Statement (.vcmp d a b q t r) :=
  of_word rfl rfl (by simp only [BitVec.getLsbD_append]; rfl)
theorem vcvt (d : BitVec 5) (a : BitVec 5) (e : BitVec 4) (t : BitVec 4) (v0 : BitVec 1) (v1 : BitVec 1) : Statement (.vcvt d a e t v0 v1) :=
  of_word rfl rfl (by simp only [BitVec.getLsbD_append]; rfl)
theorem vpack (d : BitVec 5) (a : BitVec 5) (b : BitVec 5) (t : BitVec 4) (v0 : BitVec 1) : Statement (.vpack d a b t v0) :=
  of_word rfl rfl (by simp only [BitVec.getLsbD_append]; rfl)
theorem vunpk (d : BitVec 5) (a : BitVec 5) (b : BitVec 5) (t : BitVec 4) (v0 : BitVec 1) : Statement (.vunpk d a b t v0) :=
  of_word rfl rfl (by simp only [BitVec.getLsbD_append]; rfl)
theorem vperm (d : BitVec 5) (a : BitVec 5) (b : BitVec 5) (t : BitVec 4) (v0 : BitVec 1) : Statement (.vperm d a b t v0) :=
  of_word rfl rfl (by simp only [BitVec.getLsbD_append]; rfl)
theorem vbcst (d : BitVec 5) (a : BitVec 5) (b : BitVec 5) (t : BitVec 4) (v0 : BitVec 1) : Statement (.vbcst d a b t v0) :=
  of_word rfl rfl (by simp only [BitVec.getLsbD_append]; rfl)
theorem vlen (d : BitVec 5) (a : BitVec 5) (t : BitVec 4) (v0 : BitVec 6) : Statement (.vlen d a t v0) :=
  of_word rfl rfl (by simp only [BitVec.getLsbD_append]; rfl)
theorem vcat (d : BitVec 5) (a : BitVec 5) (b : BitVec 5) (t : BitVec 4) (v0 : BitVec 1) : Statement (.vcat d a b t v0) :=
  of_word rfl rfl (by simp only [BitVec.getLsbD_append]; rfl)
theorem vspl (d : BitVec 5) (a : BitVec 5) (t : BitVec 4) (v0 : BitVec 6) : Statement (.vspl d a t v0) :=
  of_word rfl rfl (by simp only [BitVec.getLsbD_append]; rfl)
theorem vidx (d : BitVec 5) (t : BitVec 4) (v0 : BitVec 11) : Statement (.vidx d t v0) :=
  of_word rfl rfl (by simp only [BitVec.getLsbD_append]; rfl)
theorem send (s : BitVec 5) (r : BitVec 5) (m : BitVec 3) (l : BitVec 3) (o : BitVec 6) : Statement (.send s r m l o) :=
  of_word rfl rfl (by simp only [BitVec.getLsbD_append]; rfl)
theorem sende (r : BitVec 5) (m : BitVec 3) (o : BitVec 6) (v0 : BitVec 5) (v1 : BitVec 3) : Statement (.sende r m o v0 v1) :=
  of_word rfl rfl (by simp only [BitVec.getLsbD_append]; rfl)
theorem sendr (s : BitVec 5) (r : BitVec 5) (m : BitVec 3) (o : BitVec 6) (v0 : BitVec 3) : Statement (.sendr s r m o v0) :=
  of_word rfl rfl (by simp only [BitVec.getLsbD_append]; rfl)
theorem sendm (s : BitVec 5) (r : BitVec 5) (m : BitVec 3) (o : BitVec 6) (v0 : BitVec 3) : Statement (.sendm s r m o v0) :=
  of_word rfl rfl (by simp only [BitVec.getLsbD_append]; rfl)
theorem sendo (r : BitVec 5) (m : BitVec 3) (o : BitVec 6) (v0 : BitVec 5) (v1 : BitVec 3) : Statement (.sendo r m o v0 v1) :=
  of_word rfl rfl (by simp only [BitVec.getLsbD_append]; rfl)
theorem hdr (d : BitVec 5) (a : BitVec 5) (b : BitVec 5) (v0 : BitVec 5) : Statement (.hdr d a b v0) :=
  of_word rfl rfl (by simp only [BitVec.getLsbD_append]; rfl)
theorem tagx (d : BitVec 5) (a : BitVec 5) (b : BitVec 5) (v0 : BitVec 5) : Statement (.tagx d a b v0) :=
  of_word rfl rfl (by simp only [BitVec.getLsbD_append]; rfl)
theorem falloc (d : BitVec 5) (v0 : BitVec 15) : Statement (.falloc d v0) :=
  of_word rfl rfl (by simp only [BitVec.getLsbD_append]; rfl)
theorem ffree (a : BitVec 5) (v0 : BitVec 5) (v1 : BitVec 10) : Statement (.ffree a v0 v1) :=
  of_word rfl rfl (by simp only [BitVec.getLsbD_append]; rfl)
theorem fsto (n : BitVec 3) (a : BitVec 5) (b : BitVec 5) (s : BitVec 3) (v0 : BitVec 2) (v1 : BitVec 2) : Statement (.fsto n a b s v0 v1) :=
  of_word rfl rfl (by simp only [BitVec.getLsbD_append]; rfl)
theorem fldo (d : BitVec 5) (a : BitVec 5) (s : BitVec 3) (v0 : BitVec 7) : Statement (.fldo d a s v0) :=
  of_word rfl rfl (by simp only [BitVec.getLsbD_append]; rfl)
theorem inj (a : BitVec 5) (b : BitVec 5) (v0 : BitVec 5) (v1 : BitVec 5) : Statement (.inj a b v0 v1) :=
  of_word rfl rfl (by simp only [BitVec.getLsbD_append]; rfl)
theorem sld (d : BitVec 8) (r : BitVec 5) (v0 : BitVec 8) : Statement (.sld d r v0) :=
  of_word rfl rfl (by simp only [BitVec.getLsbD_append]; rfl)
theorem sst (d : BitVec 8) (r : BitVec 5) (v0 : BitVec 8) : Statement (.sst d r v0) :=
  of_word rfl rfl (by simp only [BitVec.getLsbD_append]; rfl)
theorem sbind (d : BitVec 8) (r : BitVec 5) (v0 : BitVec 8) : Statement (.sbind d r v0) :=
  of_word rfl rfl (by simp only [BitVec.getLsbD_append]; rfl)
theorem sunb (d : BitVec 8) (v0 : BitVec 13) : Statement (.sunb d v0) :=
  of_word rfl rfl (by simp only [BitVec.getLsbD_append]; rfl)
theorem sadd (d : BitVec 8) (a : BitVec 8) (r : BitVec 5) : Statement (.sadd d a r) :=
  of_word rfl rfl (by simp only [BitVec.getLsbD_append]; rfl)
theorem smax (d : BitVec 8) (a : BitVec 8) (r : BitVec 5) : Statement (.smax d a r) :=
  of_word rfl rfl (by simp only [BitVec.getLsbD_append]; rfl)
theorem smin (d : BitVec 8) (a : BitVec 8) (r : BitVec 5) : Statement (.smin d a r) :=
  of_word rfl rfl (by simp only [BitVec.getLsbD_append]; rfl)
theorem smulv (d : BitVec 8) (a : BitVec 8) (r : BitVec 5) : Statement (.smulv d a r) :=
  of_word rfl rfl (by simp only [BitVec.getLsbD_append]; rfl)
theorem snorm (d : BitVec 8) (a : BitVec 8) (v0 : BitVec 5) : Statement (.snorm d a v0) :=
  of_word rfl rfl (by simp only [BitVec.getLsbD_append]; rfl)
theorem scpy (d : BitVec 8) (a : BitVec 8) (v0 : BitVec 5) : Statement (.scpy d a v0) :=
  of_word rfl rfl (by simp only [BitVec.getLsbD_append]; rfl)
theorem sgen (d : BitVec 8) (r : BitVec 5) (v0 : BitVec 8) : Statement (.sgen d r v0) :=
  of_word rfl rfl (by simp only [BitVec.getLsbD_append]; rfl)
theorem szero (d : BitVec 8) (v0 : BitVec 13) : Statement (.szero d v0) :=
  of_word rfl rfl (by simp only [BitVec.getLsbD_append]; rfl)
theorem tfetch (d : BitVec 5) (a : BitVec 5) (b : BitVec 5) (n : BitVec 8) : Statement (.tfetch d a b n) :=
  of_word rfl rfl (by simp only [BitVec.getLsbD_append]; rfl)
theorem trel (a : BitVec 5) (v0 : BitVec 5) (v1 : BitVec 13) : Statement (.trel a v0 v1) :=
  of_word rfl rfl (by simp only [BitVec.getLsbD_append]; rfl)
theorem mma (a : BitVec 5) (b : BitVec 5) (c : BitVec 5) (v0 : BitVec 5) : Statement (.mma a b c v0) :=
  of_word rfl rfl (by simp only [BitVec.getLsbD_append]; rfl)
theorem mmai (a : BitVec 5) (b : BitVec 5) (c : BitVec 5) (v0 : BitVec 5) : Statement (.mmai a b c v0) :=
  of_word rfl rfl (by simp only [BitVec.getLsbD_append]; rfl)
theorem macc (a : BitVec 5) (b : BitVec 5) (v0 : BitVec 5) (v1 : BitVec 5) : Statement (.macc a b v0 v1) :=
  of_word rfl rfl (by simp only [BitVec.getLsbD_append]; rfl)
theorem mzero (a : BitVec 5) (v0 : BitVec 5) (v1 : BitVec 10) : Statement (.mzero a v0 v1) :=
  of_word rfl rfl (by simp only [BitVec.getLsbD_append]; rfl)
theorem meor (a : BitVec 5) (b : BitVec 5) (v0 : BitVec 5) (v1 : BitVec 5) : Statement (.meor a b v0 v1) :=
  of_word rfl rfl (by simp only [BitVec.getLsbD_append]; rfl)
theorem mrd (d : BitVec 5) (a : BitVec 5) (b : BitVec 5) (v0 : BitVec 5) : Statement (.mrd d a b v0) :=
  of_word rfl rfl (by simp only [BitVec.getLsbD_append]; rfl)
theorem opw (a : BitVec 5) (b : BitVec 5) (v0 : BitVec 5) (v1 : BitVec 5) : Statement (.opw a b v0 v1) :=
  of_word rfl rfl (by simp only [BitVec.getLsbD_append]; rfl)
theorem opr (d : BitVec 5) (a : BitVec 5) (v0 : BitVec 10) : Statement (.opr d a v0) :=
  of_word rfl rfl (by simp only [BitVec.getLsbD_append]; rfl)
theorem opsnap (d : BitVec 5) (a : BitVec 5) (b : BitVec 5) (v0 : BitVec 5) : Statement (.opsnap d a b v0) :=
  of_word rfl rfl (by simp only [BitVec.getLsbD_append]; rfl)
theorem cpy (a : BitVec 5) (b : BitVec 5) (t : BitVec 8) (v0 : BitVec 5) : Statement (.cpy a b t v0) :=
  of_word rfl rfl (by simp only [BitVec.getLsbD_append]; rfl)
theorem cpyb (d : BitVec 5) (a : BitVec 5) (b : BitVec 5) (v0 : BitVec 8) : Statement (.cpyb d a b v0) :=
  of_word rfl rfl (by simp only [BitVec.getLsbD_append]; rfl)
theorem ctarm (d : BitVec 5) (a : BitVec 5) (b : BitVec 5) (q : BitVec 8) : Statement (.ctarm d a b q) :=
  of_word rfl rfl (by simp only [BitVec.getLsbD_append]; rfl)
theorem ctdis (d : BitVec 5) (q : BitVec 8) (v0 : BitVec 10) : Statement (.ctdis d q v0) :=
  of_word rfl rfl (by simp only [BitVec.getLsbD_append]; rfl)
theorem strmi (d : BitVec 5) (a : BitVec 5) (t : BitVec 8) (v0 : BitVec 5) : Statement (.strmi d a t v0) :=
  of_word rfl rfl (by simp only [BitVec.getLsbD_append]; rfl)
theorem strmiStop (d : BitVec 5) (a : BitVec 5) (t : BitVec 8) (v0 : BitVec 5) : Statement (.strmiStop d a t v0) :=
  of_none rfl rfl
theorem strmo (a : BitVec 5) (b : BitVec 5) (t : BitVec 8) (v0 : BitVec 5) : Statement (.strmo a b t v0) :=
  of_word rfl rfl (by simp only [BitVec.getLsbD_append]; rfl)
theorem strms (a : BitVec 5) (t : BitVec 8) (v0 : BitVec 5) (v1 : BitVec 5) : Statement (.strms a t v0 v1) :=
  of_word rfl rfl (by simp only [BitVec.getLsbD_append]; rfl)
theorem strmsStop (a : BitVec 5) (t : BitVec 8) (v0 : BitVec 5) (v1 : BitVec 5) : Statement (.strmsStop a t v0 v1) :=
  of_none rfl rfl
theorem strmb (t : BitVec 8) (v0 : BitVec 15) : Statement (.strmb t v0) :=
  of_word rfl rfl (by simp only [BitVec.getLsbD_append]; rfl)
theorem cwany (d : BitVec 5) (a : BitVec 5) (v0 : BitVec 10) : Statement (.cwany d a v0) :=
  of_word rfl rfl (by simp only [BitVec.getLsbD_append]; rfl)
theorem cwall (a : BitVec 5) (v0 : BitVec 5) (v1 : BitVec 10) : Statement (.cwall a v0 v1) :=
  of_word rfl rfl (by simp only [BitVec.getLsbD_append]; rfl)
theorem cffr (d : BitVec 5) (a : BitVec 5) (v0 : BitVec 10) : Statement (.cffr d a v0) :=
  of_word rfl rfl (by simp only [BitVec.getLsbD_append]; rfl)
theorem qpush (d : BitVec 5) (a : BitVec 5) (b : BitVec 5) (t : BitVec 1) (v0 : BitVec 4) : Statement (.qpush d a b t v0) :=
  of_word rfl rfl (by simp only [BitVec.getLsbD_append]; rfl)
theorem qpop (d : BitVec 5) (a : BitVec 5) (b : BitVec 5) (t : BitVec 1) (v0 : BitVec 4) : Statement (.qpop d a b t v0) :=
  of_word rfl rfl (by simp only [BitVec.getLsbD_append]; rfl)
theorem cont (d : BitVec 5) (a : BitVec 5) (b : BitVec 5) (v0 : BitVec 5) : Statement (.cont d a b v0) :=
  of_word rfl rfl (by simp only [BitVec.getLsbD_append]; rfl)
theorem join (d : BitVec 5) (a : BitVec 5) (v0 : BitVec 10) : Statement (.join d a v0) :=
  of_word rfl rfl (by simp only [BitVec.getLsbD_append]; rfl)
theorem steal (d : BitVec 5) (a : BitVec 5) (b : BitVec 5) (c : BitVec 5) : Statement (.steal d a b c) :=
  of_word rfl rfl (by simp only [BitVec.getLsbD_append]; rfl)
theorem qstat (d : BitVec 5) (a : BitVec 5) (v0 : BitVec 10) : Statement (.qstat d a v0) :=
  of_word rfl rfl (by simp only [BitVec.getLsbD_append]; rfl)
theorem binit (a : BitVec 5) (b : BitVec 5) (v0 : BitVec 5) (v1 : BitVec 5) : Statement (.binit a b v0 v1) :=
  of_word rfl rfl (by simp only [BitVec.getLsbD_append]; rfl)
theorem barr (d : BitVec 5) (a : BitVec 5) (b : BitVec 5) (v0 : BitVec 5) : Statement (.barr d a b v0) :=
  of_word rfl rfl (by simp only [BitVec.getLsbD_append]; rfl)
theorem barrx (d : BitVec 5) (a : BitVec 5) (b : BitVec 5) (c : BitVec 5) : Statement (.barrx d a b c) :=
  of_word rfl rfl (by simp only [BitVec.getLsbD_append]; rfl)
theorem bwait (d : BitVec 5) (a : BitVec 5) (b : BitVec 5) (c : BitVec 5) : Statement (.bwait d a b c) :=
  of_word rfl rfl (by simp only [BitVec.getLsbD_append]; rfl)
theorem bwaitp (d : BitVec 5) (a : BitVec 5) (b : BitVec 5) (c : BitVec 5) : Statement (.bwaitp d a b c) :=
  of_word rfl rfl (by simp only [BitVec.getLsbD_append]; rfl)
theorem btest (d : BitVec 5) (a : BitVec 5) (b : BitVec 5) (v0 : BitVec 5) : Statement (.btest d a b v0) :=
  of_word rfl rfl (by simp only [BitVec.getLsbD_append]; rfl)
theorem bsec (a : BitVec 5) (b : BitVec 5) (v0 : BitVec 5) (v1 : BitVec 5) : Statement (.bsec a b v0 v1) :=
  of_word rfl rfl (by simp only [BitVec.getLsbD_append]; rfl)
theorem preq (d : BitVec 5) (a : BitVec 5) (v0 : BitVec 10) : Statement (.preq d a v0) :=
  of_word rfl rfl (by simp only [BitVec.getLsbD_append]; rfl)
theorem ppin (d : BitVec 5) (a : BitVec 5) (v0 : BitVec 10) : Statement (.ppin d a v0) :=
  of_word rfl rfl (by simp only [BitVec.getLsbD_append]; rfl)
theorem punp (d : BitVec 5) (a : BitVec 5) (v0 : BitVec 10) : Statement (.punp d a v0) :=
  of_word rfl rfl (by simp only [BitVec.getLsbD_append]; rfl)
theorem pevt (d : BitVec 5) (a : BitVec 5) (v0 : BitVec 10) : Statement (.pevt d a v0) :=
  of_word rfl rfl (by simp only [BitVec.getLsbD_append]; rfl)
theorem step (d : BitVec 5) (a : BitVec 5) (b : BitVec 5) (v0 : BitVec 5) : Statement (.step d a b v0) :=
  of_word rfl rfl (by simp only [BitVec.getLsbD_append]; rfl)
theorem frz (d : BitVec 5) (a : BitVec 5) (v0 : BitVec 10) : Statement (.frz d a v0) :=
  of_word rfl rfl (by simp only [BitVec.getLsbD_append]; rfl)
theorem thaw (d : BitVec 5) (a : BitVec 5) (v0 : BitVec 10) : Statement (.thaw d a v0) :=
  of_word rfl rfl (by simp only [BitVec.getLsbD_append]; rfl)
theorem snap (d : BitVec 5) (a : BitVec 5) (b : BitVec 5) (v0 : BitVec 5) : Statement (.snap d a b v0) :=
  of_word rfl rfl (by simp only [BitVec.getLsbD_append]; rfl)
theorem cfgw (a : BitVec 5) (b : BitVec 5) (v0 : BitVec 5) (v1 : BitVec 5) : Statement (.cfgw a b v0 v1) :=
  of_word rfl rfl (by simp only [BitVec.getLsbD_append]; rfl)
theorem cfgc (d : BitVec 5) (a : BitVec 5) (v0 : BitVec 10) : Statement (.cfgc d a v0) :=
  of_word rfl rfl (by simp only [BitVec.getLsbD_append]; rfl)
theorem cfgk (d : BitVec 5) (a : BitVec 5) (v0 : BitVec 10) : Statement (.cfgk d a v0) :=
  of_word rfl rfl (by simp only [BitVec.getLsbD_append]; rfl)
theorem cfga (d : BitVec 5) (a : BitVec 5) (v0 : BitVec 10) : Statement (.cfga d a v0) :=
  of_word rfl rfl (by simp only [BitVec.getLsbD_append]; rfl)
theorem place (d : BitVec 5) (a : BitVec 5) (b : BitVec 5) (v0 : BitVec 5) : Statement (.place d a b v0) :=
  of_word rfl rfl (by simp only [BitVec.getLsbD_append]; rfl)
theorem srd (d : BitVec 5) (r : BitVec 12) (v0 : BitVec 5) : Statement (.srd d r v0) :=
  of_word rfl rfl (by simp only [BitVec.getLsbD_append]; rfl)
theorem swr (a : BitVec 5) (r : BitVec 12) (v0 : BitVec 5) : Statement (.swr a r v0) :=
  of_word rfl rfl (by simp only [BitVec.getLsbD_append]; rfl)
theorem trap (c : BitVec 12) (v0 : BitVec 10) : Statement (.trap c v0) :=
  of_word rfl rfl (by simp only [BitVec.getLsbD_append]; rfl)
theorem eret (v0 : BitVec 10) (v1 : BitVec 12) : Statement (.eret v0 v1) :=
  of_word rfl rfl (by simp only [BitVec.getLsbD_append]; rfl)
theorem wfe (v0 : BitVec 10) (v1 : BitVec 12) : Statement (.wfe v0 v1) :=
  of_word rfl rfl (by simp only [BitVec.getLsbD_append]; rfl)
theorem sev (v0 : BitVec 10) (v1 : BitVec 12) : Statement (.sev v0 v1) :=
  of_word rfl rfl (by simp only [BitVec.getLsbD_append]; rfl)
theorem brk (c : BitVec 12) (v0 : BitVec 10) : Statement (.brk c v0) :=
  of_word rfl rfl (by simp only [BitVec.getLsbD_append]; rfl)
theorem cyc (d : BitVec 5) (v0 : BitVec 5) (v1 : BitVec 12) : Statement (.cyc d v0 v1) :=
  of_word rfl rfl (by simp only [BitVec.getLsbD_append]; rfl)
theorem tlbi (a : BitVec 5) (s : BitVec 1) (g : BitVec 1) (p : BitVec 2) (v0 : BitVec 5) (v1 : BitVec 8) : Statement (.tlbi a s g p v0 v1) :=
  of_word rfl rfl (by simp only [BitVec.getLsbD_append]; rfl)
theorem sigv (a : BitVec 5) (t : BitVec 6) (v0 : BitVec 5) (v1 : BitVec 6) : Statement (.sigv a t v0 v1) :=
  of_word rfl rfl (by simp only [BitVec.getLsbD_append]; rfl)
theorem connStatus (d : BitVec 5) (a : BitVec 5) (b : BitVec 5) (v0 : BitVec 5) : Statement (.connStatus d a b v0) :=
  of_word rfl rfl (by simp only [BitVec.getLsbD_append]; rfl)
theorem connOpen (d : BitVec 5) (a : BitVec 5) (b : BitVec 5) (v0 : BitVec 5) : Statement (.connOpen d a b v0) :=
  of_word rfl rfl (by simp only [BitVec.getLsbD_append]; rfl)
theorem connClose (d : BitVec 5) (a : BitVec 5) (b : BitVec 5) (v0 : BitVec 5) : Statement (.connClose d a b v0) :=
  of_word rfl rfl (by simp only [BitVec.getLsbD_append]; rfl)
theorem connReset (d : BitVec 5) (a : BitVec 5) (b : BitVec 5) (v0 : BitVec 5) : Statement (.connReset d a b v0) :=
  of_word rfl rfl (by simp only [BitVec.getLsbD_append]; rfl)
theorem ctxs (d : BitVec 5) (a : BitVec 5) (v0 : BitVec 10) : Statement (.ctxs d a v0) :=
  of_word rfl rfl (by simp only [BitVec.getLsbD_append]; rfl)
theorem ctxl (d : BitVec 5) (a : BitVec 5) (v0 : BitVec 10) : Statement (.ctxl d a v0) :=
  of_word rfl rfl (by simp only [BitVec.getLsbD_append]; rfl)
theorem hint (h : BitVec 25) : Statement (.hint h) := of_word rfl rfl (by simp only [BitVec.getLsbD_append]; rfl)
theorem nop : Statement (.nop) := of_half rfl rfl (by decide)
theorem hintShort (h : BitVec 11) : Statement (.hintShort h) :=
  of_half rfl rfl (by simp only [BitVec.getLsbD_append]; rfl)
theorem ext (p : BitVec 11) : Statement (.ext p) := of_half rfl rfl (by simp only [BitVec.getLsbD_append]; rfl)
theorem liShort (d : BitVec 3) (i : BitVec 7) : Statement (.liShort d i) :=
  of_half rfl rfl (by simp only [BitVec.getLsbD_append]; rfl)
theorem movShort (d : BitVec 3) (a : BitVec 3) (v0 : BitVec 4) : Statement (.movShort d a v0) :=
  of_half rfl rfl (by simp only [BitVec.getLsbD_append]; rfl)
theorem addShort (d : BitVec 3) (a : BitVec 3) (b : BitVec 3) : Statement (.addShort d a b) :=
  of_half rfl rfl (by simp only [BitVec.getLsbD_append]; rfl)
theorem subShort (d : BitVec 3) (a : BitVec 3) (b : BitVec 3) : Statement (.subShort d a b) :=
  of_half rfl rfl (by simp only [BitVec.getLsbD_append]; rfl)
theorem addiShortPos (d : BitVec 3) (a : BitVec 3) (k : BitVec 3) : Statement (.addiShortPos d a k) :=
  of_half rfl rfl (by simp only [BitVec.getLsbD_append]; rfl)
theorem addiShortNeg (d : BitVec 3) (a : BitVec 3) (k : BitVec 3) : Statement (.addiShortNeg d a k) :=
  of_half rfl rfl (by simp only [BitVec.getLsbD_append]; rfl)
theorem vaddF32Short (d : BitVec 3) (a : BitVec 3) (b : BitVec 3) : Statement (.vaddF32Short d a b) :=
  of_half rfl rfl (by simp only [BitVec.getLsbD_append]; rfl)
theorem vmulF32Short (d : BitVec 3) (a : BitVec 3) (b : BitVec 3) : Statement (.vmulF32Short d a b) :=
  of_half rfl rfl (by simp only [BitVec.getLsbD_append]; rfl)
theorem vfmaF32Short (d : BitVec 3) (a : BitVec 3) (b : BitVec 3) : Statement (.vfmaF32Short d a b) :=
  of_half rfl rfl (by simp only [BitVec.getLsbD_append]; rfl)
theorem vaddI32Short (d : BitVec 3) (a : BitVec 3) (b : BitVec 3) : Statement (.vaddI32Short d a b) :=
  of_half rfl rfl (by simp only [BitVec.getLsbD_append]; rfl)
theorem sendShort (s : BitVec 3) (n : BitVec 3) (o : BitVec 4) : Statement (.sendShort s n o) :=
  of_half rfl rfl (by simp only [BitVec.getLsbD_append]; rfl)
theorem sendIncShort (s : BitVec 3) (n : BitVec 3) (o : BitVec 4) : Statement (.sendIncShort s n o) :=
  of_half rfl rfl (by simp only [BitVec.getLsbD_append]; rfl)
theorem ldsShort (t : BitVec 3) (a : BitVec 3) (o : BitVec 4) : Statement (.ldsShort t a o) :=
  of_half rfl rfl (by simp only [BitVec.getLsbD_append]; rfl)
theorem stsShort (t : BitVec 3) (a : BitVec 3) (o : BitVec 4) : Statement (.stsShort t a o) :=
  of_half rfl rfl (by simp only [BitVec.getLsbD_append]; rfl)
theorem bzShort (a : BitVec 3) (o : BitVec 7) : Statement (.bzShort a o) :=
  of_half rfl rfl (by simp only [BitVec.getLsbD_append]; rfl)
theorem bnzShort (a : BitVec 3) (o : BitVec 7) : Statement (.bnzShort a o) :=
  of_half rfl rfl (by simp only [BitVec.getLsbD_append]; rfl)
theorem seqShort (d : BitVec 3) (a : BitVec 3) (b : BitVec 3) : Statement (.seqShort d a b) :=
  of_half rfl rfl (by simp only [BitVec.getLsbD_append]; rfl)
theorem sltShort (d : BitVec 3) (a : BitVec 3) (b : BitVec 3) : Statement (.sltShort d a b) :=
  of_half rfl rfl (by simp only [BitVec.getLsbD_append]; rfl)
theorem sltnShort (d : BitVec 3) (a : BitVec 3) (b : BitVec 3) : Statement (.sltnShort d a b) :=
  of_half rfl rfl (by simp only [BitVec.getLsbD_append]; rfl)
theorem selShort (d : BitVec 3) (a : BitVec 3) (b : BitVec 3) : Statement (.selShort d a b) :=
  of_half rfl rfl (by simp only [BitVec.getLsbD_append]; rfl)
theorem illegalEncoding : Statement (.illegalEncoding) := of_none rfl rfl
theorem asyncCauseTaken (k : Nat) : Statement (.asyncCauseTaken k) := of_none rfl rfl
theorem waitComplete (k : Nat) : Statement (.waitComplete k) := of_none rfl rfl
theorem tokenResolve (n : Nat) : Statement (.tokenResolve n) := of_none rfl rfl
theorem tokenDelivery (n : Nat) : Statement (.tokenDelivery n) := of_none rfl rfl
theorem taskAdmission (t : Nat) : Statement (.taskAdmission t) := of_none rfl rfl
theorem latchRelease (t : Nat) : Statement (.latchRelease t) := of_none rfl rfl
theorem dispatchPop (k : Nat) (p : Nat) : Statement (.dispatchPop k p) := of_none rfl rfl
theorem matrixFire (t : Nat) : Statement (.matrixFire t) := of_none rfl rfl
theorem reducePartial (t : Nat) (i : Nat) : Statement (.reducePartial t i) := of_none rfl rfl
theorem reduceEor (t : Nat) (i : Nat) : Statement (.reduceEor t i) := of_none rfl rfl
theorem mapFire (t : Nat) : Statement (.mapFire t) := of_none rfl rfl
theorem convertFire (t : Nat) : Statement (.convertFire t) := of_none rfl rfl
theorem mergeHoldExpiry (t : Nat) : Statement (.mergeHoldExpiry t) := of_none rfl rfl
theorem selectFire (t : Nat) : Statement (.selectFire t) := of_none rfl rfl
theorem lutFire (t : Nat) : Statement (.lutFire t) := of_none rfl rfl
theorem lutDataAccess (t : Nat) (w : Option (BitVec 32)) : Statement (.lutDataAccess t w) := of_none rfl rfl
theorem filterFire (t : Nat) : Statement (.filterFire t) := of_none rfl rfl
theorem countFire (t : Nat) : Statement (.countFire t) := of_none rfl rfl
theorem memoryLoadseq (t : Nat) : Statement (.memoryLoadseq t) := of_none rfl rfl
theorem memoryGather (t : Nat) : Statement (.memoryGather t) := of_none rfl rfl
theorem memoryStoreseq (t : Nat) : Statement (.memoryStoreseq t) := of_none rfl rfl
theorem memoryScatter (t : Nat) : Statement (.memoryScatter t) := of_none rfl rfl
theorem memoryAtomic (t : Nat) : Statement (.memoryAtomic t) := of_none rfl rfl
theorem memoryPort (t : Nat) : Statement (.memoryPort t) := of_none rfl rfl
theorem mergeFire (t : Nat) (i : Nat) : Statement (.mergeFire t i) := of_none rfl rfl
theorem splitFire (t : Nat) : Statement (.splitFire t) := of_none rfl rfl
theorem delayWindow (t : Nat) : Statement (.delayWindow t) := of_none rfl rfl
theorem delayHold (t : Nat) : Statement (.delayHold t) := of_none rfl rfl
theorem engineStep (t : Nat) : Statement (.engineStep t) := of_none rfl rfl
theorem promotionWindow (t : Nat) (a : Nat) : Statement (.promotionWindow t a) := of_none rfl rfl
theorem maccPerform (t : Nat) : Statement (.maccPerform t) := of_none rfl rfl
theorem mzeroPerform (t : Nat) : Statement (.mzeroPerform t) := of_none rfl rfl
theorem meorPerform (t : Nat) : Statement (.meorPerform t) := of_none rfl rfl
theorem fetchComplete (t : Nat) (h : Nat) : Statement (.fetchComplete t h) := of_none rfl rfl
theorem fetchFault (t : Nat) (h : Nat) : Statement (.fetchFault t h) := of_none rfl rfl
theorem prefetchComplete (k : Nat) (n : Nat) : Statement (.prefetchComplete k n) := of_none rfl rfl
theorem sectorDecrement (k : Nat) (n : Nat) : Statement (.sectorDecrement k n) := of_none rfl rfl
theorem copyComplete (k : Nat) (n : Nat) : Statement (.copyComplete k n) := of_none rfl rfl
theorem transferFault (k : Nat) (n : Nat) : Statement (.transferFault k n) := of_none rfl rfl
theorem sourceUe (k : Nat) (n : Nat) : Statement (.sourceUe k n) := of_none rfl rfl
theorem triggerToken (k : Nat) (q : Nat) : Statement (.triggerToken k q) := of_none rfl rfl
theorem streamLineStore (d : Nat) : Statement (.streamLineStore d) := of_none rfl rfl
theorem streamLineTokens (d : Nat) : Statement (.streamLineTokens d) := of_none rfl rfl
theorem strmoComplete (k : Nat) (n : Nat) : Statement (.strmoComplete k n) := of_none rfl rfl
theorem strmbComplete (k : Nat) (n : Nat) : Statement (.strmbComplete k n) := of_none rfl rfl
theorem sigvResult (k : Nat) (n : Nat) : Statement (.sigvResult k n) := of_none rfl rfl
theorem bufferEdgeRemove (k : Nat) (n : Nat) : Statement (.bufferEdgeRemove k n) := of_none rfl rfl
theorem ptsTick (g : Agent) : Statement (.ptsTick g) := of_none rfl rfl
theorem leaseRollover (g : Agent) : Statement (.leaseRollover g) := of_none rfl rfl
theorem bankCtrlWrite (k : Nat) (n : Nat) (w : BitVec 32) : Statement (.bankCtrlWrite k n w) := of_none rfl rfl
theorem bankSwitchCommit (k : Nat) (n : Nat) : Statement (.bankSwitchCommit k n) := of_none rfl rfl
theorem stragglerOpen (n : Nat) : Statement (.stragglerOpen n) := of_none rfl rfl
theorem contextOpen (c : Nat) : Statement (.contextOpen c) := of_none rfl rfl
theorem contextClose (c : Nat) : Statement (.contextClose c) := of_none rfl rfl
theorem contextKill (c : Nat) : Statement (.contextKill c) := of_none rfl rfl
theorem contextReleased (c : Nat) : Statement (.contextReleased c) := of_none rfl rfl
theorem tenantSliceEnd : Statement (.tenantSliceEnd) := of_none rfl rfl
theorem tswDone (k : Nat) : Statement (.tswDone k) := of_none rfl rfl
theorem tswTimeout (k : Nat) : Statement (.tswTimeout k) := of_none rfl rfl
theorem queueEnable (c : Nat) (q : Nat) : Statement (.queueEnable c q) := of_none rfl rfl
theorem queueDisable (c : Nat) (q : Nat) : Statement (.queueDisable c q) := of_none rfl rfl
theorem doorbell (c : Nat) (q : Nat) (w : BitVec 64) : Statement (.doorbell c q w) := of_none rfl rfl
theorem load (c : Nat) (q : Nat) : Statement (.load c q) := of_none rfl rfl
theorem launch (c : Nat) (q : Nat) : Statement (.launch c q) := of_none rfl rfl
theorem cancel (c : Nat) (q : Nat) : Statement (.cancel c q) := of_none rfl rfl
theorem unload (c : Nat) (q : Nat) : Statement (.unload c q) := of_none rfl rfl
theorem admissionDecision : Statement (.admissionDecision) := of_none rfl rfl
theorem jobQuiescent (c : Nat) (j : Nat) : Statement (.jobQuiescent c j) := of_none rfl rfl
theorem jobWatchdog (c : Nat) (j : Nat) : Statement (.jobWatchdog c j) := of_none rfl rfl
theorem pageFetchDone (p : Nat) : Statement (.pageFetchDone p) := of_none rfl rfl
theorem pagePlacement (p : Nat) : Statement (.pagePlacement p) := of_none rfl rfl
theorem pageInstallDone (p : Nat) : Statement (.pageInstallDone p) := of_none rfl rfl
theorem pageDrainDone (p : Nat) : Statement (.pageDrainDone p) := of_none rfl rfl
theorem pageReadoutDone (p : Nat) : Statement (.pageReadoutDone p) := of_none rfl rfl
theorem relocationAck (c : Nat) (j : Nat) (d : Nat) : Statement (.relocationAck c j d) := of_none rfl rfl
theorem lagoonDrain (p : Nat) : Statement (.lagoonDrain p) := of_none rfl rfl
theorem defragMigrate (p : Nat) : Statement (.defragMigrate p) := of_none rfl rfl
theorem migrationDone (p : Nat) : Statement (.migrationDone p) := of_none rfl rfl
theorem snapshotDone (c : Nat) (j : Nat) : Statement (.snapshotDone c j) := of_none rfl rfl
theorem spillTimeout (c : Nat) : Statement (.spillTimeout c) := of_none rfl rfl
theorem circuitReady (e : Nat) : Statement (.circuitReady e) := of_none rfl rfl
theorem circuitLocked (e : Nat) : Statement (.circuitLocked e) := of_none rfl rfl
theorem tuningTimeout (e : Nat) : Statement (.tuningTimeout e) := of_none rfl rfl
theorem circuitDrained (e : Nat) : Statement (.circuitDrained e) := of_none rfl rfl
theorem linkFail (e : Nat) (w : BitVec 2) : Statement (.linkFail e w) := of_none rfl rfl
theorem xDieReset : Statement (.xDieReset) := of_none rfl rfl
theorem flitReceive (e : Nat) (good : Bool) : Statement (.flitReceive e good) := of_none rfl rfl
theorem flitResend (e : Nat) : Statement (.flitResend e) := of_none rfl rfl
theorem portEnable (d : Nat) : Statement (.portEnable d) := of_none rfl rfl
theorem portDisable (d : Nat) : Statement (.portDisable d) := of_none rfl rfl
theorem portFence (d : Nat) : Statement (.portFence d) := of_none rfl rfl
theorem portTrained (d : Nat) : Statement (.portTrained d) := of_none rfl rfl
theorem portLockLost (d : Nat) : Statement (.portLockLost d) := of_none rfl rfl
theorem lineFrame (d : Nat) (f : List (BitVec 8)) : Statement (.lineFrame d f) := of_none rfl rfl
theorem advTimer (d : Nat) : Statement (.advTimer d) := of_none rfl rfl
theorem trheadWrite (k : Nat) (w : BitVec 64) : Statement (.trheadWrite k w) := of_none rfl rfl
theorem resume (k : Nat) (n : Nat) : Statement (.resume k n) := of_none rfl rfl
theorem discard (k : Nat) (n : Nat) : Statement (.discard k n) := of_none rfl rfl
theorem fenceGang (k : Nat) (n : Nat) : Statement (.fenceGang k n) := of_none rfl rfl
theorem fenceJob (k : Nat) (n : Nat) : Statement (.fenceJob k n) := of_none rfl rfl
theorem fenceCtx (k : Nat) (n : Nat) : Statement (.fenceCtx k n) := of_none rfl rfl
theorem softErrorDetect (u : ErrUnit) : Statement (.softErrorDetect u) := of_none rfl rfl
theorem moduleReset (err : BitVec 8) (present : BitVec 4) : Statement (.moduleReset err present) := of_none rfl rfl
theorem isleReset (k : Nat) (hold : Bool) : Statement (.isleReset k hold) := of_none rfl rfl
theorem attestationStart (w : BitVec 64) : Statement (.attestationStart w) := of_none rfl rfl
theorem attestationDone : Statement (.attestationDone) := of_none rfl rfl
theorem supplySag (d : Nat) : Statement (.supplySag d) := of_none rfl rfl
theorem stretchEnd (d : Nat) : Statement (.stretchEnd d) := of_none rfl rfl
theorem rcRegisterRead (g : Nat) : Statement (.rcRegisterRead g) := of_none rfl rfl
theorem registerWrite (g : Nat) (w : BitVec 64) : Statement (.registerWrite g w) := of_none rfl rfl
theorem leaseRebase : Statement (.leaseRebase) := of_none rfl rfl
theorem leaseBridgeAccess (h : Nat) (op : HostOp) (g : Nat) (w : BitVec 64) : Statement (.leaseBridgeAccess h op g w) :=
  of_none rfl rfl
theorem ioPathAccess (wr : Bool) (g : Nat) (w : BitVec 64) : Statement (.ioPathAccess wr g w) := of_none rfl rfl
theorem tokenBucketRefill (n : Nat) (c : Nat) : Statement (.tokenBucketRefill n c) := of_none rfl rfl

end Sys2Proof.Laws.Wf
end

