-- ==== Sys2Proof/Laws/Unit.lean ====
section
/-! SUPPORT. The frame of a unit: which check of R94 ends it, and that one which passes them all comes to its body. -/

namespace Sys2Proof.Machine

/-- The checks of R94 on a control core, passed. -/
structure CorePart.Passes (p : CorePart) (ext : Bool) (cr : Core) : Prop where
  bare : ext = false → cr.pfx = none
  mode : modeLe p.mode cr.mode = true
  rsv : p.rsv = true
  fmt : p.fmt = true

/-- A unit on a control core that passes the checks comes to its body. -/
theorem runCore_body {len : Nat} {ext : Bool} {p : CorePart} {k : Nat} {s : State}
    (h : p.Passes ext (s.core k)) : runCore len ext p k s = settleCore k len (p.body k s) := by
  obtain ⟨hb, hm, hr, hf⟩ := h
  cases ext <;> simp [runCore, hm, hr, hf] at hb ⊢
  simp [hb]

/-- A prefix on a unit that takes none (R91, R94). -/
theorem runCore_orphan {len : Nat} {p : CorePart} {k : Nat} {s : State} (h : (s.core k).pfx.isSome) :
    runCore len false p k s = raiseCore s k .prefixOrphan 0 := by
  simp [runCore, h]

/-- A unit of a higher mode (R94, R100). -/
theorem runCore_priv {len : Nat} {ext : Bool} {p : CorePart} {k : Nat} {s : State}
    (hb : ext = false → (s.core k).pfx = none) (hm : modeLe p.mode (s.core k).mode = false) :
    runCore len ext p k s = raiseCore s k .priv 0 := by
  cases ext <;> simp [runCore, hm] at hb ⊢
  simp [hb]

/-- A unit with a reserved field or code (R87, R94). -/
theorem runCore_reserved {len : Nat} {ext : Bool} {p : CorePart} {k : Nat} {s : State}
    (hb : ext = false → (s.core k).pfx = none) (hm : modeLe p.mode (s.core k).mode = true) (hr : p.rsv = false) :
    runCore len ext p k s = raiseCore s k .reservedField 0 := by
  cases ext <;> simp [runCore, hm, hr] at hb ⊢
  simp [hb]

theorem unitC_core {len : Nat} {ext : Bool} {p : CorePart} {k : Nat} {s : State} (h : s.active = .core k) :
    unitC len ext p s = runCore len ext p k s := by simp [unitC, h]

theorem unitC_cell {len : Nat} {ext : Bool} {p : CorePart} {t : Nat} {s : State} (h : s.active = .cell t) :
    unitC len ext p s = wrongClassCell ext t s := by simp [unitC, h]

theorem unitL_core {len : Nat} {ext : Bool} {p : CellPart} {k : Nat} {s : State} (h : s.active = .core k) :
    unitL len ext p s = wrongClassCore ext k s := by simp [unitL, h]

theorem unitL_cell {len : Nat} {ext : Bool} {p : CellPart} {t : Nat} {s : State} (h : s.active = .cell t) :
    unitL len ext p s = runCell len ext p t s := by simp [unitL, h]

theorem unitCL_core {len : Nat} {ext : Bool} {p : CorePart} {q : CellPart} {k : Nat} {s : State}
    (h : s.active = .core k) : unitCL len ext p q s = runCore len ext p k s := by simp [unitCL, h]

theorem unitCL_cell {len : Nat} {ext : Bool} {p : CorePart} {q : CellPart} {t : Nat} {s : State}
    (h : s.active = .cell t) : unitCL len ext p q s = runCell len ext q t s := by simp [unitCL, h]

/-- The checks of R94 and the limits of R154 in a cell, passed. -/
structure CellPart.Passes (p : CellPart) (ext : Bool) (q : Task) (t : Nat) : Prop where
  bare : ext = false → q.pfx = none
  units : q.pfx = none → q.units < 128
  tile : p.mTile = true → tileKind t = .m
  legal : p.legal = true
  rsv : p.rsv = true
  fmt : p.fmt = true
  cycles : q.cycles + (p.cost + b2n q.pfx.isSome) ≤ 512

/-- A unit in a cell that passes the checks comes to its body. -/
theorem runCell_body {len : Nat} {ext : Bool} {p : CellPart} {t : Nat} {s : State} {q : Task}
    (hq : (s.cell t).task = some q) (h : p.Passes ext q t) :
    runCell len ext p t s = settleCell t len (p.cost + b2n q.pfx.isSome) (p.body t s) := by
  obtain ⟨hb, hu, ht, hl, hr, hf, hc⟩ := h
  have hx : (q.pfx.isSome && !ext) = false := by
    cases ext
    · simp [hb rfl]
    · simp
  have hv : (q.pfx.isNone && decide (128 ≤ q.units)) = false := by
    cases hp : q.pfx <;> simp
    exact hu hp
  have hm : (p.mTile && decide (tileKind t ≠ .m)) = false := by
    cases hm' : p.mTile <;> simp
    exact ht hm'
  have hc' : ¬ 512 < q.cycles + (p.cost + b2n q.pfx.isSome) := by omega
  simp only [runCell, hq, hx, hv, hm, hl, hr, hf, if_neg hc']
  simp

end Sys2Proof.Machine
end

