-- ==== Sys2Proof/Tests/Slice0.lean ====
section
/-! SUPPORT. Tests: well-formedness, words of the encoding, single units of instructions, and for each statement of
Certificates/Slice0 a state and operands that meet its hypotheses. Expected values are worked out from the rules that each test names. -/

namespace Sys2Proof.Tests

set_option Elab.async false

open Sys2Proof Sys2Proof.Machine Sys2Proof.Safety Sys2Proof.Claims

/-! ### Well-formedness -/

/-- Every check of `wellFormed` refuses a term: a reserved field that is not zero, a code or a number one past its end. -/
theorem test_ill_formed_1 :
    ([.add 0 0 0 1, .sub 0 0 0 1, .mul 0 0 0 1, .mulh 0 0 0 1, .mulhn 0 0 0 1, .div 0 0 0 1, .divn 0 0 0 1, .rem 0 0 0 1,
      .remn 0 0 0 1, .and 0 0 0 1, .or 0 0 0 1, .xor 0 0 0 1, .shl 0 0 0 1, .shr 0 0 0 1, .sra 0 0 0 1, .rotr 0 0 0 1,
      .min 0 0 0 1, .max 0 0 0 1, .minn 0 0 0 1, .maxn 0 0 0 1, .seq 0 0 0 1, .slt 0 0 0 1, .sltn 0 0 0 1, .adds 0 0 0 1,
      .neg 0 0 1, .clz 0 0 1, .ctz 0 0 1, .popc 0 0 1, .mov 0 0 1, .sext 0 0 0 1, .zext 0 0 0 1, .shli 0 0 0 1,
      .shri 0 0 0 1, .srai 0 0 0 1, .bz 0 0 1, .bnz 0 0 1, .halt 1 0, .halt 0 1, .fadd 0 0 0 1, .fsub 0 0 0 1] : List Instr).all (fun i => !wellFormed i) = true := by decide

/-- Every check of `wellFormed` refuses a term: a reserved field that is not zero, a code or a number one past its end. -/
theorem test_ill_formed_2 :
    ([.fmul 0 0 0 1, .fdiv 0 0 0 1, .fsqrt 0 0 1, .fmin 0 0 0 1, .fmax 0 0 0 1, .feq 0 0 0 1, .flt 0 0 0 1, .fle 0 0 0 1,
      .fclass 0 0 1, .fmv 0 0 1, .fcvt 0 0 0 0 1, .pref 0 0 0 1 0, .pref 0 0 0 0 1, .amo 0 0 0 0 8 1, .amo 0 0 0 0 9 0,
      .cas 0 0 0 0 1, .amos 0 0 0 0 8 1, .amos 0 0 0 0 9 0, .tsb 0 0 0 1, .tcb 0 0 0 1, .fence 0 0 1, .ownDecl 0 0 0 1,
      .ownGive 0 0 0 1, .ownTake 0 0 1, .ownDrop 0 0 1, .vabs 0 0 0 0 1, .vneg 0 0 0 0 1, .vand 0 0 0 0 1, .vor 0 0 0 0 1,
      .vxor 0 0 0 0 1, .vshl 0 0 0 0 1, .vshr 0 0 0 0 1, .vsra 0 0 0 0 1, .vsel 0 0 0 0 1, .vred 0 0 0 0 1, .vrcp 0 0 0 1,
      .vrsq 0 0 0 1, .vexp2 0 0 0 1, .vlog2 0 0 0 1, .vcmp 0 0 0 0 0 6] : List Instr).all (fun i => !wellFormed i) = true := by decide

/-- Every check of `wellFormed` refuses a term: a reserved field that is not zero, a code or a number one past its end. -/
theorem test_ill_formed_3 :
    ([.vcvt 0 0 0 0 1 0, .vcvt 0 0 0 0 0 1, .vpack 0 0 0 0 1, .vunpk 0 0 0 0 1, .vperm 0 0 0 0 1, .vbcst 0 0 0 0 1,
      .vlen 0 0 0 1, .vcat 0 0 0 0 1, .vspl 0 0 0 1, .vidx 0 0 1, .sende 0 0 0 1 0, .sende 0 0 0 0 1, .sendr 0 0 0 0 1,
      .sendm 0 0 0 0 1, .sendo 0 0 0 1 0, .sendo 0 0 0 0 1, .hdr 0 0 0 1, .tagx 0 0 0 1, .falloc 0 1, .ffree 0 1 0,
      .ffree 0 0 1, .fsto 0 0 0 0 1 0, .fsto 0 0 0 0 0 1, .fldo 0 0 0 1, .inj 0 0 1 0, .inj 0 0 0 1, .sld 0 0 1, .sst 0 0 1,
      .sbind 0 0 1, .sunb 0 1, .snorm 0 0 1, .scpy 0 0 1, .sgen 0 0 1, .szero 0 1, .trel 0 1 0, .trel 0 0 1, .mma 0 0 0 1,
      .mmai 0 0 0 1, .macc 0 0 1 0, .macc 0 0 0 1] : List Instr).all (fun i => !wellFormed i) = true := by decide

/-- Every check of `wellFormed` refuses a term: a reserved field that is not zero, a code or a number one past its end. -/
theorem test_ill_formed_4 :
    ([.mzero 0 1 0, .mzero 0 0 1, .meor 0 0 1 0, .meor 0 0 0 1, .mrd 0 0 0 1, .opw 0 0 1 0, .opw 0 0 0 1, .opr 0 0 1,
      .opsnap 0 0 0 1, .cpy 0 0 0 1, .cpyb 0 0 0 1, .ctdis 0 0 1, .strmi 0 0 0 1, .strmiStop 1 0 0 0, .strmiStop 0 1 0 0,
      .strmiStop 0 0 0 1, .strmo 0 0 0 1, .strms 0 0 1 0, .strms 0 0 0 1, .strmsStop 1 0 0 0, .strmsStop 0 0 1 0,
      .strmsStop 0 0 0 1, .strmb 0 1, .cwany 0 0 1, .cwall 0 1 0, .cwall 0 0 1, .cffr 0 0 1, .qpush 0 0 0 0 1,
      .qpop 0 0 0 0 1, .cont 0 0 0 1, .join 0 0 1, .qstat 0 0 1, .binit 0 0 1 0, .binit 0 0 0 1, .barr 0 0 0 1,
      .btest 0 0 0 1, .bsec 0 0 1 0, .bsec 0 0 0 1, .preq 0 0 1, .ppin 0 0 1] : List Instr).all (fun i => !wellFormed i) = true := by decide

/-- Every check of `wellFormed` refuses a term: a reserved field that is not zero, a code or a number one past its end. -/
theorem test_ill_formed_5 :
    ([.punp 0 0 1, .pevt 0 0 1, .step 0 0 0 1, .frz 0 0 1, .thaw 0 0 1, .snap 0 0 0 1, .cfgw 0 0 1 0, .cfgw 0 0 0 1,
      .cfgc 0 0 1, .cfgk 0 0 1, .cfga 0 0 1, .place 0 0 0 1, .srd 0 0 1, .swr 0 0 1, .trap 0 1, .eret 1 0, .eret 0 1,
      .wfe 1 0, .wfe 0 1, .sev 1 0, .sev 0 1, .brk 0 1, .cyc 0 1 0, .cyc 0 0 1, .tlbi 0 0 0 0 1 0, .tlbi 0 0 0 0 0 1,
      .sigv 0 0 1 0, .sigv 0 0 0 1, .connStatus 0 0 0 1, .connOpen 0 0 0 1, .connClose 0 0 0 1, .connReset 0 0 0 1,
      .ctxs 0 0 1, .ctxl 0 0 1, .hintShort 0, .movShort 0 0 1, .asyncCauseTaken 64, .waitComplete 64, .taskAdmission 8192,
      .latchRelease 8192] : List Instr).all (fun i => !wellFormed i) = true := by decide

/-- Every check of `wellFormed` refuses a term: a reserved field that is not zero, a code or a number one past its end. -/
theorem test_ill_formed_6 :
    ([.dispatchPop 64 0, .matrixFire 8192, .reducePartial 8192 0, .reduceEor 8192 0, .mapFire 8192, .convertFire 8192,
      .mergeHoldExpiry 8192, .selectFire 8192, .lutFire 8192, .lutDataAccess 8192 none, .filterFire 8192, .countFire 8192,
      .memoryLoadseq 8192, .memoryGather 8192, .memoryStoreseq 8192, .memoryScatter 8192, .memoryAtomic 8192,
      .memoryPort 8192, .mergeFire 8192 0, .splitFire 8192, .delayWindow 8192, .delayHold 8192, .engineStep 8192,
      .promotionWindow 8192 0, .maccPerform 8192, .mzeroPerform 8192, .meorPerform 8192, .fetchComplete 8192 0,
      .fetchFault 8192 0, .prefetchComplete 64 0, .sectorDecrement 64 0, .copyComplete 64 0, .transferFault 64 0,
      .sourceUe 64 0, .triggerToken 64 0, .streamLineStore 4, .streamLineTokens 4, .strmoComplete 64 0, .strmbComplete 64 0,
      .sigvResult 64 0] : List Instr).all (fun i => !wellFormed i) = true := by decide

/-- Every check of `wellFormed` refuses a term: a reserved field that is not zero, a code or a number one past its end. -/
theorem test_ill_formed_7 :
    ([.bufferEdgeRemove 64 0, .bankCtrlWrite 64 0 0, .bankSwitchCommit 64 0, .contextOpen 256, .contextClose 256,
      .contextKill 256, .contextReleased 256, .tswDone 64, .tswTimeout 64, .queueEnable 256 0, .queueDisable 256 0,
      .doorbell 256 0 0, .load 256 0, .launch 256 0, .cancel 256 0, .unload 256 0, .jobQuiescent 256 0, .jobWatchdog 256 0,
      .relocationAck 256 0 3, .relocationAck 255 0 4, .snapshotDone 256 0, .spillTimeout 256, .circuitReady 64,
      .circuitLocked 64, .tuningTimeout 64, .circuitDrained 64, .linkFail 64 0, .flitReceive 64 false, .flitResend 64,
      .portEnable 4, .portDisable 4, .portFence 4, .portTrained 4, .portLockLost 4, .lineFrame 4 [], .advTimer 4,
      .trheadWrite 64 0, .resume 64 0, .discard 64 0, .fenceGang 64 0] : List Instr).all (fun i => !wellFormed i) = true := by decide

/-- Every check of `wellFormed` refuses a term: a reserved field that is not zero, a code or a number one past its end. -/
theorem test_ill_formed_8 :
    ([.fenceJob 64 0, .fenceCtx 64 0, .isleReset 64 false, .supplySag 4, .stretchEnd 4, .tokenBucketRefill 0 256] : List Instr).all (fun i => !wellFormed i) = true := by decide

/-- The same constructors with reserved fields of zero and with the last code and number. -/
theorem test_well_formed_1 :
    ([.add 0 0 0 0, .sub 0 0 0 0, .mul 0 0 0 0, .mulh 0 0 0 0, .mulhn 0 0 0 0, .div 0 0 0 0, .divn 0 0 0 0, .rem 0 0 0 0,
      .remn 0 0 0 0, .and 0 0 0 0, .or 0 0 0 0, .xor 0 0 0 0, .shl 0 0 0 0, .shr 0 0 0 0, .sra 0 0 0 0, .rotr 0 0 0 0,
      .min 0 0 0 0, .max 0 0 0 0, .minn 0 0 0 0, .maxn 0 0 0 0, .seq 0 0 0 0, .slt 0 0 0 0, .sltn 0 0 0 0, .adds 0 0 0 0,
      .neg 0 0 0, .clz 0 0 0, .ctz 0 0 0, .popc 0 0 0, .mov 0 0 0, .sext 0 0 0 0, .zext 0 0 0 0, .shli 0 0 0 0,
      .shri 0 0 0 0, .srai 0 0 0 0, .bz 0 0 0, .bnz 0 0 0, .halt 0 0, .fadd 0 0 0 0, .fsub 0 0 0 0, .fmul 0 0 0 0] : List Instr).all (fun i => wellFormed i) = true := by decide

/-- The same constructors with reserved fields of zero and with the last code and number. -/
theorem test_well_formed_2 :
    ([.fdiv 0 0 0 0, .fsqrt 0 0 0, .fmin 0 0 0 0, .fmax 0 0 0 0, .feq 0 0 0 0, .flt 0 0 0 0, .fle 0 0 0 0, .fclass 0 0 0,
      .fmv 0 0 0, .fcvt 0 0 0 0 0, .pref 0 0 0 0 0, .amo 0 0 0 0 8 0, .cas 0 0 0 0 0, .amos 0 0 0 0 8 0, .tsb 0 0 0 0,
      .tcb 0 0 0 0, .fence 0 0 0, .ownDecl 0 0 0 0, .ownGive 0 0 0 0, .ownTake 0 0 0, .ownDrop 0 0 0, .vabs 0 0 0 0 0,
      .vneg 0 0 0 0 0, .vand 0 0 0 0 0, .vor 0 0 0 0 0, .vxor 0 0 0 0 0, .vshl 0 0 0 0 0, .vshr 0 0 0 0 0, .vsra 0 0 0 0 0,
      .vsel 0 0 0 0 0, .vred 0 0 0 0 0, .vrcp 0 0 0 0, .vrsq 0 0 0 0, .vexp2 0 0 0 0, .vlog2 0 0 0 0, .vcmp 0 0 0 0 0 5,
      .vcvt 0 0 0 0 0 0, .vpack 0 0 0 0 0, .vunpk 0 0 0 0 0, .vperm 0 0 0 0 0] : List Instr).all (fun i => wellFormed i) = true := by decide

/-- The same constructors with reserved fields of zero and with the last code and number. -/
theorem test_well_formed_3 :
    ([.vbcst 0 0 0 0 0, .vlen 0 0 0 0, .vcat 0 0 0 0 0, .vspl 0 0 0 0, .vidx 0 0 0, .sende 0 0 0 0 0, .sendr 0 0 0 0 0,
      .sendm 0 0 0 0 0, .sendo 0 0 0 0 0, .hdr 0 0 0 0, .tagx 0 0 0 0, .falloc 0 0, .ffree 0 0 0, .fsto 0 0 0 0 0 0,
      .fldo 0 0 0 0, .inj 0 0 0 0, .sld 0 0 0, .sst 0 0 0, .sbind 0 0 0, .sunb 0 0, .snorm 0 0 0, .scpy 0 0 0, .sgen 0 0 0,
      .szero 0 0, .trel 0 0 0, .mma 0 0 0 0, .mmai 0 0 0 0, .macc 0 0 0 0, .mzero 0 0 0, .meor 0 0 0 0, .mrd 0 0 0 0,
      .opw 0 0 0 0, .opr 0 0 0, .opsnap 0 0 0 0, .cpy 0 0 0 0, .cpyb 0 0 0 0, .ctdis 0 0 0, .strmi 0 0 0 0,
      .strmiStop 0 0 0 0, .strmo 0 0 0 0] : List Instr).all (fun i => wellFormed i) = true := by decide

/-- The same constructors with reserved fields of zero and with the last code and number. -/
theorem test_well_formed_4 :
    ([.strms 0 0 0 0, .strmsStop 0 0 0 0, .strmb 0 0, .cwany 0 0 0, .cwall 0 0 0, .cffr 0 0 0, .qpush 0 0 0 0 0,
      .qpop 0 0 0 0 0, .cont 0 0 0 0, .join 0 0 0, .qstat 0 0 0, .binit 0 0 0 0, .barr 0 0 0 0, .btest 0 0 0 0,
      .bsec 0 0 0 0, .preq 0 0 0, .ppin 0 0 0, .punp 0 0 0, .pevt 0 0 0, .step 0 0 0 0, .frz 0 0 0, .thaw 0 0 0,
      .snap 0 0 0 0, .cfgw 0 0 0 0, .cfgc 0 0 0, .cfgk 0 0 0, .cfga 0 0 0, .place 0 0 0 0, .srd 0 0 0, .swr 0 0 0, .trap 0 0,
      .eret 0 0, .wfe 0 0, .sev 0 0, .brk 0 0, .cyc 0 0 0, .tlbi 0 0 0 0 0 0, .sigv 0 0 0 0, .connStatus 0 0 0 0,
      .connOpen 0 0 0 0] : List Instr).all (fun i => wellFormed i) = true := by decide

/-- The same constructors with reserved fields of zero and with the last code and number. -/
theorem test_well_formed_5 :
    ([.connClose 0 0 0 0, .connReset 0 0 0 0, .ctxs 0 0 0, .ctxl 0 0 0, .hintShort 1, .movShort 0 0 0, .asyncCauseTaken 63,
      .waitComplete 63, .taskAdmission 8191, .latchRelease 8191, .dispatchPop 63 0, .matrixFire 8191, .reducePartial 8191 0,
      .reduceEor 8191 0, .mapFire 8191, .convertFire 8191, .mergeHoldExpiry 8191, .selectFire 8191, .lutFire 8191,
      .lutDataAccess 8191 none, .filterFire 8191, .countFire 8191, .memoryLoadseq 8191, .memoryGather 8191,
      .memoryStoreseq 8191, .memoryScatter 8191, .memoryAtomic 8191, .memoryPort 8191, .mergeFire 8191 0, .splitFire 8191,
      .delayWindow 8191, .delayHold 8191, .engineStep 8191, .promotionWindow 8191 0, .maccPerform 8191, .mzeroPerform 8191,
      .meorPerform 8191, .fetchComplete 8191 0, .fetchFault 8191 0, .prefetchComplete 63 0] : List Instr).all (fun i => wellFormed i) = true := by decide

/-- The same constructors with reserved fields of zero and with the last code and number. -/
theorem test_well_formed_6 :
    ([.sectorDecrement 63 0, .copyComplete 63 0, .transferFault 63 0, .sourceUe 63 0, .triggerToken 63 0, .streamLineStore 3,
      .streamLineTokens 3, .strmoComplete 63 0, .strmbComplete 63 0, .sigvResult 63 0, .bufferEdgeRemove 63 0,
      .bankCtrlWrite 63 0 0, .bankSwitchCommit 63 0, .contextOpen 255, .contextClose 255, .contextKill 255,
      .contextReleased 255, .tswDone 63, .tswTimeout 63, .queueEnable 255 0, .queueDisable 255 0, .doorbell 255 0 0,
      .load 255 0, .launch 255 0, .cancel 255 0, .unload 255 0, .jobQuiescent 255 0, .jobWatchdog 255 0,
      .relocationAck 255 0 3, .snapshotDone 255 0, .spillTimeout 255, .circuitReady 63, .circuitLocked 63, .tuningTimeout 63,
      .circuitDrained 63, .linkFail 63 0, .flitReceive 63 false, .flitResend 63, .portEnable 3, .portDisable 3] : List Instr).all (fun i => wellFormed i) = true := by decide

/-- The same constructors with reserved fields of zero and with the last code and number. -/
theorem test_well_formed_7 :
    ([.portFence 3, .portTrained 3, .portLockLost 3, .lineFrame 3 [], .advTimer 3, .trheadWrite 63 0, .resume 63 0,
      .discard 63 0, .fenceGang 63 0, .fenceJob 63 0, .fenceCtx 63 0, .isleReset 63 false, .supplySag 3, .stretchEnd 3,
      .tokenBucketRefill 0 255] : List Instr).all (fun i => wellFormed i) = true := by decide

/-- R78, R85, R86, R96: the words of major 0x01, field by field. -/
theorem test_decode_major_01 : ([
    (0b1_000001_00101_00110_10011_00000_00000#32, .add 5 6 0x13 0),
    (0b1_000001_00101_00110_10011_00000_00001#32, .sub 5 6 0x13 0),
    (0b1_000001_00101_00110_10011_00000_00010#32, .mul 5 6 0x13 0),
    (0b1_000001_00101_00110_10011_00000_00011#32, .mulh 5 6 0x13 0),
    (0b1_000001_00101_00110_10011_00000_00100#32, .mulhn 5 6 0x13 0),
    (0b1_000001_00101_00110_10011_00000_00101#32, .div 5 6 0x13 0),
    (0b1_000001_00101_00110_10011_00000_00110#32, .divn 5 6 0x13 0),
    (0b1_000001_00101_00110_10011_00000_00111#32, .rem 5 6 0x13 0),
    (0b1_000001_00101_00110_10011_00000_01000#32, .remn 5 6 0x13 0),
    (0b1_000001_00101_00110_10011_00000_01001#32, .and 5 6 0x13 0),
    (0b1_000001_00101_00110_10011_00000_01010#32, .or 5 6 0x13 0),
    (0b1_000001_00101_00110_10011_00000_01011#32, .xor 5 6 0x13 0),
    (0b1_000001_00101_00110_10011_00000_01100#32, .shl 5 6 0x13 0),
    (0b1_000001_00101_00110_10011_00000_01101#32, .shr 5 6 0x13 0),
    (0b1_000001_00101_00110_10011_00000_01110#32, .sra 5 6 0x13 0),
    (0b1_000001_00101_00110_10011_00000_01111#32, .rotr 5 6 0x13 0),
    (0b1_000001_00101_00110_10011_00000_10000#32, .min 5 6 0x13 0),
    (0b1_000001_00101_00110_10011_00000_10001#32, .max 5 6 0x13 0),
    (0b1_000001_00101_00110_10011_00000_10010#32, .minn 5 6 0x13 0),
    (0b1_000001_00101_00110_10011_00000_10011#32, .maxn 5 6 0x13 0),
    (0b1_000001_00101_00110_10011_00000_10100#32, .seq 5 6 0x13 0),
    (0b1_000001_00101_00110_10011_00000_10101#32, .slt 5 6 0x13 0),
    (0b1_000001_00101_00110_10011_00000_10110#32, .sltn 5 6 0x13 0),
    (0b1_000001_00101_00110_10011_11001_10111#32, .sel 5 6 0x13 0x19),
    (0b1_000001_00101_00110_10011_00000_11000#32, .adds 5 6 0x13 0)] : List (Word32 × Instr)).all
      (fun p => decode32 p.1 == p.2 && wellFormed p.2) = true := by decide

/-- R78, R85, R86, R96: the words of major 0x02, field by field. -/
theorem test_decode_major_02 : ([
    (0b1_000010_00101_00110_0000000000_00000#32, .neg 5 6 0),
    (0b1_000010_00101_00110_0000000000_00001#32, .clz 5 6 0),
    (0b1_000010_00101_00110_0000000000_00010#32, .ctz 5 6 0),
    (0b1_000010_00101_00110_0000000000_00011#32, .popc 5 6 0),
    (0b1_000010_00101_00110_0000000000_00100#32, .mov 5 6 0),
    (0b1_000010_00101_00110_10011_00000_00101#32, .sext 5 6 0x13 0),
    (0b1_000010_00101_00110_10011_00000_00110#32, .zext 5 6 0x13 0)] : List (Word32 × Instr)).all
      (fun p => decode32 p.1 == p.2 && wellFormed p.2) = true := by decide

/-- R78, R85, R86, R96: the words of major 0x03, field by field. -/
theorem test_decode_major_03 : ([
    (0b1_000011_00101_00110_000_010010110011#32, .addi 5 6 0x4b3),
    (0b1_000011_00101_00110_001_010010110011#32, .andi 5 6 0x4b3),
    (0b1_000011_00101_00110_010_010010110011#32, .ori 5 6 0x4b3),
    (0b1_000011_00101_00110_011_010010110011#32, .xori 5 6 0x4b3),
    (0b1_000011_00101_00110_100_010010110011#32, .slti 5 6 0x4b3),
    (0b1_000011_00101_00110_101_000000_110011#32, .shli 5 6 0x33 0),
    (0b1_000011_00101_00110_110_000000_110011#32, .shri 5 6 0x33 0),
    (0b1_000011_00101_00110_111_000000_110011#32, .srai 5 6 0x33 0)] : List (Word32 × Instr)).all
      (fun p => decode32 p.1 == p.2 && wellFormed p.2) = true := by decide

/-- R78, R85, R86, R96: the words of major 0x04, field by field. -/
theorem test_decode_major_04 : ([
    (0b1_000100_00101_00110_000_110011_011001#32, .bfx 5 6 0x33 0x19),
    (0b1_000100_00101_00110_001_110011_011001#32, .bfi 5 6 0x33 0x19)] : List (Word32 × Instr)).all
      (fun p => decode32 p.1 == p.2 && wellFormed p.2) = true := by decide

/-- R78, R85, R86, R96: the words of major 0x05, field by field. -/
theorem test_decode_major_05 : ([
    (0b1_000101_00101_00101011001111000110#32, .li 5 0x2b3c6)] : List (Word32 × Instr)).all
      (fun p => decode32 p.1 == p.2 && wellFormed p.2) = true := by decide

/-- R78, R85, R86, R96: the words of major 0x06, field by field. -/
theorem test_decode_major_06 : ([
    (0b1_000110_00101_00101011001111000110#32, .lih 5 0x2b3c6)] : List (Word32 × Instr)).all
      (fun p => decode32 p.1 == p.2 && wellFormed p.2) = true := by decide

/-- R78, R85, R86, R96: the words of major 0x08, field by field. -/
theorem test_decode_major_08 : ([
    (0b1_001000_00101_00110_000_010010110011#32, .beq 5 6 0x4b3),
    (0b1_001000_00101_00110_001_010010110011#32, .bne 5 6 0x4b3),
    (0b1_001000_00101_00110_010_010010110011#32, .blt 5 6 0x4b3),
    (0b1_001000_00101_00110_011_010010110011#32, .bge 5 6 0x4b3),
    (0b1_001000_00101_00110_100_010010110011#32, .bltn 5 6 0x4b3),
    (0b1_001000_00101_00110_101_010010110011#32, .bgen 5 6 0x4b3),
    (0b1_001000_00101_00000_110_001111000110#32, .bz 5 0x3c6 0),
    (0b1_001000_00101_00000_111_001111000110#32, .bnz 5 0x3c6 0)] : List (Word32 × Instr)).all
      (fun p => decode32 p.1 == p.2 && wellFormed p.2) = true := by decide

/-- R78, R85, R86, R96: the words of major 0x09, field by field. -/
theorem test_decode_major_09 : ([
    (0b1_001001_00101_00101011001111000110#32, .jal 5 0x2b3c6)] : List (Word32 × Instr)).all
      (fun p => decode32 p.1 == p.2 && wellFormed p.2) = true := by decide

/-- R78, R85, R86, R96: the words of major 0x0A, field by field. -/
theorem test_decode_major_0a : ([
    (0b1_001010_00101_00110_000_010010110011#32, .jr 5 6 0x4b3),
    (0b1_001010_00101_00110_001_010010110011#32, .loop 5 6 0x4b3),
    (0b1_001010_0000000000_010_000000000000#32, .halt 0 0)] : List (Word32 × Instr)).all
      (fun p => decode32 p.1 == p.2 && wellFormed p.2) = true := by decide

/-- R78, R85, R86, R96: the words of major 0x0C, field by field. -/
theorem test_decode_major_0c : ([
    (0b1_001100_00101_00110_10011_00000_00000#32, .fadd 5 6 0x13 0),
    (0b1_001100_00101_00110_10011_00000_00001#32, .fsub 5 6 0x13 0),
    (0b1_001100_00101_00110_10011_00000_00010#32, .fmul 5 6 0x13 0),
    (0b1_001100_00101_00110_10011_11001_00011#32, .ffma 5 6 0x13 0x19),
    (0b1_001100_00101_00110_10011_00000_00100#32, .fdiv 5 6 0x13 0),
    (0b1_001100_00101_00110_0000000000_00101#32, .fsqrt 5 6 0),
    (0b1_001100_00101_00110_10011_00000_00110#32, .fmin 5 6 0x13 0),
    (0b1_001100_00101_00110_10011_00000_00111#32, .fmax 5 6 0x13 0),
    (0b1_001100_00101_00110_10011_00000_01000#32, .feq 5 6 0x13 0),
    (0b1_001100_00101_00110_10011_00000_01001#32, .flt 5 6 0x13 0),
    (0b1_001100_00101_00110_10011_00000_01010#32, .fle 5 6 0x13 0),
    (0b1_001100_00101_00110_0000000000_01011#32, .fclass 5 6 0),
    (0b1_001100_00101_00110_0000000000_01100#32, .fmv 5 6 0)] : List (Word32 × Instr)).all
      (fun p => decode32 p.1 == p.2 && wellFormed p.2) = true := by decide

/-- R78, R85, R86, R96: the words of major 0x0D, field by field. -/
theorem test_decode_major_0d : ([
    (0b1_001101_00101_00110_000_0000_0011_1001#32, .fcvt 5 6 3 9 0)] : List (Word32 × Instr)).all
      (fun p => decode32 p.1 == p.2 && wellFormed p.2) = true := by decide

/-- R78, R85, R86, R96: the words of major 0x10, field by field. -/
theorem test_decode_major_10 : ([
    (0b1_010000_00101_00110_011_0_11001011001#32, .ld 5 6 3 0x659),
    (0b1_010000_00101_00110_011_1_11001011001#32, .ldn 5 6 3 0x659)] : List (Word32 × Instr)).all
      (fun p => decode32 p.1 == p.2 && wellFormed p.2) = true := by decide

/-- R78, R85, R86, R96: the words of major 0x11, field by field. -/
theorem test_decode_major_11 : ([
    (0b1_010001_00101_00110_011_0_11001011001#32, .st 5 6 3 0x659),
    (0b1_010001_0000_1_00110_000_1_10010110011#32, .pref 1 6 0x4b3 0 0)] : List (Word32 × Instr)).all
      (fun p => decode32 p.1 == p.2 && wellFormed p.2) = true := by decide

/-- R78, R85, R86, R96: the words of major 0x12, field by field. -/
theorem test_decode_major_12 : ([
    (0b1_010010_00101_00110_011_0_11001011001#32, .lda 5 6 3 0x659),
    (0b1_010010_00101_00110_011_1_11001011001#32, .stl 5 6 3 0x659)] : List (Word32 × Instr)).all
      (fun p => decode32 p.1 == p.2 && wellFormed p.2) = true := by decide

/-- R78, R85, R86, R96: the words of major 0x13, field by field. -/
theorem test_decode_major_13 : ([
    (0b1_010011_00101_00110_10011_000_01_00110#32, .amo 5 6 0x13 1 6 0),
    (0b1_010011_00101_00110_10011_000_01_01001#32, .cas 5 6 0x13 1 0)] : List (Word32 × Instr)).all
      (fun p => decode32 p.1 == p.2 && wellFormed p.2) = true := by decide

/-- R78, R85, R86, R96: the words of major 0x14, field by field. -/
theorem test_decode_major_14 : ([
    (0b1_010100_00101_00110_011_0_11001011001#32, .lds 5 6 3 0x659),
    (0b1_010100_00101_00110_011_1_11001011001#32, .sts 5 6 3 0x659)] : List (Word32 × Instr)).all
      (fun p => decode32 p.1 == p.2 && wellFormed p.2) = true := by decide

/-- R78, R85, R86, R96: the words of major 0x15, field by field. -/
theorem test_decode_major_15 : ([
    (0b1_010101_00101_00110_10011_000_01_00110#32, .amos 5 6 0x13 1 6 0),
    (0b1_010101_00101_00110_10011_00000_01001#32, .tsb 5 6 0x13 0),
    (0b1_010101_00101_00110_10011_00000_01010#32, .tcb 5 6 0x13 0),
    (0b1_010101_000000000000000_01_110_01011#32, .fence 1 6 0),
    (0b1_010101_00101_00110_10011_000_0001100#32, .ownDecl 5 6 0x13 0),
    (0b1_010101_00101_00110_10011_000_0101100#32, .ownGive 5 6 0x13 0),
    (0b1_010101_00101_00110_00000000_1001100#32, .ownTake 5 6 0),
    (0b1_010101_00101_00110_00000000_1101100#32, .ownDrop 5 6 0)] : List (Word32 × Instr)).all
      (fun p => decode32 p.1 == p.2 && wellFormed p.2) = true := by decide

/-- R78, R85, R86, R96: the words of major 0x16, field by field. -/
theorem test_decode_major_16 : ([
    (0b1_010110_00101_00110_10011_1_0110_00000#32, .vadd 5 6 0x13 1 6),
    (0b1_010110_00101_00110_10011_1_0110_00001#32, .vsub 5 6 0x13 1 6),
    (0b1_010110_00101_00110_10011_1_0110_00010#32, .vmul 5 6 0x13 1 6),
    (0b1_010110_00101_00110_10011_1_0110_00011#32, .vfma 5 6 0x13 1 6),
    (0b1_010110_00101_00110_10011_1_0110_00100#32, .vmin 5 6 0x13 1 6),
    (0b1_010110_00101_00110_10011_1_0110_00101#32, .vmax 5 6 0x13 1 6),
    (0b1_010110_00101_00110_00000_1_1001_00110#32, .vabs 5 6 1 9 0),
    (0b1_010110_00101_00110_00000_1_1001_00111#32, .vneg 5 6 1 9 0),
    (0b1_010110_00101_00110_10011_0_1001_01000#32, .vand 5 6 0x13 9 0),
    (0b1_010110_00101_00110_10011_0_1001_01001#32, .vor 5 6 0x13 9 0),
    (0b1_010110_00101_00110_10011_0_1001_01010#32, .vxor 5 6 0x13 9 0),
    (0b1_010110_00101_00110_10011_0_1001_01011#32, .vshl 5 6 0x13 9 0),
    (0b1_010110_00101_00110_10011_0_1001_01100#32, .vshr 5 6 0x13 9 0),
    (0b1_010110_00101_00110_10011_0_1001_01101#32, .vsra 5 6 0x13 9 0),
    (0b1_010110_00101_00110_10011_0_1001_01110#32, .vsel 5 6 0x13 9 0),
    (0b1_010110_00101_00110_00000_1_1001_01111#32, .vred 5 6 1 9 0),
    (0b1_010110_00101_00110_000000_0011_10000#32, .vrcp 5 6 3 0),
    (0b1_010110_00101_00110_000000_0011_10001#32, .vrsq 5 6 3 0),
    (0b1_010110_00101_00110_000000_0011_10010#32, .vexp2 5 6 3 0),
    (0b1_010110_00101_00110_000000_0011_10011#32, .vlog2 5 6 3 0),
    (0b1_010110_00101_00110_10011_1_0110_11_101#32, .vcmp 5 6 0x13 1 6 5)] : List (Word32 × Instr)).all
      (fun p => decode32 p.1 == p.2 && wellFormed p.2) = true := by decide

/-- R78, R85, R86, R96: the words of major 0x17, field by field. -/
theorem test_decode_major_17 : ([
    (0b1_010111_00101_00110_0_0011_0_1001_00000#32, .vcvt 5 6 3 9 0 0),
    (0b1_010111_00101_00110_10011_0_1001_00001#32, .vpack 5 6 0x13 9 0),
    (0b1_010111_00101_00110_10011_0_1001_00010#32, .vunpk 5 6 0x13 9 0),
    (0b1_010111_00101_00110_10011_0_1001_00011#32, .vperm 5 6 0x13 9 0),
    (0b1_010111_00101_00110_10011_0_1001_00100#32, .vbcst 5 6 0x13 9 0),
    (0b1_010111_00101_00110_000000_0011_00101#32, .vlen 5 6 3 0),
    (0b1_010111_00101_00110_10011_0_1001_00110#32, .vcat 5 6 0x13 9 0),
    (0b1_010111_00101_00110_000000_0011_00111#32, .vspl 5 6 3 0),
    (0b1_010111_00101_00000000000_0110_01000#32, .vidx 5 6 0)] : List (Word32 × Instr)).all
      (fun p => decode32 p.1 == p.2 && wellFormed p.2) = true := by decide

/-- R78, R85, R86, R96: the words of major 0x20, field by field. -/
theorem test_decode_major_20 : ([
    (0b1_100000_00101_00110_011_001_000110_000#32, .send 5 6 3 1 6),
    (0b1_100000_00000_00101_110_000_110011_001#32, .sende 5 6 0x33 0 0),
    (0b1_100000_00101_00110_011_000_011001_010#32, .sendr 5 6 3 0x19 0),
    (0b1_100000_00101_00110_011_000_011001_011#32, .sendm 5 6 3 0x19 0),
    (0b1_100000_00000_00101_110_000_110011_100#32, .sendo 5 6 0x33 0 0)] : List (Word32 × Instr)).all
      (fun p => decode32 p.1 == p.2 && wellFormed p.2) = true := by decide

/-- R78, R85, R86, R96: the words of major 0x21, field by field. -/
theorem test_decode_major_21 : ([
    (0b1_100001_00101_00110_10011_00000_00000#32, .hdr 5 6 0x13 0),
    (0b1_100001_00101_00110_10011_00000_00001#32, .tagx 5 6 0x13 0),
    (0b1_100001_00101_000000000000000_00010#32, .falloc 5 0),
    (0b1_100001_00000_00101_0000000000_00011#32, .ffree 5 0 0),
    (0b1_100001_00_101_00110_10011_00_001_00100#32, .fsto 5 6 0x13 1 0 0),
    (0b1_100001_00101_00110_0000000_011_00101#32, .fldo 5 6 3 0)] : List (Word32 × Instr)).all
      (fun p => decode32 p.1 == p.2 && wellFormed p.2) = true := by decide

/-- R78, R85, R86, R96: the words of major 0x22, field by field. -/
theorem test_decode_major_22 : ([
    (0b1_100010_00000_00101_00110_00000_00000#32, .inj 5 6 0 0)] : List (Word32 × Instr)).all
      (fun p => decode32 p.1 == p.2 && wellFormed p.2) = true := by decide

/-- R78, R85, R86, R96: the words of major 0x24, field by field. -/
theorem test_decode_major_24 : ([
    (0b1_100100_10100101_00000000_00110_0000#32, .sld 0xa5 6 0),
    (0b1_100100_10100101_00000000_00110_0001#32, .sst 0xa5 6 0),
    (0b1_100100_10100101_00000000_00110_0010#32, .sbind 0xa5 6 0),
    (0b1_100100_10100101_0000000000000_0011#32, .sunb 0xa5 0),
    (0b1_100100_10100101_11000110_10011_0100#32, .sadd 0xa5 0xc6 0x13),
    (0b1_100100_10100101_11000110_10011_0101#32, .smax 0xa5 0xc6 0x13),
    (0b1_100100_10100101_11000110_10011_0110#32, .smin 0xa5 0xc6 0x13),
    (0b1_100100_10100101_11000110_10011_0111#32, .smulv 0xa5 0xc6 0x13),
    (0b1_100100_10100101_11000110_00000_1000#32, .snorm 0xa5 0xc6 0),
    (0b1_100100_10100101_11000110_00000_1001#32, .scpy 0xa5 0xc6 0),
    (0b1_100100_10100101_00000000_00110_1010#32, .sgen 0xa5 6 0),
    (0b1_100100_10100101_0000000000000_1011#32, .szero 0xa5 0)] : List (Word32 × Instr)).all
      (fun p => decode32 p.1 == p.2 && wellFormed p.2) = true := by decide

/-- R78, R85, R86, R96: the words of major 0x28, field by field. -/
theorem test_decode_major_28 : ([
    (0b1_101000_00101_00110_10011_01011001_00#32, .tfetch 5 6 0x13 0x59),
    (0b1_101000_00000_00101_0000000000000_01#32, .trel 5 0 0)] : List (Word32 × Instr)).all
      (fun p => decode32 p.1 == p.2 && wellFormed p.2) = true := by decide

/-- R78, R85, R86, R96: the words of major 0x29, field by field. -/
theorem test_decode_major_29 : ([
    (0b1_101001_00000_00101_00110_10011_00000#32, .mma 5 6 0x13 0),
    (0b1_101001_00000_00101_00110_10011_00001#32, .mmai 5 6 0x13 0),
    (0b1_101001_00000_00101_00110_00000_00010#32, .macc 5 6 0 0),
    (0b1_101001_00000_00101_0000000000_00011#32, .mzero 5 0 0),
    (0b1_101001_00000_00101_00110_00000_00100#32, .meor 5 6 0 0),
    (0b1_101001_00101_00110_10011_00000_00101#32, .mrd 5 6 0x13 0)] : List (Word32 × Instr)).all
      (fun p => decode32 p.1 == p.2 && wellFormed p.2) = true := by decide

/-- R78, R85, R86, R96: the words of major 0x2C, field by field. -/
theorem test_decode_major_2c : ([
    (0b1_101100_00000_00101_00110_00000_00000#32, .opw 5 6 0 0),
    (0b1_101100_00101_00110_0000000000_00001#32, .opr 5 6 0),
    (0b1_101100_00101_00110_10011_00000_00010#32, .opsnap 5 6 0x13 0)] : List (Word32 × Instr)).all
      (fun p => decode32 p.1 == p.2 && wellFormed p.2) = true := by decide

/-- R78, R85, R86, R96: the words of major 0x2D, field by field. -/
theorem test_decode_major_2d : ([
    (0b1_101101_00000_00101_00110_10110011_00#32, .cpy 5 6 0xb3 0),
    (0b1_101101_00101_00110_10011_00000000_01#32, .cpyb 5 6 0x13 0),
    (0b1_101101_00101_00110_10011_01011001_10#32, .ctarm 5 6 0x13 0x59),
    (0b1_101101_00101_0000000000_11000110_11#32, .ctdis 5 0xc6 0)] : List (Word32 × Instr)).all
      (fun p => decode32 p.1 == p.2 && wellFormed p.2) = true := by decide

/-- R78, R85, R86, R96: the words of major 0x2E, field by field. -/
theorem test_decode_major_2e : ([
    (0b1_101110_00101_00110_00000_10110011_00#32, .strmi 5 6 0xb3 0),
    (0b1_101110_00000_00101_00110_10110011_01#32, .strmo 5 6 0xb3 0),
    (0b1_101110_00000_00101_00000_11000110_10#32, .strms 5 0xc6 0 0),
    (0b1_101110_000000000000000_10100101_11#32, .strmb 0xa5 0)] : List (Word32 × Instr)).all
      (fun p => decode32 p.1 == p.2 && wellFormed p.2) = true := by decide

/-- R78, R85, R86, R96: the words of major 0x2F, field by field. -/
theorem test_decode_major_2f : ([
    (0b1_101111_00101_00110_0000000000_00000#32, .cwany 5 6 0),
    (0b1_101111_00000_00101_0000000000_00001#32, .cwall 5 0 0),
    (0b1_101111_00101_00110_0000000000_00010#32, .cffr 5 6 0)] : List (Word32 × Instr)).all
      (fun p => decode32 p.1 == p.2 && wellFormed p.2) = true := by decide

/-- R78, R85, R86, R96: the words of major 0x30, field by field. -/
theorem test_decode_major_30 : ([
    (0b1_110000_00101_00110_10011_0000_1_00000#32, .qpush 5 6 0x13 1 0),
    (0b1_110000_00101_00110_10011_0000_1_00001#32, .qpop 5 6 0x13 1 0),
    (0b1_110000_00101_00110_10011_00000_00010#32, .cont 5 6 0x13 0),
    (0b1_110000_00101_00110_0000000000_00011#32, .join 5 6 0),
    (0b1_110000_00101_00110_10011_11001_00100#32, .steal 5 6 0x13 0x19),
    (0b1_110000_00101_00110_0000000000_00101#32, .qstat 5 6 0)] : List (Word32 × Instr)).all
      (fun p => decode32 p.1 == p.2 && wellFormed p.2) = true := by decide

/-- R78, R85, R86, R96: the words of major 0x32, field by field. -/
theorem test_decode_major_32 : ([
    (0b1_110010_00000_00101_00110_00000_00000#32, .binit 5 6 0 0),
    (0b1_110010_00101_00110_10011_00000_00001#32, .barr 5 6 0x13 0),
    (0b1_110010_00101_00110_10011_11001_00010#32, .barrx 5 6 0x13 0x19),
    (0b1_110010_00101_00110_10011_11001_00011#32, .bwait 5 6 0x13 0x19),
    (0b1_110010_00101_00110_10011_11001_00100#32, .bwaitp 5 6 0x13 0x19),
    (0b1_110010_00101_00110_10011_00000_00101#32, .btest 5 6 0x13 0),
    (0b1_110010_00000_00101_00110_00000_00110#32, .bsec 5 6 0 0)] : List (Word32 × Instr)).all
      (fun p => decode32 p.1 == p.2 && wellFormed p.2) = true := by decide

/-- R78, R85, R86, R96: the words of major 0x34, field by field. -/
theorem test_decode_major_34 : ([
    (0b1_110100_00101_00110_0000000000_00000#32, .preq 5 6 0),
    (0b1_110100_00101_00110_0000000000_00001#32, .ppin 5 6 0),
    (0b1_110100_00101_00110_0000000000_00010#32, .punp 5 6 0),
    (0b1_110100_00101_00110_0000000000_00011#32, .pevt 5 6 0),
    (0b1_110100_00101_00110_10011_00000_00100#32, .step 5 6 0x13 0),
    (0b1_110100_00101_00110_0000000000_00101#32, .frz 5 6 0),
    (0b1_110100_00101_00110_0000000000_00110#32, .thaw 5 6 0),
    (0b1_110100_00101_00110_10011_00000_00111#32, .snap 5 6 0x13 0),
    (0b1_110100_00000_00101_00110_00000_01000#32, .cfgw 5 6 0 0),
    (0b1_110100_00101_00110_0000000000_01001#32, .cfgc 5 6 0),
    (0b1_110100_00101_00110_0000000000_01010#32, .cfgk 5 6 0),
    (0b1_110100_00101_00110_0000000000_01011#32, .cfga 5 6 0),
    (0b1_110100_00101_00110_10011_00000_01100#32, .place 5 6 0x13 0)] : List (Word32 × Instr)).all
      (fun p => decode32 p.1 == p.2 && wellFormed p.2) = true := by decide

/-- R78, R85, R86, R96: the words of major 0x38, field by field. -/
theorem test_decode_major_38 : ([
    (0b1_111000_00101_00000_001111000110_000#32, .srd 5 0x3c6 0),
    (0b1_111000_00000_00101_001111000110_001#32, .swr 5 0x3c6 0)] : List (Word32 × Instr)).all
      (fun p => decode32 p.1 == p.2 && wellFormed p.2) = true := by decide

/-- R78, R85, R86, R96: the words of major 0x39, field by field. -/
theorem test_decode_major_39 : ([
    (0b1_111001_0000000000_000_010110100101#32, .trap 0x5a5 0),
    (0b1_111001_0000000000_001_000000000000#32, .eret 0 0),
    (0b1_111001_0000000000_010_000000000000#32, .wfe 0 0),
    (0b1_111001_0000000000_011_000000000000#32, .sev 0 0),
    (0b1_111001_0000000000_100_010110100101#32, .brk 0x5a5 0),
    (0b1_111001_00101_00000_101_000000000000#32, .cyc 5 0 0),
    (0b1_111001_00000_00101_110_00000000_1_1_01#32, .tlbi 5 1 1 1 0 0),
    (0b1_111001_00000_00101_111_000000_000110#32, .sigv 5 6 0 0)] : List (Word32 × Instr)).all
      (fun p => decode32 p.1 == p.2 && wellFormed p.2) = true := by decide

/-- R78, R85, R86, R96: the words of major 0x3A, field by field. -/
theorem test_decode_major_3a : ([
    (0b1_111010_00101_00110_10011_00000_00000#32, .connStatus 5 6 0x13 0),
    (0b1_111010_00101_00110_0000000000_00001#32, .ctxs 5 6 0),
    (0b1_111010_00101_00110_0000000000_00010#32, .ctxl 5 6 0)] : List (Word32 × Instr)).all
      (fun p => decode32 p.1 == p.2 && wellFormed p.2) = true := by decide

/-- R78, R85, R86, R96: the words of major 0x3C, field by field. -/
theorem test_decode_major_3c : ([
    (0b1_111100_0000001011010010110100101#32, .hint 0x5a5a5)] : List (Word32 × Instr)).all
      (fun p => decode32 p.1 == p.2 && wellFormed p.2) = true := by decide

/-- R78, R90, R91, R100: the halfwords, field by field. -/
theorem test_decode_short : ([
    (0b0_1110_00000000000#16, .nop),
    (0b0_1110_10110100101#16, .hintShort 0x5a5),
    (0b0_1111_10110100101#16, .ext 0x5a5),
    (0b0_0001_0_101_1000110#16, .liShort 5 0x46),
    (0b0_0001_1_101_0000_110#16, .movShort 5 6 0),
    (0b0_0010_101_110_011_00#16, .addShort 5 6 3),
    (0b0_0010_101_110_011_01#16, .subShort 5 6 3),
    (0b0_0010_101_110_011_10#16, .addiShortPos 5 6 3),
    (0b0_0010_101_110_011_11#16, .addiShortNeg 5 6 3),
    (0b0_0011_101_110_011_00#16, .vaddF32Short 5 6 3),
    (0b0_0011_101_110_011_01#16, .vmulF32Short 5 6 3),
    (0b0_0011_101_110_011_10#16, .vfmaF32Short 5 6 3),
    (0b0_0011_101_110_011_11#16, .vaddI32Short 5 6 3),
    (0b0_0100_0_101_110_0011#16, .sendShort 5 6 3),
    (0b0_0100_1_101_110_0011#16, .sendIncShort 5 6 3),
    (0b0_0101_0_101_110_0011#16, .ldsShort 5 6 3),
    (0b0_0101_1_101_110_0011#16, .stsShort 5 6 3),
    (0b0_0110_0_101_1000110#16, .bzShort 5 0x46),
    (0b0_0110_1_101_1000110#16, .bnzShort 5 0x46),
    (0b0_0111_101_110_011_00#16, .seqShort 5 6 3),
    (0b0_0111_101_110_011_01#16, .sltShort 5 6 3),
    (0b0_0111_101_110_011_10#16, .sltnShort 5 6 3),
    (0b0_0111_101_110_011_11#16, .selShort 5 6 3)] : List (BitVec 16 × Instr)).all
      (fun p => decode16 p.1 == p.2 && wellFormed p.2) = true := by decide

/-! ### Small states -/

/-- Core 0 of a machine after reset is about to execute in mode `m`, with these g registers. -/
def onCore (m : Mode) (l : List (BitVec 5 × Word64)) : State :=
  l.foldl (fun s x => gSet s 0 x.1 x.2)
    (State.reset.updCore 0 (fun c => { c with status := match m with | .machine => 0xC | .supervisor => 4 | .user => 0 }))

/-- The nonzero bytes of eight-byte words at rising guest-physical addresses, which lie at local address 0x40000000 of die 0 (log
entry 9). -/
def words (l : List (Nat × Nat)) : Tbl Byte :=
  l.flatMap (fun x => (List.range 8).filterMap (fun i =>
    let b : Nat := x.2 / 256 ^ i % 256
    if b = 0 then none else some (0x40000000 + x.1 + i, BitVec.ofNat 8 b)))

/-- Core 0 in Machine mode with the first 1 GiB of its addresses mapped, and these g registers. The context table at 0x8000 gives
contexts 0 and 1 the largest quotas, a root at 0x9000 that maps the first 1 GiB to itself, descriptors at 0x10000 and queues
at 0x20000 (R308, R309, R188): T1 is 16 words of memory at 0x3000, T2 16 words of a buffer at 0x40 of the scratchpad, T3 a
matrix of one byte of memory (R229, R230). Its queues have 16 entries (R322): queue 0 is an ON COMMAND queue with one entry, queue 1 an OPEN TASK queue of isle 1
with two, queue 2 an ON STREAM queue, queue 3 a full TASK queue, queue 4 one
that is OFF, queue 5 one that is empty, queue 6 one of KIND 3 and queue 7 an invalid one. The join blocks at 0x23000, 0x23040,
0x23080 and 0x230C0 have COUNT 2, 0, 1 and 2, the last with a reserved bit set (R333). -/
def mapped (l : List (BitVec 5 × Word64)) : State :=
  let s := State.reset.withFetchWord 32 0
  let quota := 256 * 2 ^ 27 + 4096 * 2 ^ 14 + 8192
  l.foldl (fun s x => gSet s 0 x.1 x.2) { s with
    mgmt := { s.mgmt with ctxtab := 0x8000 }
    mem := s.mem ++ words [(0x8008, 0x9001), (0x8010, 0x10000), (0x8020, quota), (0x8030, 0x20000), (0x8088, 0x9001), (0x8090, 0x10000),
      (0x80A0, quota), (0x80A8, 16), (0x80B0, 0x20000), (0x80C0, 0x7000), (0x9000, 0xA001), (0xA000, 0xB001), (0xB000, 0x3F),
      (0x10100, 0x3000), (0x10110, 0x80000010), (0x10118, 16), (0x10150, 4),
      (0x10200, 0x40), (0x10210, 0x80000410), (0x10218, 16), (0x10250, 4),
      (0x10300, 0x4000), (0x10310, 0x80000024), (0x10318, 1 + 2 ^ 32), (0x10350, 1), (0x10358, 64),
      (0x20000, 0x21000), (0x20008, 2 ^ 63 + 2 ^ 40 + 4 * 2 ^ 29), (0x20018, 1),
      (0x20040, 0x22000), (0x20048, 2 ^ 63 + 2 * 2 ^ 40 + 4 * 2 ^ 29 + 2 ^ 20 + 2 ^ 15 + 2 ^ 13), (0x20050, 3), (0x20058, 5),
      (0x20088, 2 ^ 63 + 2 ^ 40 + 16 * 2 ^ 34 + 4 * 2 ^ 29 + 2 * 2 ^ 13),
      (0x200C0, 0x22200), (0x200C8, 2 ^ 63 + 2 ^ 40 + 4 * 2 ^ 29 + 2 ^ 13), (0x200D8, 16),
      (0x20100, 0x22400), (0x20108, 2 ^ 63 + 4 * 2 ^ 29 + 2 ^ 13),
      (0x20140, 0x22600), (0x20148, 2 ^ 63 + 2 ^ 40 + 4 * 2 ^ 29 + 2 ^ 13), (0x20188, 2 ^ 63 + 2 ^ 40 + 3 * 2 ^ 13),
      (0x23000, 2), (0x23080, 1), (0x23088, 1), (0x230C0, 2), (0x230C8, 0x100)] }

/-- A task at halfword 4 of its routine of 8 halfwords, with two send slots and t0 to t3 defined. -/
def task : Task :=
  { cls := 0, pc := 4, start := 2, size := 8, slots := 2,
    t := #v[some ⟨5, 0, 0, 0, 0, 0, 0, 0⟩, some ⟨1, 2, 3, 4, 5, 6, 7, 8⟩, some ⟨0, 0, 0, 0, 0, 0, 0, 0⟩,
      some ⟨0x80000000, 1, 1, 1, 1, 1, 1, 1⟩, none, none, none, none],
    hdr := 0, i0 := Lanes.zero, i1 := Lanes.zero, len1 := 0, tinx := false, tsat := false, err := none, sends := 0,
    engCmds := 0, units := 0, cycles := 0, reserved := [], drawn := [], pfx := none, held := none, part := 0 }

/-- A job of context 1 with a page on the first four tiles of die 0. -/
def job : Job :=
  { ctx := 1, num := 3, kernel := 0, queue := 0, st := .running, cause := 0, steps := [⟨2, 0, false, 0⟩], cstep := 0, its := 0,
    first := true, jrec := 0x2000, doneCtr := 0, gangs := [(0, .stepping)],
    reloc := [(0, ⟨true, false, true, false, 0, 0, 0, 0, false, 0, 0, [0, 1, 2, 3]⟩),
      (1, ⟨true, true, true, false, 0, 0, 0, 0, false, 0, 0, [0, 1, 2, 3]⟩)],
    snap := none, order := 0, since := 0, act := 0 }

/-- The page of that job. -/
def page : Page :=
  { ctx := 1, job := 3, ix := 0, region := 0, w := 1, h := 4, st := .resident, pinned := false, frz := false, die := 0,
    bx := 0, byy := 0, skip := 0, records := [], retried := [], save := none, reserved := true, load := none,
    evicting := false, drained := false, stamp := 0, attempt := false }

/-- Tile 0 as a tile of that page: port 0 steers to class 0, port 1 to input 0 of MAP; class 0 is a routine of 8 halfwords
with one input and two sends; destination 1 is port 1 of the page's first tile; MAP adds its constant. -/
def tile0 : Tile :=
  { Tile.reset with
    base := some ⟨1, 3, 0, 0, 0, 0, 0, 0⟩,
    steer := [(0, 0x4000), (1, 0x8000)],
    classes := [(0, 0x20102002)],
    dests := [(1, 0x80002000)] }

/-- A machine with that job, its core 0 in User mode of context 1, these g registers, and `q` as the task of tile 0. -/
def busy (l : List (BitVec 5 × Word64)) (q : Option Task) : State :=
  let s := mapped l
  let s := s.updIsle 0 (fun i => { i with ctx := 1, core := { i.core with status := 0, ptroot := 0x9001 } })
  { (s.updTile 0 (fun _ => { tile0 with cell := { Cell.reset with task := q } })) with
    jobs := [job], pages := [page], ctxs := s.ctxs.put 1 ⟨.opened, 0, []⟩,
    kernels := [⟨1, 0, [⟨0, 1, 4, false, []⟩], [[0]], [(true, 0, 0)], []⟩] }

/-- That machine when tile 0 is about to execute a unit of `q`. -/
def onCell (q : Task) : State := { busy [] (some q) with active := .cell 0 }

theorem coreReady {m ext s k}
    (h : s.active = .core k ∧ modeLe m (s.core k).mode = true ∧ (ext = false → (s.core k).pfx = none)) :
    CoreReady m ext s k := ⟨h.1, h.2.1, h.2.2⟩

theorem cellReady {m ext cost s t q}
    (h : s.active = .cell t ∧ (s.cell t).task = some q ∧ (m = true → tileKind t = .m) ∧ (ext = false → q.pfx = none) ∧
      (q.pfx = none → q.units < 128) ∧ q.cycles + cost + (if q.pfx = none then 0 else 1) ≤ 512) :
    CellReady m ext cost s t q := ⟨h.1, h.2.1, h.2.2.1, h.2.2.2.1, h.2.2.2.2.1, h.2.2.2.2.2⟩

/-- Units of every mode can begin on a core. -/
theorem test_core_ready : CoreReady .machine false (onCore .machine []) 0 ∧
    CoreReady .supervisor false (onCore .supervisor []) 0 ∧ CoreReady .user false (onCore .user []) 0 ∧
    CoreReady .user true (onCore .user []) 0 := by
  and_intros <;> first | decide +kernel | exact coreReady (by decide +kernel)

/-- Units can begin in a cell. -/
theorem test_cell_ready : CellReady true false 16 (onCell task) 0 task :=
  cellReady (by decide +kernel)

/-- `x` answers, and `p` holds of the answer. -/
def okIs {ε α : Type} (x : Except ε α) (p : α → Bool) : Bool := match x with | .ok a => p a | .error _ => false

/-- `x` fails, and `p` holds of the failure. -/
def errIs {ε α : Type} (x : Except ε α) (p : ε → Bool) : Bool := match x with | .ok _ => false | .error e => p e

/-- The next state of an outcome, and what holds of it. -/
def nextIs (x : Host.Outcome State Fault Refusal) (p : State → Bool) : Bool := match x with | .next s => p s | _ => false

/-- There is a value, and `p` holds of it. -/
def someIs {α : Type} (x : Option α) (p : α → Bool) : Bool := match x with | some a => p a | none => false

/-- A machine whose isle 0 has bank 0 as a SCRATCH bank of context `c`. -/
def withScratch (c : Nat) (s : State) : State :=
  s.updIsle 0 (fun i => i.setBank 0 ⟨.scratch, c, 0, .cache, false, false⟩)

/-- The memory of `mapped` has its canonical form. -/
theorem test_mapped_memory : MemoryOk (mapped []) := by unfold MemoryOk; decide +kernel

/-! ### CRC-32C by steps that the kernel evaluates one at a time -/

/-- `f n`, once `n` is a numeral. -/
def strict (n : Nat) (f : Nat → Nat) : Nat := match n with | 0 => f 0 | k + 1 => f (k + 1)

/-- The register of CRC-32C after the bytes of `l`. -/
def crcSteps : List Byte → Nat → Nat
  | [], n => n
  | b :: l, n => strict (crcByte (BitVec.ofNat 32 n) b).toNat (crcSteps l)

theorem crcSteps_eq (l : List Byte) (c : Word32) : l.foldl crcByte c = BitVec.ofNat 32 (crcSteps l c.toNat) := by
  induction l generalizing c with
  | nil => simp [crcSteps]
  | cons b l ih =>
    have e (n : Nat) (f : Nat → Nat) : strict n f = f n := by cases n <;> rfl
    simp [crcSteps, e, ih]

theorem crc32c_eq (l : List Byte) : crc32c l = ~~~ (BitVec.ofNat 32 (crcSteps l 0xFFFFFFFF)) := by
  rw [crc32c, crcSteps_eq]; rfl

/-- The CRC of the 1092 zero bytes of an empty tile record (R108). -/
theorem test_crc_zeros : crc32c (List.replicate 1092 0) = 0xA3D916E8 := by rw [crc32c_eq]; decide +kernel

/-- CRC-32C of the digits 1 to 9. -/
theorem test_crc_digits : crc32c [0x31, 0x32, 0x33, 0x34, 0x35, 0x36, 0x37, 0x38, 0x39] = 0xE3069283 := by decide +kernel

/-! ### Hypotheses of the statements: steps, traps and loops -/

/-- The hypotheses of CoreStepRunsDecoded, for ADD g3, g4, g5 and for NOP. -/
theorem test_hyp_CoreStepRunsDecoded :
    let u := tick (State.reset.withFetchWord 32 0x82321400)
    let v := tick (State.reset.withFetchWord 16 0x7000)
    (u.active = .core 0 ∧ coreRuns u 0 = true ∧ u.agenda = [] ∧ nextAsync u 0 = none ∧ (u.core 0).halted = false ∧
      (u.core 0).waiting = none) ∧
    okIs (fetchHalf u 0 (u.core 0).pc) (fun x => x.1 == 0x8232 && okIs (fetchHalf x.2 0 2) (fun y => y.1 == 0x1400)) = true ∧
    decode32 (0x8232#16 ++ 0x1400#16) = .add 3 4 5 0 ∧
    okIs (fetchHalf v 0 (v.core 0).pc) (fun x => x.1 == 0x7000) = true ∧ decode16 0x7000 = .nop := by decide +kernel

/-- The hypotheses of CellStepRunsDecoded: a halfword, a word that fits, and a word cut off at the routine's last halfword. -/
theorem test_hyp_CellStepRunsDecoded :
    let s (pc : Nat) (h : BitVec 16) : State :=
      tick ((onCell { task with pc := pc }).updTile 0 (fun t => { t with store := t.store.put pc h }))
    let holds (s : State) (pc : Nat) (h : BitVec 16) : Prop :=
      s.active = .cell 0 ∧ cellRuns s 0 = true ∧ (s.cell 0).task = some { task with pc := pc } ∧ s.agenda = [] ∧
        (s.tile 0).store.get 0 pc = h
    holds (s 2 0x7000) 2 0x7000 ∧ holds (s 8 0x8000) 8 0x8000 ∧ 8 + 1 < task.start + task.size ∧
      holds (s 9 0x8000) 9 0x8000 ∧ task.start + task.size ≤ 9 + 1 := by decide +kernel

/-- A state whose memory has its canonical form, and whose step answers (MemoryStaysCanonical). -/
theorem test_hyp_MemoryStaysCanonical : MemoryOk (State.reset.withFetchWord 32 0x82321400) ∧
    nextIs (step (State.reset.withFetchWord 32 0x82321400)) (fun _ => true) = true := by
  constructor
  · unfold MemoryOk; decide +kernel
  · decide +kernel

/-- Both targets of a trap (TrapEntrySavesAndVectors): the mode and the cause choose. -/
theorem test_hyp_TrapEntrySavesAndVectors :
    let goes (m : Mode) (c : Cause) : Prop := ((onCore m []).core 0).mode = .machine ∨ c = .machineCheck ∨ c = .doubleFault
    goes .machine .divZero ∧ goes .user .machineCheck ∧ goes .supervisor .doubleFault ∧ ¬ goes .supervisor .divZero ∧
      ¬ goes .user .priv := by decide

/-- A User core with status.SS set, and one that may run BRK and TRAP (ExceptionAddress). -/
theorem test_hyp_ExceptionAddress :
    let s := (onCore .user []).updCore 0 (fun c => { c with status := 0x400 })
    (s.core 0).mode = .user ∧ bit (s.core 0).status 10 = true ∧ CoreReady .user false s 0 := by
  intros; and_intros <;> first | decide +kernel | exact coreReady (by decide +kernel)

/-- A core with causes pending: one it takes, and one that its mode does not enable (AsynchronousCauses). -/
theorem test_hyp_AsynchronousCauses :
    let s (m : Mode) := ((onCore m []).updCore 0 (fun c => { c with killed := true }))
    let u : State := { s .user with mgmt := { (s .user).mgmt with bootstat := 0x10000, islerst := 0 } }
    (nextAsync u 0).isSome = true ∧ (u.core 0).pfx = none ∧ coreRuns u 0 = true ∧
      pendingAsync (s .machine) 0 ≠ [] ∧ nextAsync (s .machine) 0 = none := by decide +kernel

/-- ERET in both modes with an even and an odd target, and a return to User mode with SS set (TrapReturn). -/
theorem test_hyp_TrapReturn :
    let s (m : Mode) (a : Word64) := (onCore m []).updCore 0 (fun c => { c with epc := a, mepc := a, status := c.status ||| 0x400 })
    CoreReady .supervisor false (s .supervisor 0x10000) 0 ∧ CoreReady .supervisor false (s .machine 0x10001) 0 ∧
      (0x10000#64).getLsbD 0 = false ∧ (0x10001#64).getLsbD 0 = true ∧
      nextIs (exec (.eret 0 0) (s .supervisor 0x10000)) (fun t => (t.core 0).mode == .user && bit (t.core 0).status 10) = true ∧
      ((s .user 0).active = .core 0 ∧ ((s .user 0).core 0).pfx = none) := by
  intros; and_intros <;> first | decide +kernel | exact coreReady (by decide +kernel)

/-- A level at whose end the unit arrives, with its counter at 1 and above, and one in which it does not (LoopEndStep). -/
theorem test_hyp_LoopEndStep :
    let s (n : Word64) := (onCore .user [(5, n)]).updCore 0 (fun c =>
      { c with pc := 0x10, lbeg0 := 4, lend0 := 0x9400000000000000 + 0xA })
    let stop : Word64 := (((s 1).core 0).lend0.extractLsb' 0 56 ++ 0#1).signExtend 64
    bit ((s 1).core 0).lend0 63 = true ∧ bit ((s 1).core 0).lend1 63 = false ∧
      ((s 1).core 0).pc + BitVec.ofNat 64 4 = stop ∧ ((s 1).core 0).pc + BitVec.ofNat 64 2 ≠ stop ∧
      ((s 1).core 0).status.extractLsb' 2 2 = ((s 1).core 0).lend0.extractLsb' 56 2 ∧
      ((s 1).core 0).lend0.extractLsb' 58 5 = 5#5 ∧ gGet (s 1) 0 5 - 1 = 0 ∧ gGet (s 2) 0 5 - 1 ≠ 0 := by decide

/-- LOOP with a count of 0 and 1, with no level, level 0 and level 1 open, inside and beyond level 0's end (LoopOpensALevel). -/
theorem test_hyp_LoopOpensALevel :
    let s (e0 e1 : Word64) := (onCore .user [(9, 1)]).updCore 0 (fun c => { c with lend0 := e0, lend1 := e1 })
    let open0 : Word64 := 0x8000000000000003
    let e (o : BitVec 12) : Word64 := ((s open0 0).core 0).pc + BitVec.ofInt 64 (2 * o.toInt)
    CoreReady .user true (s open0 open0) 0 ∧ ((s open0 open0).core 0).lend1.getLsbD 63 = true ∧
      ((s open0 0).core 0).lend1.getLsbD 63 = false ∧ ((s open0 0).core 0).lend0.getLsbD 63 = true ∧
      gGet (s open0 0) 0 9 ≠ 0 ∧ gGet (s open0 0) 0 8 = 0 ∧
      (open0.extractLsb' 0 56).toNat < ((e 4).extractLsb' 1 56).toNat ∧
      ((e 3).extractLsb' 1 56).toNat ≤ (open0.extractLsb' 0 56).toNat ∧ 2 < (3#12).toInt ∧ (2#12).toInt ≤ 2 := by
  intros; and_intros <;> first | decide +kernel | exact coreReady (by decide +kernel)

/-- A fetch at a trap target in each mode (FetchFaults). -/
theorem test_hyp_FetchFaults :
    let s (m : Mode) (v : Bool) := (onCore m []).updCore 0 (fun c => { c with atVector := v })
    ((s .user false).core 0).atVector = false ∧
      (((s .supervisor true).core 0).atVector = true ∧ ((s .supervisor true).core 0).mode ≠ .machine) ∧
      (((s .machine true).core 0).atVector = true ∧ ((s .machine true).core 0).mode = .machine) := by decide

/-- A prefix pending and not pending, on a core and in a cell, and an EXT in the last halfword of a routine
(PrefixesHintsAndIllegal). -/
theorem test_hyp_PrefixesHintsAndIllegal :
    let s := (onCore .user []).updCore 0 (fun c => { c with pfx := some 1 })
    let q : Task := { task with pfx := some 1 }
    (s.active = .core 0 ∧ (s.core 0).pfx ≠ none) ∧ ((onCore .user []).core 0).pfx = none ∧
      CellReady false true 1 (onCell q) 0 q ∧ CellReady false true 1 (onCell task) 0 task ∧
      task.pc + 1 < task.start + task.size ∧ task.start + task.size ≤ 9 + 1 := by
  intros; and_intros <;> first | decide +kernel | exact cellReady (by decide +kernel)

/-- A mode and class for each clause of ClassAndPrivilege. -/
theorem test_hyp_ClassAndPrivilege :
    ((onCore .user []).active = .core 0 ∧ ((onCore .user []).core 0).pfx = none ∧ ((onCore .user []).core 0).mode = .user ∧
      ((onCore .supervisor []).core 0).mode ≠ .machine) ∧
    ((onCell task).active = .cell 0 ∧ ((onCell task).cell 0).task = some task ∧ task.pfx = none ∧ task.units < 128 ∧
      tileKind 128 ≠ .m) := by decide +kernel

/-- Encodings of both kinds (EncodeThenDecode, DecodeThenEncode). -/
theorem test_hyp_EncodeAndDecode :
    (encode (.add 1 2 3 0) ≠ [] ∧ isStop (.add 1 2 3 0) = false) ∧
    (encode (.strmiStop 1 2 3 0) ≠ [] ∧ isStop (.strmiStop 1 2 3 0) = true) ∧
    ((0x82321400#32).getLsbD 31 = true ∧ decode32 0x82321400 ≠ .illegalEncoding ∧ bits 0x82321400#32 30 25 ≠ 0x3D ∧
      bits 0x82321400#32 30 25 ≠ 0x3E) ∧
    (bits 0xFA000000#32 30 25 = 0x3D ∧ bits 0xFC000000#32 30 25 = 0x3E) ∧
    ((0x7000#16).getLsbD 15 = false ∧ decode16 0x7000 ≠ .illegalEncoding) := by decide

/-- The hypotheses of the integer statements: a zero and a nonzero divisor, sizes 2 and 3, fields that end at bit 63 and beyond
(RegisterReadWrite, RegisterInstructionsFrame, IntegerRegisterResults, DivisionAndSaturation, UnaryAndFieldResults,
ImmediateResults, ShortIntegerForms). -/
theorem test_hyp_IntegerInstructions :
    let s := onCore .user [(5, 7)]
    let p := s.updCore 0 (fun c => { c with pfx := some 0x7FF })
    CoreReady .user false s 0 ∧ CoreReady .user true p 0 ∧ gGet s 0 5 ≠ 0 ∧ gGet s 0 6 = 0 ∧
      (2#5).toNat ≤ 2 ∧ 2 < (3#5).toNat ∧ (63#6).toNat + ((0#6).toNat + 1) ≤ 64 ∧ 64 < (63#6).toNat + ((1#6).toNat + 1) ∧
      nextIs (exec (.add 3 5 5 0) s) (fun _ => true) = true ∧ (3#5 ≠ 0#5) := by
  intros; and_intros <;> first | decide +kernel | exact coreReady (by decide +kernel)

/-- Branches and jumps on a core and in a cell, with and without a prefix, forward and not, to odd and even targets (CoreBranches,
CellBranches, ShortBranches, JumpsAndReturns). -/
theorem test_hyp_Branches :
    let s := onCore .user [(9, 0x101)]
    let p := s.updCore 0 (fun c => { c with pfx := some 1 })
    CoreReady .user true p 0 ∧ CoreReady .user false s 0 ∧ CellReady false true 2 (onCell task) 0 task ∧
      okIs (sGetL (onCell task) 0 0) (· == 5) = true ∧ okIs (sGetL (onCell task) 0 10) (· == 0) = true ∧
      ((0#12).toInt ≤ 0 ∧ ¬ (1#12).toInt ≤ 0) ∧ (gGet s 0 9 + BitVec.ofInt 64 0).getLsbD 0 = true ∧
      (gGet s 0 9 + BitVec.ofInt 64 1).getLsbD 0 = false := by
  intros; and_intros <;> first | decide +kernel | exact coreReady (by decide +kernel) | exact cellReady (by decide +kernel)

/-- HALT from Supervisor mode, and a halted core with nothing pending (HaltStopsIssue). -/
theorem test_hyp_HaltStopsIssue :
    let s := (mapped []).updCore 0 (fun c => { c with halted := true })
    CoreReady .supervisor false (onCore .supervisor []) 0 ∧
      ((s.core 0).halted = true ∧ (s.core 0).pfx = none ∧ coreRuns s 0 = true ∧ nextAsync s 0 = none) :=
  ⟨coreReady (by decide), by decide +kernel⟩

/-- SEV with a present isle of the same and of another context; WFE with the event bit, with a cause pending, and with neither;
a core that waits for an event (EventBits). -/
theorem test_hyp_EventBits :
    let s := mapped []
    let ev (e : Bool) (w : Option Wait) := s.updCore 0 (fun c => { c with event := e, waiting := w })
    CoreReady .user false s 0 ∧ (s.present (1 / 16) = true ∧ (s.isle 1).ctx = (s.isle 0).ctx) ∧
      ((s.updIsle 1 (fun i => { i with ctx := 1 })).isle 1).ctx ≠ (s.isle 0).ctx ∧
      ((ev true none).core 0).event = true ∧ pendingAsync (s.updCore 0 (fun c => { c with killed := true })) 0 ≠ [] ∧
      ((ev false none).core 0).event = false ∧ pendingAsync (ev false none) 0 = [] ∧
      (coreRuns (ev true (some .event)) 0 = true ∧ ((ev true (some .event)).core 0).waiting = some .event ∧
        ((ev true (some .event)).core 0).event = true) := by
  intros; and_intros <;> first | decide +kernel | exact coreReady (by decide +kernel)

/-! ### Hypotheses of the statements: system, float and memory instructions -/

/-- A core in each mode for the system registers; a number that R114 does not list; a Supervisor core (SystemRegisterReads,
SystemRegisterWrites). -/
theorem test_hyp_SystemRegisters :
    CoreReady .user false (onCore .user []) 0 ∧ modeLe .supervisor ((onCore .user []).core 0).mode = false ∧
      modeLe .machine ((onCore .machine []).core 0).mode = true ∧ CoreReady .machine false (onCore .machine []) 0 ∧
      CoreReady .supervisor false (onCore .supervisor []) 0 ∧ ((onCore .supervisor []).core 0).mode = .supervisor ∧
      (0x300#12).toNat ∉ [0, 1, 2, 3, 4, 0x10, 0x11, 0x12, 0x13, 0x100, 0x101, 0x102, 0x103, 0x104, 0x105, 0x106, 0x107,
        0x301, 0x302, 0x303, 0x304] := by
  and_intros <;> first | decide +kernel | exact coreReady (by decide +kernel)

/-- Supervisor and Machine mode, with an entry to drop and one to keep (TranslationInvalidate). -/
theorem test_hyp_TranslationInvalidate :
    let e (c : Nat) : TlbEntry := ⟨.data, c, 0, 0x1000, 0x1000, ⟨0, 0, true, true, true, true⟩⟩
    let s (m : Mode) := (onCore m [(5, 0x1000)]).updIsle 0 (fun i => { i with tlb := [e 0, e 1] })
    CoreReady .supervisor false (s .supervisor) 0 ∧ ((s .supervisor).core 0).mode ≠ .machine ∧
      ((s .machine).core 0).mode = .machine ∧ (e 0).ctx = ((s .machine).isle 0).ctx ∧ (e 1).ctx ≠ ((s .machine).isle 0).ctx ∧
      (e 0).base ≤ (gGet (s .machine) 0 5).toNat ∧ (gGet (s .machine) 0 5).toNat < (e 0).base + (e 0).size := by
  intros; and_intros <;> first | decide +kernel | exact coreReady (by decide +kernel)

/-- SIGV of a busy and of a free tag, misaligned and aligned, with room and without; a request under way (SignatureRequests). -/
theorem test_hyp_SignatureRequests :
    let r : SigReq := ⟨63, 0x1000, 0, 0, []⟩
    let s := mapped [(5, 0x1001), (6, 0x1000)]
    let full := s.updIsle 0 (fun i => { i with sigs := List.replicate 8 r, ctb := 0 })
    CoreReady .supervisor false s 0 ∧ bit (s.isle 0).ctb 63 = true ∧ (gGet s 0 5).toNat % 32 ≠ 0 ∧
      (gGet s 0 6).toNat % 32 = 0 ∧ okIs (translate s (coreReq s 0 .data) (gGet s 0 6) .load) (fun _ => true) = true ∧
      (s.isle 0).sigs.length < 8 ∧ 8 ≤ (full.isle 0).sigs.length ∧ bit (full.isle 0).ctb 63 = false ∧
      (full.isle 0).sigs[7]? = some r ∧ r.tag < 64 := by
  intros; and_intros <;> first | decide +kernel | exact coreReady (by decide +kernel)

/-- Quiet and signalling NaNs and numbers as operands, and the enables of the float traps (FloatInstructions, RoundingIsCorrect). -/
theorem test_hyp_FloatInstructions :
    let s := (onCore .user [(5, 0x7FC00000), (6, 0x7F800001), (7, 0x3F800000)]).updCore 0 (fun c => { c with fcsr := 0x30000 })
    let nan (v : Nat) := v / 2 ^ 23 % 256 = 255 ∧ v % 2 ^ 23 ≠ 0
    let x (r : BitVec 5) := (gGet s 0 r).toNat % 2 ^ 32
    CoreReady .user false s 0 ∧ nan (x 5) ∧ nan (x 6) ∧ ¬ nan (x 7) ∧ x 5 / 2 ^ 22 % 2 = 1 ∧ x 6 / 2 ^ 22 % 2 = 0 ∧
      bit (s.core 0).fcsr 16 = true ∧ bit (s.core 0).fcsr 17 = true ∧ bit (fAdd f32 0 (x 6) (x 7)).2 4 = true ∧
      bit (fMul f32 0 0x7F000000 0x7F000000).2 2 = true ∧ (roundF f32 0 false 1 (-149)).1 % 2 ^ 31 ≠ 255 * 2 ^ 23 := by
  intros; and_intros <;> first | decide +kernel | exact coreReady (by decide +kernel)

/-- The format codes at the ends of each range of ScalarConversions, and a value that clamps. -/
theorem test_hyp_ScalarConversions :
    let s := (onCore .user [(5, 128)]).updCore 0 (fun c => { c with status := 0x800 })
    CoreReady .user false s 0 ∧ 11 ≤ (11#4).toNat ∧ (5#4).toNat ≤ 5 ∧ 6 ≤ (6#4).toNat ∧ (10#4).toNat ≤ 10 ∧
      bit (s.core 0).status 11 = true ∧ (127 : Int) < ((gGet s 0 5).setWidth 32).toInt := by
  intros; and_intros <;> first | decide +kernel | exact coreReady (by decide +kernel)

/-- LD: a size of 3 and 4, an aligned and a misaligned address, one that does not translate, and a good and an uncorrectable byte
(GlobalLoads). -/
theorem test_hyp_GlobalLoads :
    let s := mapped [(5, 0x1000), (6, 0x40000000)]
    let tr (s : State) (r : BitVec 5) := translate s (coreReq s 0 .data) (gGet s 0 r) .load
    CoreReady .user true s 0 ∧ 4 ≤ (4#3).toNat ∧ (3#3).toNat < 4 ∧ (gGet s 0 5).toNat % 8 = 0 ∧
      (gGet s 0 5 + 1).toNat % 2 ≠ 0 ∧ errIs (tr s 6) (fun e => e.1 == .s2Fault) = true ∧
      okIs (tr s 5) (fun x => !x.1.dev && (readFault x.2 x.1.key 8).isNone) = true ∧
      okIs (tr { s with memUe := [0x40001000] } 5) (fun x => !x.1.dev && (readFault x.2 x.1.key 8).isSome) = true := by
  intros; and_intros <;> first | decide +kernel | exact coreReady (by decide +kernel)

/-- ST and STL: a size of 3 and 4, an aligned and a misaligned address, one that translates to each kind that stores, and one that does
not translate (GlobalStores, ReleaseStores, LoadReturnsTheStore). -/
theorem test_hyp_GlobalStores :
    let s := mapped [(5, 0x1038), (6, 0x40000000)]
    let tr (s : State) (r : BitVec 5) := translate s (coreReq s 0 .data) (gGet s 0 r) .store
    let f := fenceCaches s 0 2 3
    CoreReady .user true s 0 ∧ (gGet s 0 5).toNat % 8 = 0 ∧ (gGet s 0 5 + 1).toNat % 8 ≠ 0 ∧
      errIs (tr s 6) (fun _ => true) = true ∧
      okIs (tr s 5) (fun x => !x.1.dev && x.1.kind != 1 && decide (x.1.key % 64 + 8 ≤ 64)) = true ∧
      okIs (tr f 5) (fun x => !x.1.dev && x.1.kind != 1) = true ∧ (s.isle 0).line 0 = none := by
  intros; and_intros <;> first | decide +kernel | exact coreReady (by decide +kernel)

/-- PREF of an address that does not translate, of an idle one, and of one whose line comes in (Prefetches). -/
theorem test_hyp_Prefetches :
    let s := mapped [(5, 0x1000), (6, 0x40000000)]
    let tr (s : State) (r : BitVec 5) := translate s (coreReq s 0 .data) (gGet s 0 r) .load
    let idle (x : Loc × State) : Bool := x.1.dev || x.1.kind == 2 || x.1.kind == 3 || x.2.poison.contains (lineOf x.1.key)
    CoreReady .user true s 0 ∧ errIs (tr s 6) (fun _ => true) = true ∧ okIs (tr s 5) (fun x => !idle x) = true ∧
      okIs (tr { s with poison := [lineOf 0x40001000] } 5) idle = true := by
  intros; and_intros <;> first | decide +kernel | exact coreReady (by decide +kernel)

/-- AMO and CAS of sizes 1, 2 and 3, misaligned and aligned, with the last operation code (GlobalAtomics). -/
theorem test_hyp_GlobalAtomics :
    let s := mapped [(5, 0x1004)]
    let tr := translate s (coreReq s 0 .data) (gGet s 0 5) .atomic
    CoreReady .user false s 0 ∧ (1#2).toNat < 2 ∧ 2 ≤ (2#2).toNat ∧ (gGet s 0 5).toNat % 8 ≠ 0 ∧ (gGet s 0 5).toNat % 4 = 0 ∧
      (8#5).toNat ≤ 8 ∧ okIs tr (fun x => !x.1.dev && x.1.kind != 2 && (readFault x.2 x.1.key 4).isNone) = true := by
  intros; and_intros <;> first | decide +kernel | exact coreReady (by decide +kernel)

/-- FENCE on a core with a dirty line, and in a cell; kinds 0 and 2, scopes 1, 2, 3 and 4 (Fences). -/
theorem test_hyp_Fences :
    let v : L2Line := ⟨false, List.replicate 64 7, 1, 0, 0, 0, 0⟩
    let s := (onCore .user []).updIsle 0 (fun i => { i with l2 := [(4, v)] })
    CoreReady .user false s 0 ∧ ((s.isle 0).line 4 = some v ∧ v.coh = false ∧ bit v.dirty 0 = true) ∧
      ((2#2) ≠ 0 ∧ 2 ≤ (2#3).toNat ∧ (3#3).toNat < 4 ∧ 4 ≤ (4#3).toNat ∧ (1#3).toNat < 2) ∧
      CellReady false false 2 (onCell task) 0 task := by
  intros; and_intros <;> first | decide +kernel | exact coreReady (by decide +kernel) | exact cellReady (by decide +kernel)

/-- A SCRATCH bank of the context with a buffer that an engine owns, and the last byte of the bank (ScratchpadProtection). -/
theorem test_hyp_ScratchpadProtection :
    let i : Isle := { Isle.reset with
      banks := [(0, ⟨.scratch, 1, 0, .cache, false, false⟩)], dir := [⟨0x40, 64, 0, false, false⟩],
      spm := [(0x40, 1)], spmUe := [0x1FFFF] }
    let scratch (x : Nat) : Prop := (i.bank (x / 2 ^ 17)).mode = .scratch ∧ (i.bank (x / 2 ^ 17)).ctx = 1
    scratch 0 ∧ scratch 0x1FFFF ∧ ¬ scratch 0x20000 ∧ i.bufferAt 0x40 = some ⟨0x40, 64, 0, false, false⟩ ∧
      i.bufferAt 0x80 = none ∧ i.header 0x40 % 2 = 1 ∧
      spmFault i 1 0x1FFF8 8 false true = some (.memUe, 0x1FFF8) ∧ spmFault i 1 0x1FFF0 8 false true = none := by decide +kernel

/-- LDS and STS on a core at the last doubleword of a bank, beyond it, misaligned, and with a reserved size; the short forms
(CoreScratchpadAccess). -/
theorem test_hyp_CoreScratchpadAccess :
    let s := withScratch 0 (onCore .user [(9, 0x1FFF8), (10, 0x20000)])
    let fault (a : Word64) (w r : Bool) := spmFault (s.isle 0) (s.isle 0).ctx a 8 w r
    CoreReady .user true s 0 ∧ (s.core 0).pfx = none ∧ 4 ≤ (4#3).toNat ∧ (gGet s 0 9 + 1).toNat % 8 ≠ 0 ∧
      (gGet s 0 9).toNat % 8 = 0 ∧ fault (gGet s 0 9) false true = none ∧ fault (gGet s 0 9) true false = none ∧
      (fault (gGet s 0 10) false true).isSome = true := by
  intros; and_intros <;> first | decide +kernel | exact coreReady (by decide +kernel)

/-- LDS and STS in a cell: registers 7, 8, 9 and 10, an aligned and a misaligned address, one out of bounds (CellScratchpadAccess). -/
theorem test_hyp_CellScratchpadAccess :
    let s := withScratch 1 (onCell task)
    let fault (a : Word64) (w r : Bool) := spmFault (s.isle 0) (tileCtx s 0) a 32 w r
    CellReady false true 5 s 0 task ∧ okIs (sGetL s 0 2) (· == 0) = true ∧ okIs (sGetL s 0 0) (fun x => x.toNat % 4 == 1) = true ∧
      okIs (lGet s 0 1) (fun _ => true) = true ∧ fault 0 false true = none ∧ fault 0 true false = none ∧
      (fault 0x20000 false true).isSome = true ∧ (7#5).toNat ≤ 7 ∧ 8 ≤ (8#5).toNat ∧ (9#5).toNat ≤ 9 ∧ 10 ≤ (10#5).toNat := by
  intros; and_intros <;> first | decide +kernel | exact cellReady (by decide +kernel)

/-- AMOS, TSB and TCB of either class (ScratchpadAtomics). -/
theorem test_hyp_ScratchpadAtomics :
    let s := withScratch 0 (onCore .user [(9, 0x100)])
    let u := withScratch 1 (onCell task)
    BothReady false 6 s (.core 0) ∧ readable (.core 0) 9 ∧ okIs (sGet s (.core 0) 9) (· == 0x100) = true ∧
      spmFault (s.isle 0) (ctxOf s (.core 0)) 0x100 8 true true = none ∧ (0x100#64).toNat % 8 = 0 ∧ (5#64).toNat % 4 ≠ 0 ∧
      BothReady false 6 u (.cell 0) ∧ readable (.cell 0) 10 ∧ writable (.cell 0) 7 ∧ okIs (sGet u (.cell 0) 2) (· == 0) = true ∧
      spmFault (u.isle 0) (ctxOf u (.cell 0)) 0 8 true true = none := by
  intros; and_intros <;> first
    | decide +kernel
    | exact coreReady (by decide +kernel)
    | exact ⟨task, cellReady (by decide +kernel)⟩
    | exact (by decide : (10#5).toNat ≤ 10)
    | exact (by decide : (7#5).toNat ≤ 7)
    | trivial

/-- OWN.DECL that fits, and a buffer owned by the core and by an engine, with and without a reference (BufferOwnership). -/
theorem test_hyp_BufferOwnership :
    let e (r : Nat) : BufEntry := ⟨0x40, 64, r, false, false⟩
    let s (owner : Byte) (r : Nat) := (withScratch 0 (onCore .user [(9, 0x40), (10, 0x80), (11, 64)])).updIsle 0 (fun i =>
      { i with dir := [e r], spm := i.spm.put 0x40 owner })
    let held (o : Byte) (r : Nat) : Prop := ((s o r).isle 0).buffer 0x40 = some (e r) ∧
      (((s o r).isle 0).bank 0).mode = .scratch ∧ (((s o r).isle 0).bank 0).ctx = ctxOf (s o r) (.core 0)
    BothReady false 2 (s 0 0) (.core 0) ∧ held 0 0 ∧ held 1 0 ∧ held 1 1 ∧
      ((s 1 0).isle 0).header 0x40 % 2 = 1 ∧ ¬ ((s 0 0).isle 0).header 0x40 % 2 = 1 ∧
      ((s 0 0).isle 0).spmOk 0 0x80 64 = true ∧ (∀ f, f ∈ ((s 0 0).isle 0).dir → ¬ (f.base < 0x80 + 64 ∧ 0x80 < f.base + f.len)) ∧
      ((s 0 0).isle 0).buffer 0x80 = none ∧ (gGet (s 0 0) 0 11).toNat < 2 ^ 52 ∧ 64 ≤ (gGet (s 0 0) 0 11).toNat % 2 ^ 32 := by
  intros; and_intros <;> first | decide +kernel | exact coreReady (by decide +kernel)

/-! ### Further hypotheses: waits, signatures, LOC memory, caches -/

/-- A User core of context 1 with these g registers; the byte at 0x4000B000 + `i` of the leaf that maps its addresses is `b`. -/
def withLeaf (i : Nat) (b : Byte) (l : List (BitVec 5 × Word64)) : State :=
  let s := { busy l none with active := .core 0 }
  { s with mem := Memory.write s.mem (0x4000B000 + i) b }

/-- A core that waits in WFE when a cause comes pending, and one in the middle of a STEAL (AsynchronousCauses, CoreStepRunsDecoded). -/
theorem test_hyp_WaitingCores :
    let s (w : Wait) : State := (onCore .user []).updCore 0 (fun c => { c with killed := true, waiting := some w })
    let u (w : Wait) : State := { s w with mgmt := { (s w).mgmt with bootstat := 0x10000, islerst := 0 } }
    (nextAsync (u .event) 0 ≠ none ∧ ((u .event).core 0).pfx = none ∧ coreRuns (u .event) 0 = true ∧
      ((u .event).core 0).waiting = some .event) ∧
    (((u (.steal 2)).core 0).waiting = some (.steal 2) ∧ coreRuns (u (.steal 2)) 0 = true) := by
  decide +kernel

/-- The descriptor of a signature request that can be read: with a LENGTH of 0, with a good one, and with bytes that are not
those read before (SignatureRequests). -/
theorem test_hyp_SignatureResults :
    let s : State := mapped []
    let u : State := { s with mem := Memory.write s.mem 0x40001008 64 }
    let rd (t : State) := readVa t (sigReqOf t 0 0) 0x1000 32 2
    okIs (rd s) (fun x => numOf ((x.1.drop 8).take 8) == 0) = true ∧
      okIs (rd u) (fun x => numOf ((x.1.drop 8).take 8) == 64 && numOf ((x.1.drop 28).take 4) == 0) = true ∧
      sigBytes s 0 0 0x1000 = (SigReq.mk 5 0x1000 0 0 (sigBytes s 0 0 0x1000)).seen ∧
      sigBytes u 0 0 0x1000 ≠ (SigReq.mk 5 0x1000 0 0 [1]).seen := by
  decide +kernel

/-- A LOC line that can be kept, whose bytes another isle of the die holds dirty, and an isle that can hold no line
(GlobalStores, ReleaseStores). -/
theorem test_hyp_LocStores :
    let v : L2Line := ⟨false, List.replicate 64 7, 1, 0, 0, 0, 0⟩
    let s := (withLeaf 7 4 [(5, 0x1000)]).updIsle 1 (fun i => { i with l2 := [(0x1000040, v)] })
    let bare := s.updIsle 0 (fun i => { i with
      banks := (List.range 256).map (fun n => (n, ⟨.scratch, 1, 0, .cache, false, false⟩)), l2 := [] })
    let tr (s : State) := translate s (coreReq s 0 .data) (gGet s 0 5) .store
    okIs (tr s) (fun x => !x.1.dev && x.1.kind == 1 && x.1.key % 64 + 8 ≤ 64 && lineOf x.1.key == 0x1000040 &&
      (x.2.isle 0).caches && (locLine x.2 0 0x1000040).length == 64) = true ∧
    ((s.isle 1).line 0x1000040 = some v ∧ bit v.dirty 0 = true ∧ 1 ∈ dieIsles (0 / 16)) ∧
    okIs (tr bare) (fun x => x.1.kind == 1 && !(x.2.isle 0).caches && ((x.2.isle 0).line 0x1000040).isNone) = true := by
  decide +kernel

/-- The device window: an isle's block in User mode and in Machine mode, and a housekeeping register; an atomic on an uncorrectable byte,
and one that does not translate (GlobalLoads, GlobalStores, GlobalAtomics). -/
theorem test_hyp_DeviceAccesses :
    let u := [(5, 0xFF), (6, 0x0F), (7, 8)].foldl (fun s x => { s with mem := Memory.write s.mem (0x4000B000 + x.1) x.2 })
      (withLeaf 0 0x3F [(5, 0x1000)])
    let m := mapped [(5, BitVec.ofNat 64 (Config.window + 0x1000)), (6, BitVec.ofNat 64 (Config.mgmtBase + 0xE0)), (7, 0x40000000), (8, 0x1000)]
    let tr (s : State) (r : BitVec 5) (a : Access) := translate s (coreReq s 0 .data) (gGet s 0 r) a
    let allowed (s : State) (x : Loc × State) := x.1.dev && modeLe (devMode (devBlock x.2 x.1.gpa)) (s.core 0).mode
    [Access.load, .store].all (fun a => okIs (tr u 5 a) (fun x => x.1.dev && !allowed u x)) = true ∧
      [Access.load, .store, .atomic].all (fun a => okIs (tr m 5 a) (fun x => allowed m x && !housekeeping x.2 x.1.gpa)) = true ∧
      okIs (tr m 6 .store) (fun x => allowed m x && housekeeping x.2 x.1.gpa) = true ∧ errIs (tr m 7 .atomic) (fun _ => true) = true ∧
      okIs (tr { m with memUe := [0x40001000] } 8 .atomic) (fun x => !x.1.dev && x.1.kind != 2 &&
        (readFault x.2 x.1.key 8).isSome) = true := by
  decide +kernel

/-- PREF needs no right: a page without R, W and U, and where the line can and cannot come in (Prefetches). -/
theorem test_hyp_PrefetchRights :
    let u := withLeaf 0 3 [(5, 0x1000)]
    let tr (s : State) (a : Access) := translate s (coreReq s 0 .data) (gGet s 0 5) a
    okIs (tr u .pref) (fun x => !x.1.dev && x.1.kind == 0 && (x.2.isle 0).caches) = true ∧
      errIs (tr u .load) (fun _ => true) = true := by
  decide +kernel

/-- An acquire's isle with a clean and a partly dirty LOC line (Fences). -/
theorem test_hyp_AcquireLines :
    let s := (onCore .user []).updIsle 0 (fun i => { i with
      l2 := [(4, ⟨false, List.replicate 64 7, 1, 0, 0, 0, 0⟩), (5, ⟨false, List.replicate 64 7, 0, 0, 0, 1, 0⟩)] })
    nextIs (exec (.fence 1 2 0) s) (fun u => ((u.isle 0).line 4).isSome && ((u.isle 0).line 5).isNone) = true := by
  decide +kernel

/-- Cells and cores for OWN.TAKE and OWN.DROP of a buffer whose header carries a scale tag (BufferOwnership). -/
theorem test_hyp_TaggedBuffers :
    let s := (withScratch 0 (onCore .user [(9, 0x40)])).updIsle 0 (fun i =>
      { i with dir := [⟨0x40, 64, 0, true, false⟩], spm := [(0x44, 8), (0x45, 2)], scales := [(2, ⟨.named, 0, 0, 1, []⟩)] })
    let h := (s.isle 0).header 0x40
    fieldOf h 35 35 = 1 ∧ fieldOf h 47 40 = 2 ∧ fieldOf h 47 40 < 256 ∧ ((s.isle 0).scale 2).live = 1 ∧
      ((s.isle 0).buffer 0x40).isSome = true := by
  decide +kernel

/-- A user's access that walks, one that a TLB entry serves, addresses beyond 57 bits, EN = 0, a Machine-mode access to memory and to the
device window, a leaf without the right, and stage 2 by the cache and by the walk (AddressTranslation). -/
theorem test_hyp_AddressTranslation :
    let s := busy [] none
    let rq := coreReq s 0 .data
    let m := coreReq (mapped []) 0 .data
    let e : TlbEntry := ⟨rq.client, rq.ctx, rq.tenant, 0x10000, 2 ^ 16, ⟨0x50000, 0, true, false, true, true⟩⟩
    let t := s.updIsle 0 (fun i => { i with tlb := [e] })
    (rq.direct = false ∧ bit rq.root 0 = true ∧ tlbFind (s.isle 0) rq 0x3000 = none ∧ agentIsle rq.agent = 0 ∧
      okIs (walk s rq 0x3000 0 5 (bits rq.root 51 12 * 4096)) (fun r => r.1.1.r && r.1.2 == 2 ^ 30 && r.1.1.kind == 0) = true ∧
      okIs (walkRead s rq (bits rq.root 51 12 * 4096)) (fun r => r.1 % 4 == 1 && r.1 / 2 ^ 58 % 4 == 0) = true ∧
      errIs (walk s rq (2 ^ 56) 0 5 (bits rq.root 51 12 * 4096)) (· == .s1Unmapped) = true) ∧
    (tlbFind (t.isle 0) rq 0x10008 = some e) ∧
    (2 ^ 56 ≤ (0x100000000000000#64).toInt ∧ (0xFE00000000000000#64).toInt < -2 ^ 56 ∧ ¬ 2 ^ 56 ≤ (0x3000#64).toInt) ∧
    (bit (coreReq (s.updCore 0 (fun c => { c with ptroot := 0 })) 0 .data).root 0 = false) ∧
    (m.direct = true ∧ Config.window ≤ (0xFFF0000000008#64).toNat ∧ (0xFFF0000000008#64).toNat < 2 ^ 52 ∧
      okIs (stage2 (mapped []) 0 m.tenant 0x3000 .load) (fun _ => true) = true) ∧
    (((s.die 0).fenced = false) ∧ s.dsel 0 0 = 0 ∧
      ((s.die 0).s2cache.any (fun e => e.tenant == 0 && e.base ≤ 0x3000 && decide (0x3000 < e.base + e.size)) ||
        (s2walk s 0 0 0x3000).isSome) = true) := by
  decide +kernel

/-- A COH line that an isle holds under lease, one whose lease is over, one that it does not hold, and an atomic that writes and one that
does not (LeasedLines). -/
theorem test_hyp_LeasedLines :
    let c (r : Nat) : L2Line := { coh := true, data := List.replicate 64 7, dirty := 0, cw := 1, cr := r, pins := 0, bank := 0 }
    let s (r : Nat) := (mapped []).updIsle 0 (fun i => { i with l2 := [(3, c r)], core := { i.core with pts := 5 } })
    ((s 5).isle 0).line 3 = some (c 5) ∧ (s 5).pts (.core 0) = 5 ∧ (5 ≤ (c 5).cr ∧ (c 4).cr < (s 4).pts (.core 0)) ∧
      ((s 5).isle 0).line 4 = none ∧ agentIsle (.core 0) = 0 ∧ ((s 4).isle 0).line 3 = some (c 4) ∧
      (if (Memory.readN (s 5).mem 192 8).length = 8 then some [1#8] else none) = some [1] := by
  decide +kernel

/-- Operands that are a NaN, an infinity, a zero or a number, and sums and numbers beyond the range (FloatSpecialCases). -/
theorem test_hyp_FloatSpecialCases :
    let mag (v : Nat) := v % 2 ^ 31
    let top := 255 * 2 ^ 23
    (top < mag 0x7FC00000 ∧ top < mag 0xFF800001 ∧ 0xFF800001 / 2 ^ 22 % 2 = 0 ∧ mag 0xFF800000 = top ∧ mag 0x80000000 = 0 ∧
      mag 0x7F7FFFFF < top ∧ 0xBF800000 = (0x3F800000 + 2 ^ 31) % 2 ^ 32 ∧ 0xFF800000 / 2 ^ 31 = 1) ∧
    (2 ^ 128 ≤ 1 * 2 ^ 128 ∧ 2 ^ 9 ≤ 1 * 2 ^ 9) ∧
    (absUnits (unpackF f32 0x3FC00000) = 3 * 2 ^ 148 ∧ absUnits (unpackF f32 0x4F000000) / 2 ^ 149 = 2 ^ 31) := by
  decide +kernel

/-! ### Hypotheses of the statements: cells -/

/-- Operands t0 to t3, i0 and hdr of each element type, with sums that fit and that do not (VectorIntegerResults,
VectorFloatResults, VectorMoves, ShortVectorForms). -/
theorem test_hyp_VectorInstructions :
    let s := onCell task
    let l (r : BitVec 5) := lGet s 0 r
    CellReady false false 4 s 0 task ∧ okIs (l 0) (fun _ => true) = true ∧ okIs (l 10) (fun _ => true) = true ∧
      (7#5).toNat ≤ 7 ∧ (10#5).toNat ≤ 10 ∧ (5#3).toNat ≤ 5 ∧
      okIs (l 3) (fun x => decide (x.l0.toInt + x.l0.toInt < -2 ^ 31)) = true ∧
      okIs (l 1) (fun x => decide (x.l0.toInt + x.l0.toInt ≤ 2 ^ 31 - 1)) = true ∧
      okIs (l 1) (fun x => decide (-2 ^ 4 ≤ ((x.l7).setWidth 8).toInt) && decide (((x.l7).setWidth 8).toInt < 2 ^ 4)) = true ∧
      (10#4).toNat ≤ 10 ∧ 11 ≤ (11#4).toNat ∧ (8#5 ≠ 9#5) ∧ okIs (lGet s 0 (0#2 ++ 3#3)) (fun _ => true) = true := by
  intros; and_intros <;> first | decide +kernel | exact cellReady (by decide +kernel)

/-- Fields at the ends of their ranges and an undefined temporary (VectorOperandsAndFlags). -/
theorem test_hyp_VectorOperandsAndFlags :
    CellReady false false 2 (onCell task) 0 task ∧ 8 ≤ (8#5).toNat ∧ (7#5).toNat ≤ 7 ∧ 11 ≤ (11#5).toNat ∧ (10#5).toNat ≤ 10 ∧
      (1#4) ∉ [0, 2, 4, 6, 7, 8] ∧ (8#4) ∈ [0, 2, 4, 6, 7, (8 : BitVec 4)] ∧
      ((4#5).toNat ≤ 7 ∧ task.t.toList.getD 4 none = none) ∧ task.t.toList.getD 3 none ≠ none := by
  and_intros <;> first | decide +kernel | exact cellReady (by decide +kernel)

/-- A unit that ends before, at and beyond the routine's end, a task with its 128 units done, and a ring with room
(CellRetirementAndAbort). -/
theorem test_hyp_CellRetirementAndAbort :
    ((onCell task).cell 0).task = some task ∧ 9 < task.start + task.size ∧ 10 = task.start + task.size ∧
      task.start + task.size < 11 ∧ (onCell task).active = .cell 0 ∧ task.pfx = none ∧
      128 ≤ ({ task with units := 128 } : Task).units ∧ ((onCell task).isle (tileIsle 0)).ringCount < 64 := by decide +kernel

/-- A send with a valid and an invalid entry, with no slot left, to a region that the job declares and to one that it does not, with
every tag mode, and from an ERR task (SendInstructions). -/
theorem test_hyp_SendInstructions :
    let q : Task := { task with reserved := [9] }
    let s := onCell q
    let e (o : Nat) := (s.tile 0).dests.get 0 o
    let jb := s.findJob (tileCtx s 0) (tileJob s 0)
    CellReady false false 2 s 0 q ∧ CellReady false true 2 (onCell { q with pfx := some 3 }) 0 { q with pfx := some 3 } ∧
      (bit (e 1) 31 = true ∧ q.sends < q.slots ∧ destOk jb ((e 1).toNat % 2 ^ 19) = true) ∧ bit (e 0) 31 = false ∧
      destOk jb 2 = false ∧ q.slots ≤ ({ q with sends := 2 } : Task).sends ∧ okIs (lGet s 0 1) (fun _ => true) = true ∧
      okIs (sGetL s 0 2) (fun _ => true) = true ∧ q.reserved = [9] ∧ 9 < 4096 ∧ task.reserved = [] ∧ task.err = none ∧
      ({ task with err := some 1 } : Task).err = some 1 := by
  intros; and_intros <;> first | decide +kernel | exact cellReady (by decide +kernel)

/-- A LIVE frame of the context with an empty and a full pair of slots, a frame of another context, and a reservation
(FrameInstructions). -/
theorem test_hyp_FrameInstructions :
    let tok : Token := ⟨0, Lanes.zero⟩
    let q : Task := { task with reserved := [9] }
    let s := (onCell q).updIsle 0 (fun i => { i with
      frames := [(5, ⟨.live, 1, 0, [(2, some tok)]⟩), (6, ⟨.live, 2, 0, []⟩)] })
    let fr (n : Nat) := (s.isle 0).frames.get Frame.reset n
    CellReady false false 2 s 0 q ∧ okIs (sGetL s 0 0) (fun x => x.toNat % 2 ^ 12 == 5) = true ∧
      ((fr 5).st = .live ∧ (fr 5).ctx = tileCtx s 0) ∧ (fr 6).ctx ≠ tileCtx s 0 ∧
      ((fr 5).slots.get none 0 = none ∧ (fr 5).slots.get none (0 ^^^ 1) = none) ∧ (fr 5).slots.get none 2 = some tok ∧
      (fr 5).slots.get none (3 ^^^ 1) ≠ none ∧ q.reserved = 9 :: [] ∧ task.reserved = [] ∧
      (10#5).toNat ≤ 10 ∧ 11 ≤ (11#5).toNat := by
  intros; and_intros <;> first | decide +kernel | exact cellReady (by decide +kernel)

/-- INJ of a DATA, an EOR, an ORD, an ERR and a reserved header, declared and not, at an aligned and a misaligned address
(Injection). -/
theorem test_hyp_Injection :
    let s := withScratch 1 { busy [(5, 0), (6, 0x40), (7, 0x3FFFE)] none with active := .core 0 }
    let eor : Word64 := 0x0210000000000000
    let ord : Word64 := 0x0412000000000000
    let declared (h : Word64) := destOk (declaringJob s (s.isle 0).ctx (hVreg h)) (hDest h)
    let shape (h : Word64) : Prop := bit h 63 = false ∧ hKind h ≤ 6 ∧ hKind h ≠ 5 ∧
      (hKind h = 0 ∨ hLen h = if hKind h = 4 ∨ hKind h = 6 then 1 else 0)
    CoreReady .user false s 0 ∧ (shape 0 ∧ (hType 0).toNat < 14) ∧ shape eor ∧ (shape ord ∧ hKind ord = 4) ∧
      ¬ shape 0x0510000000000000 ∧ declared 0 = true ∧ declared 0x200 = false ∧ (gGet s 0 6).toNat % 4 = 0 ∧
      (gGet s 0 7).toNat % 4 ≠ 0 ∧ spmFault (s.isle 0) (s.isle 0).ctx (gGet s 0 6) 4 false true = none ∧
      (spmFault (s.isle 0) (s.isle 0).ctx 0x3FFFC 8 false true).isSome = true ∧ ¬ (hType 0x00E0000000000000).toNat < 14 := by
  intros; and_intros <;> first | decide +kernel | exact coreReady (by decide +kernel)

/-- Runners for the scale instructions: a name with a register, one that can get one, and one that cannot (ScaleArithmetic,
ScaleRegisterAllocation, ScaleLoadsStoresAndTags). -/
theorem test_hyp_ScaleInstructions :
    let named (s : State) (c : Nat) : Option (Nat × State) := scaleAlloc s 0 c 255
    let s := withScratch 0 (mapped [(9, 0x200)])
    let t := ((named s 0).map (·.2)).getD s
    let p := s.updCore 0 (fun c => { c with pfx := some 1 })
    let full := s.updIsle 0 (fun i => { i with scales := (List.range 256).map (fun r => (r, ⟨.named, 0, 0, 0, []⟩)) })
    BothReady true 12 s (.core 0) ∧ BothReady true 12 (onCell task) (.cell 0) ∧ payload s (.core 0) = none ∧
      payload p (.core 0) = some 1 ∧ okIs (sGet s (.core 0) 9) (· == 0x200) = true ∧
      (s.isle 0).scaleName 0 255 = none ∧ (named s 0).map (·.1) = some 0 ∧ (t.isle 0).scaleName 0 255 = some 0 ∧
      quotaSreg s 0 ≤ ((List.range 256).filter (fun r => (((full.isle 0).scale r).st != .free) &&
        ((full.isle 0).scale r).ctx == 0)).length ∧ scaleAlloc full 0 0 255 = none ∧
      okIs (scaleSpm s (.core 0) 0x200 512 64 false none) (fun _ => true) = true ∧
      okIs (scaleSpm s (.core 0) 0x200 512 64 true none) (fun _ => true) = true ∧
      okIs (scaleSpm s (.core 0) 0x200 64 1 false none) (fun _ => true) = true ∧ (0x200 : Nat) < 2 ^ 25 ∧ 0x210 % 64 ≠ 0 := by
  intros; and_intros <;> first | decide +kernel | exact coreReady (by decide +kernel) | exact ⟨task, cellReady (by decide +kernel)⟩

/-- SBIND of a header in a SCRATCH bank (ScaleLoadsStoresAndTags). -/
theorem test_hyp_ScaleTags :
    let s := (withScratch 0 (onCore .user [(9, 0x40)])).updIsle 0 (fun i =>
      { i with dir := [⟨0x40, 64, 0, false, false⟩] })
    okIs (scaleSpm s (.core 0) 0 0 1 false (some 0x40)) (fun _ => true) = true ∧ fieldOf ((s.isle 0).header 0x40) 35 35 = 0 := by
  decide +kernel

/-- A task whose data have a reserved TYPE, an injection port without credit, and a unit with a prefix of 0 (SendInstructions,
FrameInstructions, Injection, ScaleRegisterAllocation). -/
theorem test_hyp_ReservedTypesAndCredit :
    let q : Task := { task with hdr := 0xE0000000000000 }
    let s : State := { withScratch 1 { busy [(5, 0), (6, 0x40)] none with active := .core 0 } with stuck := [.inject 0] }
    let p := (onCore .user []).updCore 0 (fun c => { c with pfx := some 0 })
    14 ≤ (hType q.hdr).toNat ∧ (hType task.hdr).toNat < 14 ∧ CellReady false false 2 (onCell q) 0 q ∧ q.err = none ∧
      q.sends < q.slots ∧ CoreReady .user false s 0 ∧ PortId.inject 0 ∈ s.stuck ∧
      BothReady true 12 p (.core 0) ∧ payload p (.core 0) = some 0 := by
  intros; and_intros <;> first
    | decide +kernel
    | exact cellReady (by decide +kernel)
    | exact coreReady (by decide +kernel)

/-- SLD with STAMP: a data buffer's header beside its 512 bytes, in words that a prefix of 1 selects (ScaleLoadsStoresAndTags). -/
theorem test_hyp_StampedLoad :
    let p : Nat := 2 ^ 57 + 0x400 * 2 ^ 32 + 0x200
    let s := (withScratch 0 (mapped [(9, BitVec.ofNat 64 p)])).updIsle 0 (fun i => { i with dir := [⟨0x400, 64, 0, false, false⟩] })
    p / 2 ^ 57 = 1 ∧ p / 2 ^ 25 % 2 ^ 7 = 0 ∧
      okIs (scaleSpm s (.core 0) (BitVec.ofNat 64 (p % 2 ^ 25)) 512 64 false (some (p / 2 ^ 32 % 2 ^ 25))) (fun _ => true) = true ∧
      (scaleAlloc s 0 0 3).isSome = true ∧ BothReady true 12 s (.core 0) := by
  intros; and_intros <;> first | decide +kernel | exact coreReady (by decide +kernel)

/-! ### Hypotheses of the statements: the tile fetch unit, the matrix engine and the operators -/

/-- TFETCH with a FREE slot and with none, with a scale name and a ready token, with a reserved bit and an undeclared destination, and with
a prefix that is and is not zero (MatrixFetches). -/
theorem test_hyp_MatrixFetches :
    let q (p : BitVec 11) : Task := { task with pfx := some p }
    let s := onCell task
    let full := s.updTile 0 (fun t => { t with slots := (List.range 8).map (fun j => (j, { Slot.reset with st := .ready })) })
    let jb := s.findJob (tileCtx s 0) (tileJob s 0)
    let clean (w : Word64) : Prop := bits w 31 10 = 0 ∧ (bit w 51 = false → bits w 50 32 = 0) ∧ (bit w 9 = false → bits w 7 0 = 0)
    CellReady true true 2 s 0 task ∧ CellReady true true 2 (onCell (q 1)) 0 (q 1) ∧ (q 1).pfx.getD 0 ≠ 0 ∧
      (q 0).pfx.getD 0 = 0 ∧ clean 0x100 ∧ clean 0x0008000000000305 ∧ ¬ clean 0x400 ∧ ¬ clean 5 ∧
      destOk jb (bits (0x0008000000000305#64) 50 32) = true ∧ destOk jb (bits (0x0008000200000305#64) 50 32) = false ∧
      ((s.tile 0).slot 0).st = .free ∧ ((full.tile 0).slot 7).st ≠ .free ∧ (scaleAlloc s 0 1 5).isSome = true ∧
      okIs (sGetL s 0 0) (fun x => x.toNat == 5) = true := by
  intros; and_intros <;> first | decide +kernel | exact cellReady (by decide +kernel)

/-- A fetch under way: its descriptor names a matrix of memory that can be read, or one that cannot (MatrixFetches). -/
theorem test_hyp_FetchesUnderWay :
    let s (n : Nat) := (onCell task).updTile 0 (fun t => { t with slots := [(7, { Slot.reset with st := .fetching, tid := n })] })
    fetchLive (s 3) 0 = true ∧ (((s 3).tile 0).slot 7).record = none ∧ (runFetch (s 3) 0 7).2.isNone = true ∧
      someIs (runFetch (s 4) 0 7).2 (fun e => e.1 != .remoteFenced) = true := by decide +kernel

/-- TFETCH on a core: a good descriptor and a bad one, with room and with eight prefetches (CorePrefetches). -/
theorem test_hyp_CorePrefetches :
    let s := mapped [(5, 0x100)]
    let p : Prefetch := ⟨0, 0, Desc.none, 0, none, false, 0, 0, none⟩
    let full := s.updIsle 0 (fun i => { i with prefetches := List.replicate 8 p })
    let rd (n : Nat) := readDesc s (engReq s (.core 0) .copy 0) n matrixFmt
    CoreReady .user true { s with active := .core 0 } 0 ∧ okIs (rd 3) (fun x => !x.1.spm && !fmtIsBlock x.1.fmt) = true ∧
      errIs (rd 9) (fun e => e.1 == .descInvalid) = true ∧ (s.isle 0).prefetches.length < 8 ∧
      8 ≤ (full.isle 0).prefetches.length ∧ s.present (isleDie 0) = true ∧ (s.die (isleDie 0)).fenced = false ∧
      okIs (rd 3) (fun x => (prefetchRun s 0 { p with desc := x.1 }).2.isNone) = true := by
  intros; and_intros <;> first | decide +kernel | exact coreReady (by decide +kernel)

/-- A fetch slot that is READY, of format `f`. -/
def readySlot (f : BitVec 4) : Slot :=
  { Slot.reset with st := .ready, fmt := f, data := List.replicate 64 (List.replicate 64 1) }

/-- Handles 1 and 8 and 0 and 9, accumulators 0, 1 and 2, with three and four commands issued, and slots of each kind of format
pair (MatrixCommands). -/
theorem test_hyp_MatrixCommands :
    let q (n : Nat) : Task := { task with engCmds := n, t := task.t.set 1 (some ⟨8, 0, 0, 0, 0, 0, 0, 0⟩) }
    let s (n : Nat) (f g : BitVec 4) := ((onCell (q n)).updTile 0 (fun t => { t with
      slots := [(4, readySlot f), (7, readySlot g)] })).updIsle 0 (fun i => { i with scales := [(0, ⟨.named, 1, 0, 0, []⟩)] })
    let st (f g : BitVec 4) (j : Nat) := ((s 3 f g).tile 0).slot j
    CellReady true false 3 (s 3 4 4) 0 (q 3) ∧ okIs (sGetL (s 3 4 4) 0 0) (· == 5) = true ∧
      okIs (sGetL (s 3 4 4) 0 1) (· == 8) = true ∧ okIs (sGetL (s 3 4 4) 0 2) (· == 0) = true ∧ (q 3).engCmds < 4 ∧
      4 ≤ (q 4).engCmds ∧ ((st 4 4 4).st = .ready ∧ (st 4 4 7).st = .ready) ∧ (st 4 4 0).st ≠ .ready ∧
      (issueView (s 3 4 4) 0 0).pair = none ∧ ((st 9 10 4).fmt = 9 ∧ (st 9 10 7).fmt = 10) ∧ fmtIsFloat (st 6 6 4).fmt = true ∧
      fmtIsBlock (st 12 12 4).fmt = true ∧ tagCurrent ((s 3 4 4).isle 0) 1 (some (0, 0)) = true ∧
      ((1#64).toNat ≤ 1 ∧ 1 < (2#64).toNat) ∧ (bits (64#64) 6 0 ≤ 64 ∧ 1 ≤ bits (1#64) 6 0) ∧
      ((4088 : Nat) < 4096 ∧ 4088 % 8 = 0 ∧ 4 % 8 ≠ 0) := by
  intros; and_intros <;> first | decide +kernel | exact cellReady (by decide +kernel)

/-- An engine with a step at the head of its queue whose slots hold 64 rows, and with each other command there; an accumulator
with a window to close (MatrixEngine). -/
theorem test_hyp_MatrixEngine :
    let s (e : EngCmd) := (onCell task).updTile 0 (fun t => { t with
      slots := [(0, readySlot 4)], eng := { t.eng with queue := [e], acc1 := { t.eng.acc1 with closing := [[]] } } })
    let x := s (.step 1 0 0 true [] [])
    engineLive x 0 = true ∧ (x.tile 0).eng.queue = [.step 1 0 0 true [] []] ∧ ((x.tile 0).slot 0).data.length = 64 ∧
      ((x.tile 0).eng.acc 1).expect = none ∧ ((x.tile 0).eng.acc 1).mode = .empty ∧ ((x.tile 0).eng.acc 1).absorb = none ∧
      fmtIsFloat ((x.tile 0).slot 0).fmt = false ∧ ((x.tile 0).eng.acc 1).window.length < ((x.tile 0).eng.acc 1).l ∧
      ((x.tile 0).eng.acc 1).closing = [[]] ∧ ((x.tile 0).eng.acc 0).closing = [] ∧ ((x.tile 0).eng.acc 0).window = [] ∧
      (∀ e ∈ [EngCmd.macc 1 64 2, .mzero 0, .meor 0 1], engineLive (s e) 0 = true ∧ ((s e).tile 0).eng.queue = [e]) := by
  decide +kernel

/-- A DATA token of type `ty` with `n` + 1 elements whose lanes hold 3. -/
def data (ty n : Nat) : Token := ⟨BitVec.ofNat 64 (ty * 2 ^ 52 + n * 2 ^ 49 + 0x100), ⟨3, 3, 3, 3, 3, 3, 3, 3⟩⟩

/-- Tile 0 of the busy machine with an operator in slot `c`, whose output 0 has a route to port 1 of its own tile. -/
def withOp (c : Nat) (o : Op) : State :=
  (busy [(5, BitVec.ofNat 64 (16 * c))] none).updTile 0 (fun t => { t with
    ops := [(c, { o with used := true })], routes := [(0, BitVec.ofNat 32 (0xC0000080 + c * 2 ^ 25))] })

/-- The operator in slot `c` lives, its output is routed, and `tok` heads its input 0. -/
def fires (c : Nat) (o : Op) (tok : Token) : Bool :=
  let s := withOp c { o with inputs := [(0, [tok])] }
  opLive s 0 c && ((s.op 0 c).input 0 == [tok]) && okIs ((routesOf (s.tile 0) c 0).mapM (routeDest s 0)) (fun l => l.length == 1)

/-- Addresses of a slot in use, of one that is not, of slot 15 and of a slot that the tile lacks; registers of each kind
(OperatorRegisters). -/
theorem test_hyp_OperatorRegisters :
    let s := withOp 2 Op.reset
    BothReady false 12 s (.core 0) ∧ BothReady false 12 (onCell task) (.cell 0) ∧ (s.core 0).mode = .user ∧
      bits (gGet s 0 5) 7 4 = 2 ∧ (kindSlots (tileKind 0)).contains 2 = true ∧ (kindSlots (tileKind 0)).contains 8 = false ∧
      slotInUse s (.core 0) (opTile (.core 0) (gGet s 0 5)) 2 = true ∧
      slotInUse s (.core 0) (opTile (.core 0) 0x30) 3 = false ∧ opMap 2 1 = some (.rw 0xFFFFFFFF) ∧ opMap 1 1 = some .rc ∧
      opMap 2 14 = none ∧ opValid 2 0 = true ∧ opValid 2 15 = false ∧ bits (0xF0#64) 7 4 = 15 ∧
      okIs (spmCheck (withScratch 1 s) (.core 0) 0x40 16 64 true false) (fun _ => true) = true ∧
      okIs (spmCheck (withScratch 1 s) (.core 0) 0x40 256 64 true false) (fun _ => true) = true := by
  intros; and_intros <;> first | decide +kernel | exact coreReady (by decide +kernel) | exact ⟨task, cellReady (by decide +kernel)⟩

/-- MAP, CONVERT, LUT and FILTER with a token of their type and of another, with and without MERGE and DROPPED, and with a HOLD line
(ElementOperators). -/
theorem test_hyp_ElementOperators :
    fires slotMAP { Op.reset with regs := [(0, 0x40)] } (data 4 7) = true ∧ hType (data 4 7).hdr = (0x40#32).extractLsb' 4 4 ∧
      hType (data 0 0).hdr ≠ (0x40#32).extractLsb' 4 4 ∧ hKind (data 4 7).hdr = 0 ∧ bit (0x40#32) 11 = false ∧
      fires slotCONVERT { Op.reset with regs := [(0, 0x64)] } (data 4 6) = true ∧ fmtIsBlock 4 = false ∧ fmtIsBlock 6 = false ∧
      fmtIsBlock 12 = true ∧ hLen (data 4 6).hdr ≠ 7 ∧
      fires slotCONVERT { Op.reset with regs := [(0, 0x464)], buf := [data 6 3] } (data 4 6) = true ∧
      fires slotLUT { Op.reset with regs := [(0, 0x104)] } (data 4 7) = true ∧
      fires slotFILTER { Op.reset with regs := [(0, 0x140)] } (data 4 7) = true ∧
      ((withOp slotLUT Op.reset).op 0 slotLUT).used = true := by decide +kernel

/-- SELECT before and at its last candidate, COUNT before and at its period, MERGE whose turn is the token's input and another, SPLIT
in each mode, DELAY in both (StreamOperators). -/
theorem test_hyp_StreamOperators :
    fires slotSELECT { Op.reset with regs := [(0, 0x2007)] } (data 4 7) = true ∧ (7 : Nat) < bits (0x2007#32) 5 0 + 1 ∧
      bits (0x2007#32) 5 0 + 1 ≤ 0 + 8 ∧ hType (data 4 7).hdr = (0x2007#32).extractLsb' 11 4 ∧
      fires slotCOUNT { Op.reset with regs := [(0, 2)], cnt := [(0, 1)] } (data 4 7) = true ∧
      bits (2#32) 15 0 ≤ 1 + 1 ∧ 0 + 1 < bits (2#32) 15 0 ∧
      fires slotMERGE { Op.reset with regs := [(0, 0x1F)] } (data 4 7) = true ∧
      mergeNext { Op.reset with regs := [(0, 0x1F)], inputs := [(0, [data 4 7])] } = some 0 ∧
      mergeNext { Op.reset with regs := [(0, 0x1F)], inputs := [(0, [data 4 7]), (1, [data 4 7])], rr := 1 } ≠ some 0 ∧
      (∀ m, m < 4 → fires slotSPLIT { Op.reset with regs := [(0, BitVec.ofNat 32 (0x3C + m))] } (data 4 7) = true ∧
        splitOuts { Op.reset with regs := [(0, BitVec.ofNat 32 (0x3C + m))] } = [0, 1, 2, 3]) ∧
      fires slotDELAY { Op.reset with regs := [(0, 0)] } (data 4 7) = true ∧
      fires slotDELAY { Op.reset with regs := [(0, 1)] } (data 4 7) = true := by decide +kernel

/-- MATRIX with a step, an EOR, and a full queue; REDUCE with a partial token, an EOR, and its last partial token
(MatrixOperators). -/
theorem test_hyp_MatrixOperators :
    let tok : Token := ⟨BitVec.ofNat 64 (2 ^ 49), ⟨1, 8, 0, 0, 0, 0, 0, 0⟩⟩
    let eor : Token := ⟨BitVec.ofNat 64 (2 * 2 ^ 56 + 2 ^ 52), ⟨1, 0, 0, 0, 0, 0, 0, 0⟩⟩
    let s := (withOp slotMATRIX { Op.reset with regs := [(0, 1)], inputs := [(0, [tok])] }).updTile 0 (fun t => { t with
      slots := [(0, readySlot 4), (7, readySlot 4)] })
    let full := s.updTile 0 (fun t => { t with eng := { t.eng with queue := List.replicate 16 (.mzero 0) } })
    let owed := ((s.cell 0).task.map (fun q => 4 - q.engCmds)).getD 0
    let p : Token := ⟨BitVec.ofNat 64 (6 * 2 ^ 52 + 7 * 2 ^ 49), Lanes.zero⟩
    let r := withOp slotREDUCE { Op.reset with inputs := [(0, [p]), (2, [eor])], parts := [(0, 511)] }
    opLive s 0 slotMATRIX = true ∧ (s.op 0 slotMATRIX).input 0 = [tok] ∧ hKind tok.hdr = 0 ∧ hKind eor.hdr = 2 ∧
      (s.tile 0).eng.queue.length + owed < 16 ∧ 16 ≤ (full.tile 0).eng.queue.length + owed ∧
      matrixArgs 1 tok = some (1, 8, 0) ∧ stepFault s 0 0 0 7 true = none ∧
      opLive r 0 slotREDUCE = true ∧ (r.op 0 slotREDUCE).input 0 = [p] ∧ (r.op 0 slotREDUCE).input 2 = [eor] ∧ hKind p.hdr = 0 ∧
      hType p.hdr = 6 ∧ hLen p.hdr = 7 ∧ (r.op 0 slotREDUCE).parts.get 0 0 < 512 ∧ ((r.tile 0).eng.acc 0).mode = .empty ∧
      ((r.tile 0).eng.acc 0).expect = none ∧ ((r.tile 0).eng.acc 0).count < eor.lanes.l0.toNat ∧ partialTurn r 0 0 = true := by
  decide +kernel

/-- T1 and T2 of `mapped` as an operation holds them, of format `f`. -/
def descOf (spm : Bool) (f : BitVec 4) : Desc := ⟨1, if spm then 0x40 else 0x3000, 0, f, 1, 0, spm, [16], [4]⟩

/-- A one-element token of type `f` whose lane holds `v`. -/
def one (f : BitVec 4) (v : Word32) : Token := ⟨f.zeroExtend 64 <<< 52, ⟨v, 0, 0, 0, 0, 0, 0, 0⟩⟩

/-- MEMORY in mode and code `r`, at POS `pos`, with these tokens; the buffer at 0x40 of the scratchpad is an operator's. -/
def memOp (r : Word32) (pos : Word32) (d : Desc) (x : Token) (y : List Token) : State :=
  (withScratch 1 (withOp slotMEMORY { Op.reset with
    regs := [(0, r), (1, pos)], inputs := [(0, [x]), (1, y)], desc := some d })).updIsle 0 (fun i => { i with
      dir := [⟨0x40, 256, 0, false, false⟩], spm := [(0x40, 1), (0x43, 1)] })

/-- The hypotheses of an element of MEMORY in mode `m`. -/
def memFires (s : State) (m : Nat) : Bool :=
  let o := s.op 0 slotMEMORY
  let x := ((o.input 0).headD (one 0 0))
  opLive s 0 slotMEMORY && bits (o.reg 0) 3 0 == m && o.held.isNone && o.desc.isSome && !(o.input 0).isEmpty &&
    hKind x.hdr == 0 && some (hType x.hdr) == o.desc.map (·.fmt) && hLen x.hdr == 0

/-- MEMORY in every mode: POS and indices at the last element and beyond the tensor, readable and unreadable elements, two inputs
and one, and a port that it holds (MemoryOperator). -/
theorem test_hyp_MemoryOperator :
    let g := descOf false 0
    let a := descOf true 0
    let b := descOf true 5
    let seq (m : Word32) (pos v : Word32) := memOp m pos g (one 0 v) []
    let bad : Desc := { g with base := 0x80000000 }
    let bind (q : List Received) (e : Bool) := (memOp 5 0 g (one 0 0) []).updPort 0 (fun p => { p with
      queue := q, binding := some ⟨.operator 0, 0, none, 1, 3, none, 0, true, 0, none, e, none, false, 0⟩ })
    (memFires (seq 0 15 1) 0 = true ∧ g.total = 16 ∧ okIs (memRead (seq 0 15 1) 0 g 15) (fun _ => true) = true) ∧
      memFires (seq 0 0 0) 0 = true ∧ errIs (memRead (seq 0 15 1) 0 bad 15) (fun e => e.1 != .remoteFenced) = true ∧
      memFires (seq 1 0 15) 1 = true ∧ memFires (seq 1 0 16) 1 = true ∧
      (memFires (seq 2 15 7) 2 = true ∧ okIs (memWrite (seq 2 15 7) 0 g 15 7) (fun _ => true) = true) ∧
      memFires (seq 2 16 7) 2 = true ∧
      (memFires (memOp 3 0 g (one 0 15) [one 0 7]) 3 = true ∧ hLen (one 0 7).hdr = hLen (one 0 15).hdr) ∧
      memFires (memOp 3 0 g (one 0 15) []) 3 = true ∧
      (memFires (memOp 0x8004 0 a (one 0 15) [one 0 7]) 4 = true ∧ bits (0x8004#32) 15 12 ≤ 8 ∧
        okIs (memRead (memOp 0x8004 0 a (one 0 15) [one 0 7]) 0 a 15) (fun _ => true) = true) ∧
      (memFires (memOp 0x9004 0 b (one 5 127) []) 4 = true ∧ 8 < bits (0x9004#32) 15 12 ∧ bits (0x9004#32) 15 12 ≠ 11 ∧
        okIs (memRead (memOp 0x9004 0 b (one 5 127) []) 0 b (127 / 8)) (fun _ => true) = true) ∧
      (opLive (bind [.line 0 [1]] false) 0 slotMEMORY = true ∧ ((bind [.gap 1 2] true).die 0).port.queue = [.gap 1 2]) := by
  decide +kernel

/-- Copy words of T1 to T2 and others; a tag of 63 and 64, pending and not; room and none; a template armed and not
(CopyAcceptance). -/
theorem test_hyp_CopyAcceptance :
    let s := withScratch 0 (mapped [(5, 0x102), (6, 0), (7, 0x80000), (8, 0x10908), (9, 0x0008000000000100)])
    let s := s.updIsle 0 (fun i => { i with dir := [⟨0x40, 256, 0, false, false⟩], spm := [(0x40, 1)] })
    let op : CopyOp := ⟨0, .copy, 0, 0, descOf false 0, descOf false 0, 0, false, none, none, false, 0, 0, 0, [], none, none⟩
    let full := s.updIsle 0 (fun i => { i with ops := List.replicate 8 op, ctb := 0, templates := [(15, { Template.reset with armed := true })] })
    CoreReady .user false s 0 ∧ (63#8).toNat < 64 ∧ 64 ≤ (64#8).toNat ∧ bit (s.isle 0).ctb 63 = true ∧
      bit (full.isle 0).ctb 63 = false ∧ wordOk (gGet s 0 5) true true true false = true ∧
      wordOk (gGet s 0 7) true true true false = false ∧ okIs (copyChecks 0 (gGet s 0 5) 0 none s) (fun x =>
        !(copyItems x.1 x.2.1 0 false).isEmpty && decide ((x.2.2.isle 0).ops.countP (fun o => o.firing.isNone) < 8)) = true ∧
      errIs (copyChecks 0 (gGet s 0 8) 0 none s) (fun e => match e with | .trap .. => true | _ => false) = true ∧
      8 ≤ (full.isle 0).ops.countP (fun o => o.firing.isNone) ∧ wordOk (gGet s 0 9) true false false true = true ∧
      destOk (declaringJob s 0 0) 0 = false ∧ ((full.isle 0).template 15).armed = true ∧ ((full.isle 0).template 15).busy = false ∧
      ((s.isle 0).template 15).armed = false := by
  intros; and_intros <;> first | decide +kernel | exact coreReady (by decide +kernel)

/-- A copy of two sectors within the scratchpad, at its first and at its last sector, a mark, a stream out, one whose source
faults, a buffer to remove, and a template that a token fires (CopyProgress). -/
theorem test_hyp_CopyProgress :
    let a : Desc := { descOf true 0 with extents := [4], strides := [4] }
    let z : Desc := { descOf true 0 with base := 0x240, extents := [4], strides := [32] }
    let op (k : CopyKind) (src dst : Desc) (n : Nat) : CopyOp :=
      ⟨7, k, 1, 3, src, dst, 0, false, some 63, none, false, 0, 0, n, [], none, none⟩
    let s (o : CopyOp) := (withScratch 1 (busy [] none)).updIsle 0 (fun i => { i with
      ops := [o], dir := [⟨0x40, 256, 0, false, true⟩, ⟨0x240, 256, 0, false, false⟩],
      spm := [(0x40, 1), (0x240, 1)],
      templates := [(15, { Template.reset with armed := true, src := descOf false 0, dst := descOf true 0, ctx := 1 })],
      hwq := [(15, { HwQueue.reset with toks := [one 0 1] })] })
    let c := op .copy a z 0
    let d : CopyOp := { c with sector := 3 }
    (c.overlaps (s c) 0 = false ∧ (op .copy a { a with base := 0x44 } 0).overlaps (s c) 0 = true ∧ opReady (s c) 0 0 .copy = some c ∧
      c.sector + 1 < c.sectors ∧ c.sectorParts 0 = [⟨0, false, 4, some 0, 0⟩] ∧
      (List.range 4).all (fun j => spmEngineFault ((s c).isle 0) 1 (byteAt z false 0 j) true == none &&
        spmEngineFault ((s c).isle 0) 1 (byteAt a false 0 j) false == none) = true ∧
      opReady (s d) 0 0 .copy = some d ∧ d.sectors ≤ d.sector + 1) ∧
    okIs (completeCopy (s d) 0 d) (fun _ => true) = true ∧ (63 : Nat) < 64 ∧
    opReady (s (op .mark z z 0)) 0 0 .mark = some (op .mark z z 0) ∧
    (opReady (s (op .streamOut (descOf false 0) z 0)) 0 0 .streamOut).isSome = true ∧
    okIs (completeStream (s (op .streamOut (descOf false 0) z 0)) 0 (op .streamOut (descOf false 0) z 0)) (fun _ => true) = true ∧
    (opMay (s (op .copy { descOf false 0 with base := 0x80000000 } z 0)) 0 0 c = true ∧
      errIs (attemptOp (s c) 0 (op .copy { descOf false 0 with base := 0x80000000 } z 0)) (fun e => match e.1 with
        | .fault c _ _ _ => c != .remoteFenced
        | _ => false) = true) ∧
    errIs (attemptOp ((s c).updIsle 0 (fun i => { i with spmUe := [0x80] })) 0 c) (fun e => match e.1 with
      | .ue .. => c.barrier.isNone
      | _ => false) = true ∧
    (((s c).isle 0).dir[1]?.map (·.eos)) = some false ∧
    (((s c).isle 0).template 15).armed = true ∧ (((s c).isle 0).hwq.get HwQueue.reset 15).toks = [one 0 1] ∧
    isleRuns (s c) 0 = true ∧ hKind (one 0 1).hdr = 0 ∧
    hKind endToken.hdr = 1 ∧ hKind (ordToken 0 0 0 0 5).hdr = 4 := by decide +kernel

/-- CWANY, CWALL and CFFR of no tag, of a complete one and of a pending one (CopyTagWaits). -/
theorem test_hyp_CopyTagWaits :
    let s := (onCore .user [(5, 0x8000000000000000), (6, 1)]).updIsle 0 (fun i => { i with ctb := 0x8000000000000000 })
    let hit (r : BitVec 5) := gGet s 0 r &&& (s.isle 0).ctb
    CoreReady .user false s 0 ∧ gGet s 0 7 = 0 ∧ (bit (hit 5) 63 = true ∧ hit 5 = gGet s 0 5) ∧
      (gGet s 0 6 ≠ 0 ∧ hit 6 = 0 ∧ hit 6 ≠ gGet s 0 6) := by
  intros; and_intros <;> first | decide +kernel | exact coreReady (by decide +kernel)

/-- A descriptor of a block-format matrix of memory beside those of `mapped`: T4, one block row of MXFP8 codes (R229, R230). -/
def withBlockDesc (s : State) : State :=
  let l := [(0x40010400, 0x4000), (0x40010410, 0x8000102C), (0x40010418, 16 + 2 ^ 32), (0x40010458, 64)]
  { s with mem := l.foldl (fun m x => Memory.writeN m x.1 (bytesOf x.2 8)) s.mem }

/-- Fetches in turn and out of turn, without credit, a reload that completes, a released slot, and no scale register for a fetch
(MatrixFetches). -/
theorem test_hyp_FetchTurns :
    let v (n : Nat) : Slot := { Slot.reset with st := .fetching, tid := 3, seq := n }
    let s := (onCell task).updTile 0 (fun t => { t with
      slots := [(0, v 1), (3, { v 2 with st := .releasing }), (7, { v 0 with st := .ready, reload := some .ready })] })
    let full := s.updIsle 0 (fun i => { i with scales := (List.range 256).map (fun r => (r, ⟨.named, 1, 0, 0, []⟩)) })
    let slot (j : Nat) := (s.tile 0).slot j
    (fetchLive s 0 = true ∧ slotPending (slot 0) = true ∧ fetchTurn (s.tile 0) 0 = false ∧ s.stuck = []) ∧
      (slotPending (slot 7) = true ∧ fetchTurn (s.tile 0) 7 = true ∧ (runFetch s 0 7).2.isNone = true) ∧
      (slotPending (slot 3) = true ∧ (slot 3).queued = 0 ∧ (slot 0).data.length ≤ 64) ∧
      fetchTurn ((s.updTile 0 (fun t => { t with slots := [(3, { v 2 with st := .releasing })] })).tile 0) 3 = true ∧
      scaleAlloc full 0 1 0 = none ∧ (slot 1).st = .free := by
  decide +kernel

/-- TFETCH on a core with a prefix that is not zero, of a block tensor off its blocks, and with no scale register; a prefetch in turn
(CorePrefetches). -/
theorem test_hyp_PrefetchTurns :
    let s := withBlockDesc (mapped [(5, 1), (6, 0x200)])
    let full := s.updIsle 0 (fun i => { i with scales := (List.range 256).map (fun r => (r, ⟨.named, 0, 0, 0, []⟩)) })
    let x := s.updCore 0 (fun c => { c with pfx := some 1 })
    let rd (s : State) (n : Nat) := readDesc s (engReq s (.core 0) .copy 0) n matrixFmt
    CoreReady .user true x 0 ∧ (x.core 0).pfx.getD 0 ≠ 0 ∧ bit (gGet s 0 6) 9 = true ∧
      okIs (rd s 4) (fun y => !y.1.spm && fmtIsBlock y.1.fmt) = true ∧ bits (gGet s 0 5) 3 0 ≠ 0 ∧
      okIs (rd full 4) (fun y => (scaleAlloc y.2 0 0 0).isNone) = true ∧
      okIs (rd s 3) (fun y => prefetchTurn s 0 ⟨5, 0, y.1, 0, none, true, 0, 0, none⟩) = true ∧ s.stuck = [] := by
  intros; and_intros <;> first | decide +kernel | exact coreReady (by decide +kernel)

/-- The last command of a frozen tile's engine and one that is not, operands with a NaN, and an integer window whose sums are
empty (MatrixEngine). -/
theorem test_hyp_EngineFreezes :
    let e : EngCmd := .step 1 0 0 true [] []
    let nan : Slot := { Slot.reset with st := .ready, fmt := 6, data := List.replicate 64 (List.replicate 64 0x7FC00000) }
    let s := (onCell task).updTile 0 (fun t => { t with frozen := true, slots := [(0, nan)], eng := { t.eng with queue := [e] } })
    let b : Block := ⟨4, 4, [(0, [1])], [(0, [1])]⟩
    let w := s.updTile 0 (fun t => { t with eng := { t.eng with acc1 := { Acc.reset with mode := .int, closing := [[b]] } } })
    engineLive s 0 = true ∧ s.stuck = [] ∧ (s.tile 0).frozen = true ∧ rowInvalid 6 (0, List.replicate 64 0x7FC00000) = true ∧
      ((s.tile 0).eng.acc 1).absorb = none ∧ (((w.tile 0).eng.acc 1).mode = .int ∧ ((w.tile 0).eng.acc 1).v = [] ∧
        ((w.tile 0).eng.acc 1).closing = [[b]] ∧ fmtIsInt b.fa = true ∧ (w.op 0 slotREDUCE).record = none) := by
  decide +kernel

/-- MAP with two inputs, CONVERT to blocks before and at a whole block, and with what an earlier setting left (ElementOperators). -/
theorem test_hyp_MergedElements :
    let m := withOp slotMAP { Op.reset with regs := [(0, 0x840)], inputs := [(0, [data 4 7]), (1, [data 4 7])] }
    let c (l : List Word32) (b : List Token) := withOp slotCONVERT
      { Op.reset with regs := [(0, 0xC6)], elems := l, buf := b, block := if l.isEmpty then none else some (0, 12), inputs := [(0, [data 6 7])] }
    opLive m 0 slotMAP = true ∧ m.stuck = [] ∧ bit ((m.op 0 slotMAP).reg 0) 11 = true ∧ (m.op 0 slotMAP).input 1 = [data 4 7] ∧
      opLive (c [] []) 0 slotCONVERT = true ∧ ((c [] []).op 0 slotCONVERT).block = none ∧
      (((c (List.replicate 8 3) []).op 0 slotCONVERT).elems.length + hLen (data 6 7).hdr + 1 = 16) ∧
      ((c [3] []).op 0 slotCONVERT).block = some (0, 12) ∧ ((c [] [data 6 0]).op 0 slotCONVERT).buf.length = 1 := by
  decide +kernel

/-- An EOR and a MARK at operators of one input, and at a FILTER whose second output is in use (ControlTokens). -/
theorem test_hyp_ControlTokens :
    let eor : Token := ⟨0x0210000000000000, Lanes.zero⟩
    let mark : Token := ⟨0x0312000000000000, ⟨77, 0, 0, 0, 0, 0, 0, 0⟩⟩
    fires slotMAP Op.reset eor = true ∧ fires slotLUT Op.reset mark = true ∧ hKind eor.hdr = 2 ∧ hKind mark.hdr = 3 ∧
      bit (Op.reset.reg 0) 11 = false ∧ (fires slotFILTER { Op.reset with regs := [(0, 0x100)] } eor = true ∧
        bit (0x100#32) 8 = true ∧ bit (0x100#32) 3 = false) ∧
      fires slotDELAY Op.reset mark = true ∧ (withOp slotMAP Op.reset).stuck = [] := by
  decide +kernel

/-- Control tokens at SPLIT, CONVERT, SELECT, COUNT, MERGE and DELAY, at the second input of MAP, and a MARK that is not the first of its
snapshot (ControlTokens). -/
theorem test_hyp_ControlPlaces :
    let kind (k : Nat) : Token := ⟨BitVec.ofNat 64 (k * 2 ^ 56 + 2 ^ 52), ⟨77, 0, 0, 0, 0, 0, 0, 0⟩⟩
    let reg (w : Word32) : Op := { Op.reset with regs := [(0, w)] }
    let col : Column := ⟨(data 4 7).hdr, [3], [], false, false⟩
    let both := withOp slotMAP { reg 0x840 with inputs := [(0, [data 4 7]), (1, [kind 2])] }
    let joined := withOp slotMAP { Op.reset with regs := [(0, 0x840), (15, 77 * 2 ^ 16 + 4)], marks := [1], inputs := [(0, [kind 3])] }
    ([1, 2, 3, 4, 5, 6].all (fun k => hKind (kind k).hdr == k && fires slotSPLIT (reg 0x3C) (kind k) &&
        fires slotCONVERT (reg 0x464) (kind k) && fires slotSELECT (reg 0x2007) (kind k) && fires slotMERGE (reg 0x1F) (kind k) &&
        fires slotDELAY (reg 1) (kind k) && fires slotCOUNT (reg 2) (kind k) && fires slotCOUNT (reg 0x10000) (kind k)) = true) ∧
      mergeNext { reg 0x1F with inputs := [(0, [kind 1])] } = some 0 ∧ mergeNext { reg 0x5F with inputs := [(0, [kind 1])] } = some 0 ∧
      (bit (0x5F#32) 6 = true ∧ bit (0x1F#32) 6 = false ∧ bit (0x5F#32) 1 = true) ∧
      (fires slotSELECT { reg 0x2007 with col := some col } (kind 5) = true ∧ hIter col.hdr = hIter (kind 5).hdr) ∧
      (opLive both 0 slotMAP = true ∧ (both.op 0 slotMAP).input 1 = [kind 2] ∧ bit ((both.op 0 slotMAP).reg 0) 11 = true) ∧
      (opLive joined 0 slotMAP = true ∧ marksFirst joined 0 slotMAP 77 = false ∧ marksFirst both 0 slotMAP 77 = true) ∧
      (bits (2#32) 15 0 ≤ 1 + 1 ∧ ([kind 6].length ≤ bits (1#32) 8 4 + 1 ∧ bits (1#32) 8 4 + 1 < [data 4 7, kind 6].length)) := by
  decide +kernel

/-- FILTER with two inputs of equal and of other length, CONVERT merging a packet that joins the held one, fills it, and does not agree
with it, and SELECT columns with ERR tokens, with more than eight places and with another ITER (ElementOperators, StreamOperators). -/
theorem test_hyp_JoinedPackets :
    let f (n : Nat) := withOp slotFILTER { Op.reset with regs := [(0, 0x148)], inputs := [(0, [data 4 7]), (1, [data 4 n])] }
    let agrees (h t : Token) := bits h.hdr 48 0 == bits t.hdr 48 0 && hType h.hdr == 6 && hKind h.hdr == 0 && bit h.hdr 63 == bit t.hdr 63
    let held (h : Token) := fires slotCONVERT { Op.reset with regs := [(0, 0x464)], buf := [h] } (data 4 3)
    let odd : Token := ⟨(data 6 2).hdr ||| 0x8000000, (data 6 2).lanes⟩
    let col : Column := ⟨(data 4 7).hdr ||| 0x8000000000, [3], [], false, false⟩
    let err : Column := ⟨(data 4 7).hdr, [], [odd], false, false⟩
    let sel (c : Column) (w : Word32) := fires slotSELECT { Op.reset with regs := [(0, w)], col := some c } (data 4 7)
    ([3, 7].all (fun n => opLive (f n) 0 slotFILTER && ((f n).op 0 slotFILTER).input 1 == [data 4 n]) = true ∧
      bit (0x148#32) 3 = true ∧ hType (data 4 7).hdr = (0x148#32).extractLsb' 4 4 ∧ hLen (data 4 7).hdr ≠ hLen (data 4 3).hdr) ∧
    (held (data 6 2) = true ∧ held (data 6 5) = true ∧ held odd = true ∧ bit (0x464#32) 10 = true ∧
      agrees (data 6 2) (data 4 3) = true ∧ agrees (data 6 5) (data 4 3) = true ∧ agrees odd (data 4 3) = false ∧
      3 + 4 < 8 ∧ 8 ≤ 6 + 4 ∧ hLen (data 4 3).hdr = 3) ∧
    (sel col 0x201F = true ∧ sel err 0xA007 = true ∧ sel col 0x23CF = true ∧ hIter col.hdr ≠ hIter (data 4 7).hdr ∧
      hIter err.hdr = hIter (data 4 7).hdr ∧ (hLen (data 4 7).hdr + 1 < bits (0x201F#32) 5 0 + 1) ∧ bit (0x201F#32) 15 = false ∧
      8 < bits (0x23CF#32) 9 6 + 1 ∧ bit (0xA007#32) 15 = true) := by
  decide +kernel

/-- SELECT with VOUT, a DELAY window that keeps the marks of its elements, and the first partial token of an empty accumulator
(StreamOperators, MatrixOperators). -/
theorem test_hyp_ColumnsAndWindows :
    let p : Token := ⟨BitVec.ofNat 64 (7 * 2 ^ 49), Lanes.zero⟩
    let r := withOp slotREDUCE { Op.reset with inputs := [(0, [p])] }
    fires slotSELECT { Op.reset with regs := [(0, 0xA007)] } (data 4 7) = true ∧ bit (0xA007#32) 15 = true ∧
      Op.reset.elems.length ≤ Op.reset.hist.length ∧ fires slotDELAY { Op.reset with elems := [3], hist := [(true, false)] } (data 4 7) = true ∧
      (opLive r 0 slotREDUCE = true ∧ hType p.hdr = 0 ∧ hLen p.hdr = 7 ∧ (r.op 0 slotREDUCE).parts.get 0 0 < 512 ∧
        ((r.tile 0).eng.acc 0).mode = .empty ∧ ((r.tile 0).eng.acc 0).absorb = none ∧ partialTurn r 0 0 = true ∧
        ((r.tile 0).eng.acc 0).val 0 = 0 ∧ p.lanes.get 0 = 0) := by
  decide +kernel

/-- REDUCE on accumulators that hold a float, an integer, an absorbed or a full sum, on tokens that it refuses, and on an EOR that
meets its count (MatrixOperators). -/
theorem test_hyp_PartialPlaces :
    let p (k ty n : Nat) : Token := ⟨BitVec.ofNat 64 (k * 2 ^ 56 + ty * 2 ^ 52 + n * 2 ^ 49), ⟨1, 0, 0, 0, 0, 0, 0, 0⟩⟩
    let at' (x : Acc) (n i : Nat) (q : Token) (w : Word32) : State :=
      (withOp slotREDUCE { Op.reset with regs := [(0, w)], parts := if n = 0 then [] else [(i, n)], inputs := [(i, [q])] }).updAcc
        0 0 (fun _ => x)
    let ok (x : Acc) (n i : Nat) (q : Token) := let s := at' x n i q 0
      opLive s 0 slotREDUCE && partialTurn s 0 i && ((s.op 0 slotREDUCE).parts.get 0 i == n) && (s.tile 0).eng.acc 0 == x
    let float : Acc := { Acc.reset with mode := .float, fa := 6, partial0 := true }
    let full (m : BitVec 2) : Acc := { Acc.reset with mode := .int, partial0 := true, ovm := m, vals := [(0, 0x7FFFFFFFFFFFFFFF)] }
    let gone : Acc := { Acc.reset with absorb := some (5, 7), count := 3 }
    (ok Acc.reset 0 2 (p 0 6 7) = true ∧ ok Acc.reset 0 0 (p 0 6 3) = true ∧ ok Acc.reset 0 0 (p 0 4 7) = true ∧
      ok float 0 0 (p 0 0 7) = true ∧ ok { float with partial0 := false } 0 0 (p 0 6 7) = true ∧
      ok Acc.reset 512 0 (p 0 6 7) = true ∧ ok float 3 0 (p 0 6 7) = true ∧ ok gone 3 0 (p 0 6 7) = true ∧
      ok Acc.reset 0 2 (p 5 0 0) = true ∧ ok (full 0) 0 0 (p 0 0 7) = true ∧ ok (full 1) 0 0 (p 0 0 7) = true) ∧
    (partialTurn ((at' Acc.reset 0 1 (p 0 6 7) 0).updTile 0 (fun v => { v with steer := [(0, 0x8400)] })) 0 1 = false) ∧
    (ovfUnmasked (at' (full 0) 0 0 (p 0 0 7) 0) 0 (full 0) = false ∧ ovfUnmasked (at' (full 1) 0 0 (p 0 0 7) 0) 0 (full 1) = true ∧
      2 ^ 63 ≤ ((full 0).val 0).toInt + ((p 0 0 7).lanes.get 0).toInt ∧ ¬ (2 ^ 63 ≤ ((full 0).val 8).toInt + ((p 0 0 7).lanes.get 0).toInt)) ∧
    (opLive (at' gone 0 0 (p 2 0 0) 0x800) 0 slotREDUCE = true ∧ bit (0x800#32) 11 = true ∧ (p 2 0 0).lanes.l0.toNat ≤ gone.count ∧
      gone.window = [] ∧ gone.closing = [] ∧
      okIs ((routesOf ((at' gone 0 0 (p 2 0 0) 0x800).tile 0) slotREDUCE 0).mapM
        (routeDest (at' gone 0 0 (p 2 0 0) 0x800) 0)) (fun ds => ds.length == 1) = true ∧ (at' gone 0 0 (p 2 0 0) 0x800).stuck = [] ∧
      hKind (p 2 0 0).hdr = 2 ∧ hKind (p 5 0 0).hdr = 5) := by
  decide +kernel

/-- MEMORY on tokens of eight elements in the scratchpad: a request within the tensor and one past its end, indices, stores and atomics,
and no fence in the way (MemoryOperator). -/
theorem test_hyp_MemoryRuns :
    let a := descOf true 0
    let x := data 0 7
    let s (r pos : Word32) (x : Token) := memOp r pos a x [x]
    let live (m : Nat) (u : State) : Bool := let o := u.op 0 slotMEMORY
      opLive u 0 slotMEMORY && bits (o.reg 0) 3 0 == m && o.held.isNone && o.desc == some a && o.elem == 0 && o.elems.isEmpty &&
        !o.sat && u.stuck.isEmpty && [0, 1, 2, 3, 4].all (fun h => !(u.die h).fenced) && o.ended == false
    let reads (u : State) := (List.range 16).all (fun j => okIs (memRead u 0 a j) (fun _ => true))
    (live 0 (s 0 14 (one 0 9)) = true ∧ reads (s 0 14 (one 0 9)) = true ∧ a.total ≤ 14 + min 9 (16 - 14) ∧
      live 0 (s 0x20000 3 x) = true ∧ bit (0x20000#32) 17 = true ∧ ¬ a.total ≤ 3 + min 3 (16 - 3)) ∧
    (live 1 (s 1 0 x) = true ∧ reads (s 1 0 x) = true ∧ hLen x.hdr = 7 ∧ hType x.hdr = a.fmt) ∧
    (live 2 (s 2 3 x) = true ∧ 3 + 8 ≤ a.total ∧
      okIs ((List.range 8).foldlM (fun u j => memWrite u 0 a (3 + j) (x.lanes.get j).toNat) (s 2 3 x))
        (fun u => okIs (memRead u 0 a 3) (fun q => q.1 == 3)) = true) ∧
    (live 3 (s 3 0 x) = true ∧ okIs ((List.range 8).foldlM (fun u j =>
      memWrite u 0 a (laneOf (hType x.hdr) (x.lanes.get j).toNat).toNat (x.lanes.get j).toNat) (s 3 0 x)) (fun _ => true) = true) ∧
    (live 4 (s 0x1004 0 x) = true ∧ okIs ((List.range 8).foldlM (fun (r : List Nat × State) j =>
      (memAtomic r.2 0 a 1 3 (x.lanes.get j).toNat).map (fun q => (r.1 ++ [q.1], q.2))) ([], s 0x1004 0 x))
        (fun q => q.1.length == 8) = true) := by
  decide +kernel

/-- ATOMIC SETNEW of a bit that is clear and of one that is set (MemoryOperator). -/
theorem test_hyp_NewBits :
    let b := descOf true 5
    let s (v : Word32) := memOp 0xB004 0 b (one 5 v) []
    memFires (s 9) 4 = true ∧ bits (0xB004#32) 15 12 = 11 ∧ b.spm = true ∧ b.fmt = 5 ∧ 127 / 8 < b.total ∧ (s 9).stuck = [] ∧
      okIs (memRead (s 9) 0 b (9 / 8)) (fun x => x.1 / 2 ^ (9 % 8) % 2 == 0) = true ∧
      okIs (memWrite (s 9) 0 b (9 / 8) (2 ^ (9 % 8))) (fun _ => true) = true := by
  decide +kernel

/-- A stream out of an empty box, a mark that waits for a copy into the scratchpad and one that does not, and an engine without
credit (CopyAcceptance, CopyProgress). -/
theorem test_hyp_MarksAndEmptyStreams :
    let z : Desc := { descOf true 0 with base := 0x240 }
    let op (k : CopyKind) (n : Nat) (dst : Desc) (b : Option Word64) : CopyOp :=
      ⟨n, k, 1, 3, descOf false 0, dst, 0, false, some 63, b, false, 0, 0, 0, [], none, none⟩
    let s (o : CopyOp) := (withScratch 1 (busy [] none)).updIsle 0 (fun i => { i with ops := [o, op .mark 9 z none] })
    let waits (s : State) : Bool := ((s.isle 0).ops.take 1).any (fun y => y.kind == .copy &&
      (y.dst.spm || y.barrier.any (fun a => !bit a 0)))
    waits (s (op .copy 7 z none)) = true ∧ waits (s (op .copy 7 (descOf false 0) (some 0x80))) = true ∧
      (((s (op .streamOut 7 z none)).isle 0).ops.take 1).all (fun y => y.kind != .copy) = true ∧
      ((s (op .copy 7 z none)).die 0).port.binding = none ∧
      ({ descOf false 0 with extents := [0] } : Desc).empty = true ∧ (s (op .copy 7 z none)).stuck = [] ∧
      PortId.engine 0 ∈ ({ s (op .copy 7 z none) with stuck := [.engine 0] } : State).stuck := by
  decide +kernel

/-- A sector of a copy out of global memory whose barrier in the scratchpad counts it, and a copy that sends its completion token
(CopyProgress). -/
theorem test_hyp_CountedSectors :
    let z : Desc := { descOf true 0 with base := 0x240, extents := [4], strides := [32] }
    let op (b : Option Word64) (tok : Bool) (n : Nat) : CopyOp :=
      ⟨7, .copy, 1, 3, { descOf false 0 with extents := [4] }, z, 0, false, some 63, b, tok, 0, 0, n, [], none, none⟩
    let s (o : CopyOp) := (withScratch 1 (busy [] none)).updIsle 0 (fun i => { i with
      ops := [o], dir := [⟨0x240, 256, 0, false, false⟩], spm := [(0x82, 0x10), (0x83, 2), (0x86, 0x20), (0x240, 1)] })
    let c := op (some 0x80) false 0
    (opReady (s c) 0 0 .copy = some c ∧ c.sector + 1 < c.sectors ∧ coordBad c.src.fmt c.coord = false ∧
      (match moveParts (c.overlaps (s c) 0) 0 c ((c.sectorParts c.sector).drop c.pos) (s c) 0 with
        | .ok s1 => let s2 := markWrote (clearWhole s1 0 c) 0 c
          okIs (barLocate s2 0 1 (opReq s2 0 c) false 0x80 .atomic) (fun b => barValid (barPeek b.2 b.1) b.1.spm &&
            decide (0 < bSect (barPeek b.2 b.1)))
        | .error _ => false) = true) ∧
    okIs (completeCopy (s (op none true 3)) 0 (op none true 3)) (fun u => u.flights.length == 2) = true ∧
    opReady (s (op none true 3)) 0 0 .copy = some (op none true 3) ∧ (s c).stuck = [] ∧ (s c).flights = [] := by
  decide +kernel

/-- A firing of a template whose coordinate lies within a block, and a template that feeds a page, frozen and not
(CopyProgress). -/
theorem test_hyp_BadFirings :
    let t : Template := { Template.reset with armed := true, src := descOf false 12, dst := descOf true 12, ctx := 1 }
    let s := (busy [] none).updIsle 0 (fun i => { i with
      templates := [(15, t)], hwq := [(15, { HwQueue.reset with toks := [one 0 1] })] })
    (s.isle 0).template 15 = t ∧ t.armed = true ∧ t.busy = false ∧ t.stopped = false ∧ isleRuns s 0 = true ∧
      ((s.isle 0).hwq.get HwQueue.reset 15).toks = [one 0 1] ∧ hKind (one 0 1).hdr = 0 ∧
      coordBad t.src.fmt (firedCoord t.base (one 0 1)) = true ∧ s.stuck = [] ∧
      ingressOn s t.ctx (bit t.word 51) (wordDest t.word) = true ∧ ingressOn s 1 true 0 = true ∧
      ingressOn (s.updTile 0 (fun v => { v with frozen := true })) 1 true 0 = false := by
  decide +kernel

/-- Descriptor entries that are good, invalid, of rank 0, 15 and of a format that is not accepted, a swizzled offset, and box elements
inside and outside their tensors (DescriptorsAndBoxes). -/
theorem test_hyp_DescriptorsAndBoxes :
    let entry (ctrl ext str : Nat) : List Byte := bytesOf 0x3000 8 ++ bytesOf 0 8 ++ bytesOf ctrl 4 ++ bytesOf 0 4 ++
      bytesOf ext 56 ++ bytesOf str 112 ++ bytesOf 0 64
    let fails (l : List Byte) (c : Cause) := errIs (parseDesc 7 (fun f => !fmtIsBlock f) l) (fun e => e == (c, 7))
    let d := descOf false 0
    (okIs (parseDesc 7 (fun f => !fmtIsBlock f) (entry 0x80000010 16 4)) (fun x => x.extents == [16] && x.strides == [4]) = true ∧
      fails (entry 0x10 16 4) .descInvalid = true ∧ fails (entry 0x80000010 (2 ^ 32) 4) .descInvalid = true ∧
      fails (entry 0x800000F0 16 4) .dimLimit = true ∧ fails (entry 0x80000000 0 0) .descInvalid = true ∧
      fails (entry 0x8000001B 16 0) .formatUnsupported = true ∧ fails (entry 0x80000010 16 3) .descInvalid = true ∧
      fails (entry 0x80000110 16 4) .descInvalid = true) ∧
    (swizzle 3 0x85 = 0x95 ∧ swizzle 1 0x85 = 0x95 ∧ swizzle 2 0x105 = 0x125) ∧
    (d.extents ≠ [] ∧ fmtIsBlock d.fmt = false ∧ inRange d [3] = true ∧ inRange d [18] = false ∧ inRange d [-1] = false ∧
      (copyItems d d 3 false).map (·.src) = (List.range 13).map (fun (i : Nat) => some (4 * i + 12 : Int)) ++ [none, none, none] ∧
      (copyItems d d 3 true).length = 13 ∧ nest [3] d.extents = 3) := by
  decide +kernel

/-- A stream port up with these items of its slots, expecting line 5, bound to isle 0 by tag 63 with two slots. -/
def portUp (kind : BindKind) (v : Option Desc) (q : List Received) (tok ending : Bool) : StreamPort :=
  { StreamPort.reset with
    st := .up, exp := some 5, bound := 2, queue := q,
    binding := some ⟨kind, 0, some 63, 1, 3, v, 0x5000, tok, 0x40, none, ending, none, false, 0⟩ }

/-- The port of die 0 in each of its states; frames with a bad CRC, of another type, and with lines expected, missing, repeated and
dropped (PortLines). -/
theorem test_hyp_PortLines :
    let s (p : StreamPort) := (mapped []).updPort 0 (fun _ => p)
    let up := portUp .fabric none [] true false
    let full := portUp .fabric none [.line 3 [1], .line 4 [2]] true false
    let at' (p : StreamPort) (st : PortState) := ((s { p with st := st }).die 0).port.st
    let cont := bytesOf 0xD0F1 2 ++ bytesOf 2 1 ++ bytesOf 0 9
    ((s up).present 0 = true ∧ ((s up).die 0).fenced = false ∧ ((s up).die 0).port.st = PortState.up) ∧ parseFrame [1, 2] = .bad ∧
      parseFrame (cont ++ bytesOf (crc32c cont).toNat 4) = .other ∧
      ([7] ++ [0, 0, 0, 0, 0, 0, 0] : List Byte).length % 8 = 0 ∧ (4 + 2 ^ 32 - 5) % 2 ^ 32 ≥ 2 ^ 31 ∧
      (up.exp = some 5 ∧ 0 < up.free ∧ up.missing = none) ∧ 0 < (6 + 2 ^ 32 - 5) % 2 ^ 32 ∧ (6 + 2 ^ 32 - 5) % 2 ^ 32 < 2 ^ 31 ∧
      (full.free = 0 ∧ full.binding.isSome = true ∧ ({ full with ove := true } : StreamPort).ove = true ∧
        ((s full).core 0).overflow = none) ∧
      at' up .down = .down ∧ at' up .fenced = .fenced ∧ at' up .training = .training := by decide +kernel

/-- STRMI and STRMS with each of their operands, the stop of a binding, and the lines of a binding of each kind
(StreamBindings). -/
theorem test_hyp_StreamBindings :
    let ring : Desc := ⟨3, 0x4000, 0, 1, 2, 0, false, [4, 4], [1, 64]⟩
    let base := mapped [(5, 0x3), (6, 0x1), (7, 0x80000), (8, 0x0008000000000003), (9, 0x0008000000000000), (10, 0x5000), (11, 0x5008), (12, 2)]
    let up := base.updPort 0 (fun p => { p with st := .up })
    let bound := base.updPort 0 (fun _ => portUp .fabric none [] true false)
    let full := up.updIsle 0 (fun i => { i with
      ops := List.replicate 8 ⟨0, .copy, 0, 0, ring, ring, 0, false, none, none, false, 0, 0, 0, [], none, none⟩ })
    let pfx (p : BitVec 11) := up.updCore 0 (fun c => { c with pfx := some p })
    let live (p : StreamPort) := (busy [] none).updPort 0 (fun _ => p)
    let line := portUp .memory (some ring) [.line 5 [1, 2, 3]] true false
    let rq := engReq (live line) (.binding 0) (.port 0) 1
    let desc (w : Word64) := readDesc up (engReq up (.core 0) .copy 0) (bits w 7 0) (fun f => !fmtIsBlock f)
    (CoreReady .user true up 0) ∧ (CoreReady .user true (pfx 1) 0) ∧
    (((pfx 1).core 0).pfx = some 1 ∧ (up.core 0).pfx.getD 0 = 0 ∧ 64 ≤ (64#8).toNat ∧ (63#8).toNat < 64) ∧
    ((bound.die 0).port.binding.map (fun b => (b.isle, b.tag, b.buf)) = some (0, some 63, none) ∧
      (up.die 0).port.binding = none) ∧
    (bit (up.isle 0).ctb 63 = true ∧ bit ((up.updIsle 0 (fun i => { i with ctb := 0 })).isle 0).ctb 63 = false) ∧
    (wordOk (gGet up 0 7) false false false true = false ∧ wordOk (gGet up 0 7) false true false false = false ∧
      wordOk (gGet up 0 9) false false false true = true ∧ wordOk (gGet up 0 5) false true false false = true) ∧
    (destOk (declaringJob up 0 0) 0 = false ∧ bit (gGet up 0 8) 51 = true ∧ bit (gGet up 0 5) 51 = false ∧
      (base.die 0).port.st ≠ PortState.up) ∧
    (up.isle 0).ops.countP (fun o => o.firing.isNone) < 8 ∧ 8 ≤ (full.isle 0).ops.countP (fun o => o.firing.isNone) ∧
    errIs (desc 0xFF) (fun _ => true) = true ∧
    okIs (desc 1) (fun x => decide (x.1.rank ≠ 2)) = true ∧
    okIs (desc 3) (fun x => x.1.rank == 2 && x.1.strides.headD 0 == 1 &&
      (spmOperand x.2 0 0 x.1 (origins 0 2) x.1.extents 0 false).isNone && (x.2.isle 0).ctx == 0) = true ∧
    (0x5008#64).toNat % 16 ≠ 0 ∧ (0x5000#64).toNat % 16 = 0 ∧
    ((liveBinding (live (portUp .fabric none [.line 5 [1]] true false)) 0).isSome = true ∧
      (liveBinding (live (portUp .fabric none [.gap 5 6] true false)) 0).isSome = true ∧
      (liveBinding (live (portUp .fabric none [] true true)) 0).isSome = true) ∧
    (liveBinding (live line) 0 = line.binding ∧ line.binding.map (·.kind) = some .memory) ∧
    (liveBinding (live (portUp .memory (some ring) [.gap 5 6] true false)) 0).isSome = true ∧
    ((liveBinding (live (portUp .memory (some ring) [] true true)) 0).map (·.ending) = some true ∧ (live line).stuck = []) ∧
    rowLoc (live line) rq ring (dataOff ring [0, 0]) 3 = false ∧
    okIs (readVa (live line) rq 0x5000 16 2) (fun x => numOf x.1 == 0 &&
      (let r := itemWriteUpTo x.2 0 rq ring false (dataOff ring [0, 0]) [1, 2, 3]
       r.2.isNone && okIs (writeVa r.1 rq 0x5000 (bytesOf 1 8) 2) (fun _ => true))) = true ∧
    (match storeLine (live line) 0 ⟨.memory, 0, some 63, 1, 3, some ring, 0x80000000, true, 0x40, none, false, none, false, 0⟩ ring 5 [1] with
      | .fault _ c _ => c != .remoteFenced
      | _ => false) = true := by
  intros; and_intros <;> first | decide +kernel | exact coreReady (by decide +kernel)

/-- A STRMI ring of 16 rows that is full (StreamBindings). -/
theorem test_hyp_StreamBindings_full :
    let s := busy [] none
    let s := { s with mem := s.mem ++ words [(0x25000, 4)] }
    okIs (readVa s (engReq s (.binding 0) (.port 0) 1) 0x25000 16 2) (fun x =>
      decide (4 ≤ (numOf (x.1.take 8) + 2 ^ 64 - numOf (x.1.drop 8)) % 2 ^ 64)) = true := by decide +kernel

/-- The barrier word with PHASE `ph`, PEND `p`, SECT `t`, EXPECT `e`, EARLY `y` and ERR `r`. -/
def barWord (ph p t e y r : Nat) : Nat := ph + 2 ^ 4 * p + 2 ^ 24 * t + 2 ^ 48 * e + 2 ^ 68 * y + 2 ^ 112 * r

/-- A scratchpad barrier `w` at 0x80 of isle 0. -/
def withBar (w : Nat) (c : Nat) (s : State) : State := (withScratch c s).updIsle 0 (fun i => i.spmWrite 0x80 (bytesOf w 16))

/-- A barrier operand is free, and its word is `w`. -/
def barReady (s : State) (x : Runner) (a w : Nat) : Bool :=
  (s.isle (runnerIsle x)).spmOk (ctxOf s x) a 16 && !(s.isle (runnerIsle x)).overlaps a 16 && (s.isle (runnerIsle x)).spmUe == [] &&
    numOf ((s.isle (runnerIsle x)).spmRead a 16) == w && barValid w true && !bSr w

/-- Barriers with arrivals left, at the last of a phase, early, ahead and too many; waits that pass and that do not, of a core and of
a cell with and without a wake token (BarrierInstructions). -/
theorem test_hyp_BarrierInstructions :
    let s (w : Nat) := withBar w 0 (onCore .user [(5, 0x80), (6, 2), (7, 0x82), (8, 0x2000000)])
    let q : Task := { task with
      t := #v[some ⟨0x80, 0, 0, 0, 0, 0, 0, 0⟩, some ⟨3, 0, 0, 0, 0, 0, 0, 0⟩, some ⟨0x80000, 0, 0, 0, 0, 0, 0, 0⟩,
      some ⟨1, 0, 0, 0, 0, 0, 0, 0⟩, none, none, none, none] }
    let t (w : Nat) := withBar w 1 (onCell q)
    let armed (w n : Nat) := (t w).updIsle 0 (fun i => { i with wakes := List.replicate n ⟨0x80, 0, false, 0, 1, some 3⟩ })
    let delta (v : Word64) (w : Nat) := (v.toNat % 16 + 16 - bPhase w) % 16
    BothReady false 16 (s (barWord 0 1 0 2 0 0)) (.core 0) ∧ BothReady false 16 (t (barWord 3 1 0 2 0 0)) (.cell 0) ∧
    (bits (0x82#64) 3 1 ≠ 0 ∧ bit (0x81#64) 0 = true ∧ bits (0x80#64) 3 0 = 0) ∧
    ((s 0).isle 0).spmOk 0 0x2000000 16 = false ∧
    ([barWord 0 1 0 2 0 0, barWord 0 2 0 2 0 0, barWord 2 1 1 1 0 0, barWord 1 1 0 2 1 0, barWord 1 1 0 2 2 0, barWord 15 2 0 2 0 1].all
      (fun w => barReady (s w) (.core 0) 0x80 w) = true) ∧
    ([barWord 3 1 0 2 0 0, barWord 2 1 0 2 0 0].all (fun w => barReady (t w) (.cell 0) 0x80 w) = true) ∧
    barValid 0 true = false ∧
    (delta 2 (barWord 0 1 0 2 0 0) = 2 ∧ delta 2 (barWord 1 1 0 2 1 0) = 1 ∧ delta 2 (barWord 2 1 1 1 0 0) = 0) ∧
    (bPend (barWord 2 1 0 2 0 0) < 2 ∧ bPend (barWord 2 1 0 2 0 0) = 1 ∧ bEarly (barWord 2 1 0 2 1 0) < 2 ∧
      bExpect (barWord 1 1 0 2 2 0) < bEarly (barWord 1 1 0 2 2 0) + 1 ∧
      bEarly (barWord 1 1 0 2 1 0) + 1 ≤ bExpect (barWord 1 1 0 2 1 0) ∧ bPend (barWord 1 1 0 2 1 0) ≠ 0 ∧
      bSect (barWord 2 1 1 1 0 0) ≠ 0 ∧ bSect (barWord 2 1 0 2 0 0) = 0) ∧
    ((0x100002#64).toNat < 2 ^ 21 ∧ 0 < (0x100002#64).toNat % 2 ^ 20 ∧ bit (0x100002#64) 20 = true) ∧
    (waitPasses (barWord 3 1 0 2 0 0) 2 false = true ∧ waitPasses (barWord 3 1 0 2 0 0) 3 true = false) ∧
    (destOk ((t 0).findJob (tileCtx (t 0) 0) (tileJob (t 0) 0)) 0 = true ∧ destOk ((t 0).findJob (tileCtx (t 0) 0) (tileJob (t 0) 0)) 0x40 = false ∧
      bit (0x80000#64) 19 = true ∧ bit (1#64) 19 = false) ∧
    (((armed 0 15).isle 0).wakes.length < 16 ∧ 16 ≤ ((armed 0 16).isle 0).wakes.length) ∧
    (2 ^ 24 ≤ bSect (barWord 0 1 (2 ^ 24 - 1) 1 0 0) + 1 ∧ bSect (barWord 0 1 (2 ^ 24 - 2) 1 0 0) + 1 < 2 ^ 24) := by
  intros; and_intros <;> first
    | decide +kernel
    | exact coreReady (by decide +kernel)
    | exact ⟨_, cellReady (q := { task with
        t := #v[some ⟨0x80, 0, 0, 0, 0, 0, 0, 0⟩, some ⟨3, 0, 0, 0, 0, 0, 0, 0⟩, some ⟨0x80000, 0, 0, 0, 0, 0, 0, 0⟩,
        some ⟨1, 0, 0, 0, 0, 0, 0, 0⟩, none, none, none, none] }) (by decide +kernel)⟩

/-- A barrier of memory with three arrivals left, the last arrival of a cell with a wake entry, and a queue that opens
(BarrierProgress). -/
theorem test_hyp_BarrierProgress :
    let s := mapped [(5, 0x24001), (6, 0)]
    let s := { s with mem := s.mem ++ words [(0x24000, barWord 0 3 0 3 0 0), (0x24008, 5 * 2 ^ 56)] }
    let q : Task := { task with
      t := #v[some ⟨0x80, 0, 0, 0, 0, 0, 0, 0⟩, some ⟨3, 0, 0, 0, 0, 0, 0, 0⟩, none, none, none, none, none, none] }
    let t := (withBar (barWord 3 1 0 2 0 0) 1 (onCell q)).updIsle 0 (fun i => { i with wakes := [⟨0x80, 3, false, 0x40, 1, some 3⟩] })
    let o : State := { s with opens := [⟨0, 0, 1, true, 5⟩, ⟨0, 0, 2, false, 5⟩, ⟨3, 0, 0, true, 5⟩] }
    CoreReady .user false s 0 ∧ CellReady false false 16 t 0 q ∧
    okIs (barLocate s 0 0 (coreReq s 0 .data) false (gGet s 0 5) .atomic) (fun x =>
      barValid (barPeek x.2 x.1) false && !bSr (barPeek x.2 x.1) && decide (1 < bPend (barPeek x.2 x.1)) &&
        bPhase (barPeek x.2 x.1) == 0) = true ∧
    okIs (barLocate s 0 0 (coreReq s 0 .data) false (gGet s 0 5) .load) (fun x =>
      barValid (barPeek x.2 x.1) false && !bErr (barRead x.2 x.1).1 && bPhase (barRead x.2 x.1).1 == 0) = true ∧
    (tileIsle 0 = 0 ∧ okIs (sGetL t 0 0) (· == 0x80) = true ∧ okIs (sGetL t 0 1) (· == 3) = true ∧ barReady t (.cell 0) 0x80 (barWord 3 1 0 2 0 0) = true) ∧
    (s.opens[0]? = none ∧ o.opens.find? (fun x => x.ix == 0) = o.opens[0]? ∧ o.opens.find? (fun x => x.ix == 0) ≠ o.opens[1]?) ∧
    (o.opens.find? (fun x => x.ix == 3) = o.opens[2]? ∧
      (∀ x, x ∈ o.opens.erase ⟨3, 0, 0, true, 5⟩ → x.ix ≠ 3) ∧ mayOpen o 0 0 = false) := by
  intros; and_intros <;> first | decide +kernel | exact coreReady (by decide +kernel) | exact cellReady (by decide +kernel)

/-- Core 0 at a scratchpad barrier `w` that names record 0 of the table at 0x40000, in use where `en` is 1, whose word 1 is `f` and whose
second member's word is `m`. -/
def lagging (en w f m : Nat) : State := { withBar (w + 2 ^ 113) 0 (mapped [(5, 0x80), (6, 0x210), (7, 0x1000000002)]) with
  mgmt := { (mapped []).mgmt with srtab := 0x40000 + BitVec.ofNat 64 en }
  mem := (State.reset.withFetchWord 32 0).mem ++ words [(0x8008, 0x9001), (0x9000, 0xA001), (0xA000, 0xB001), (0xB000, 0x3F),
    (0x40000, 3 * 2 ^ 48 + 2 ^ 40 + 2 ^ 32 + 2 * 2 ^ 8 + 1), (0x40008, f), (0x40050, m)] }

/-- The barrier of that core, and its record, in the state after the arrival's fence. -/
def lagRecord (s : State) (p : BarAt → State → Nat → Option (List Nat) → Bool) : Bool :=
  okIs (barLocate s 0 0 (coreReq s 0 .data) false 0x80 .atomic) (fun b =>
    let s1 := arriveFence b.2 (.core 0) b.1
    let w := barPeek s1 b.1
    barValid (barPeek b.2 b.1) b.1.spm && bSr w && p b.1 s1 w ((srLoad s1 b.1.agent (bSrix w) b.1.ctx).map (·.1)))

/-- The member part of an arrival of member `n` with MV, for phase 0. -/
def lagMember (n : Nat) (s : State) (p : Except Cause (List Nat) → Bool) : Bool :=
  lagRecord s (fun b s1 w r => r.any (fun r => r.length == 128 && okIs (arriveWord w ⟨0, 1, false, true, n⟩) (fun _ => true) &&
    p (memberPart r w ⟨0, 1, false, true, n⟩ (homeTime s1 b))))

/-- Members that arrive on time and that the record does not have (StragglerRecords). -/
theorem test_hyp_StragglerRecords_member :
    lagMember 1 (lagging 1 (barWord 0 2 0 2 0 0) 0 0) (fun x => okIs x (fun _ => true)) = true ∧
      lagMember 2 (lagging 1 (barWord 0 2 0 2 0 0) 0 0) (fun x => errIs x (· == .descInvalid)) = true := by
  and_intros <;> decide +kernel

/-- Members that have arrived already (StragglerRecords). -/
theorem test_hyp_StragglerRecords_twice :
    lagMember 1 (lagging 1 (barWord 0 2 0 2 0 0) (2 ^ 48) (2 ^ 49)) (fun x => errIs x (· == .barrierOverarrive)) = true ∧
      lagMember 1 (lagging 1 (barWord 15 2 0 2 0 0) 0 (2 ^ 50)) (fun x => errIs x (· == .barrierOverarrive)) = true := by
  and_intros <;> decide +kernel

/-- A member that arrives early, and a record that is not usable (StragglerRecords). -/
theorem test_hyp_StragglerRecords_early :
    lagMember 1 (lagging 1 (barWord 15 2 0 2 0 0) 0 0) (fun x => okIs x (fun _ => true)) = true ∧
      lagRecord (lagging 0 (barWord 0 2 0 2 0 0) 0 0) (fun _ _ _ r => r.isNone) = true := by
  and_intros <;> decide +kernel

/-- The last arrival of a phase whose record skips it, members that begin and cease to lag, and BINIT (StragglerRecords). -/
theorem test_hyp_StragglerRecords_phase :
    let w0 := 3 * 2 ^ 48 + 2 ^ 40 + 2 ^ 32 + 2 * 2 ^ 8 + 1
    let s := lagging 1 (barWord 0 1 0 2 0 0) (2 ^ 48 + 2 ^ 49) 0
    (lagRecord s (fun b s1 w r => r.any (fun r => fieldOf (srWord r 1) 49 49 == 1) &&
        okIs (arriveWord w ⟨0, 1, false, true, 1⟩) (fun w1 => bPend w1 == 0 && bSect w1 == 0 && bSr w1 &&
          (completeWord (homeTime s1 b) 2 w1).2 == 1)) = true ∧
      (lagStep w0 0 1024 0).2 = (false, false) ∧ (lagStep w0 0 2048 0).2 = (true, false) ∧ (lagStep w0 (2 ^ 48) 0 0).2 = (false, true) ∧
      bits (0x1000000002#64) 63 37 = 0 ∧ bit (0x1000000002#64) 36 = true ∧ bit (0x1000000002#64) 27 = false ∧
      bits (0x1000000002#64) 19 0 ≠ 0 ∧ scopeOk (bits (0x1000000002#64) 26 26) (bits (0x1000000002#64) 25 24) = true ∧
      s.opens = [] ∧ (0x210#64).toNat < 2 ^ 10 ∧ bit (0x210#64) 9 = true ∧ bits (0x210#64) 8 4 = 1) := by
  decide +kernel

/-- The core of these witnesses is about to execute its unit (StragglerRecords). -/
theorem test_hyp_StragglerRecords_ready : BothReady false 16 (lagging 1 (barWord 0 2 0 2 0 0) 0 0) (.core 0) :=
  coreReady (by decide +kernel)

/-- Entry `q` of the queue table of `s`, as core 0 finds it, meets `f`. -/
def atQueue (s : State) (q : Nat) (acc : Access) (f : QEnt → State → Bool) : Bool :=
  okIs (qPeek s (queueReq s (.core 0)) q acc) (fun x => f x.1 x.2)

/-- Every kind of queue, full, empty, OFF and with entries, invalid and of KIND 3; a fenced context; a handle of 255 and of 256; tokens
that enter and leave a STREAM queue (QueueInstructions). -/
theorem test_hyp_QueueInstructions :
    let s := withScratch 1 (busy [(5, 0xFF), (6, 0x100), (7, 0x80), (8, 0)] none)
    let tok : Token := ⟨BitVec.ofNat 64 (2 ^ 49), ⟨1, 2, 0, 0, 0, 0, 0, 0⟩⟩
    let strm (l : List Token) := s.updIsle 0 (fun i => { i with hwq := [(16, ⟨some (1, 2), 16, l⟩)] })
    let far := ({ s with mgmt := { s.mgmt with ctxtab := 0 } }).updIsle 0 (fun i => { i with core := { i.core with ptroot := 0 } })
    let task := { task with
      t := #v[some ⟨1, 0, 0, 0, 0, 0, 0, 0⟩, some ⟨0x80, 0, 0, 0, 0, 0, 0, 0⟩, none, none, none, none, none, none] }
    let fenced := { s with ctxs := s.ctxs.put 1 ⟨.fenced, 0, []⟩ }
    let size (e : QEnt) := 2 ^ fieldOf e.ctl 33 29
    BothReady false 24 s (.core 0) ∧ BothReady false 24 (onCell task) (.cell 0) ∧
    readable (.core 0) 31 ∧ readable (.cell 0) 10 ∧ writable (.cell 0) 7 ∧
    (gGet s 0 5).toNat < 2 ^ 8 ∧ 2 ^ 8 ≤ (gGet s 0 6).toNat ∧
    (errIs (qPeek far (queueReq far (.core 0)) 255 .atomic) (fun _ => true) = true ∧
      errIs (qPeek far (queueReq far (.cell 0)) 255 .atomic) (fun _ => true) = true) ∧
    atQueue s 7 .atomic (fun e _ => !qValid e.ctl) = true ∧ atQueue s 6 .atomic (fun e _ => qValid e.ctl && decide (3 ≤ qKind e.ctl)) = true ∧
    (atQueue s 0 .atomic (fun e s1 => qValid e.ctl && qKind e.ctl == 0 && decide (e.tail - e.head < size e) && bellCtx s1 1 &&
      qState e.ctl == 1 && okIs (writeVa s1 (queueReq s (.core 0)) (e.base + 64) ((s1.isle 0).spmRead 0x80 64) 3) (fun _ => true)) = true) ∧
    ((fenced.ctx 1).st = .fenced ∧ atQueue fenced 1 .atomic (fun e _ => qValid e.ctl && decide (qKind e.ctl < 3)) = true ∧
      (s.ctx 1).st ≠ .fenced) ∧
    (okIs (spmCheck s (.core 0) 0x80 32 8 false true) (fun _ => true) = true ∧ okIs (spmCheck s (.core 0) 0x80 32 8 true false) (fun _ => true) = true ∧
      okIs (spmCheck s (.core 0) 0x80 64 8 false true) (fun _ => true) = true ∧
      okIs (spmCheck s (.core 0) 0x80 64 8 true false) (fun _ => true) = true) ∧
    atQueue s 4 .atomic (fun e _ => qKind e.ctl == 1 && qState e.ctl == 0) = true ∧
    atQueue s 3 .atomic (fun e _ => qKind e.ctl == 1 && qState e.ctl == 1 && decide (size e ≤ e.tail - e.head)) = true ∧
    atQueue s 5 .atomic (fun e _ => qKind e.ctl == 1 && qState e.ctl == 1 && decide (e.tail ≤ e.head)) = true ∧
    atQueue s 1 .atomic (fun e s1 => qKind e.ctl == 1 && qState e.ctl == 2 && e.tail - e.head == 2 && e.head == 3 &&
      okIs (readVa s1 (queueReq s (.core 0)) (e.base + 96) 32 2) (fun _ => true) &&
      okIs (writeVa s1 (queueReq s (.core 0)) (e.base + 160) (List.replicate 32 0) 2) (fun _ => true)) = true ∧
    atQueue (strm []) 2 .atomic (fun e s1 => qKind e.ctl == 2 && qState e.ctl == 1 && decide ((streamOf s1 e).toks.length < (streamOf s1 e).cap) &&
      okIs (streamToken s1 (.core 0) (bytesOf (2 ^ 49) 64)) (fun _ => true)) = true ∧
    atQueue (strm [tok]) 2 .atomic (fun e s1 => (streamOf s1 e).toks == [tok]) = true ∧
    atQueue s 1 .load (fun e _ => qValid e.ctl && decide (qKind e.ctl < 3)) = true :=
  ⟨coreReady (by decide +kernel), ⟨{ task with
      t := #v[some ⟨1, 0, 0, 0, 0, 0, 0, 0⟩, some ⟨0x80, 0, 0, 0, 0, 0, 0, 0⟩, none, none, none, none, none, none] },
      cellReady (by decide +kernel)⟩, trivial, (by decide : (10#5).toNat ≤ 10), (by decide : (7#5).toNat ≤ 7), by decide +kernel⟩

/-- Records with and without a join block, join blocks of COUNT 0, 1 and more and with a reserved bit, and queues that give and
deny their tail (TaskQueues). -/
theorem test_hyp_TaskQueues :
    let s := withScratch 1 (busy [(5, 1), (6, 0x80), (7, 0x23000), (8, 0x23040), (9, 0x23080), (10, 0x230C0), (11, 0x23008), (12, 8)] none)
    let owner (e : QEnt) := 16 * fieldOf e.ctl 25 24 + fieldOf e.ctl 23 20
    let rq := queueReq s (.core 0)
    let rec32 (p : Nat) := s.updIsle 0 (fun i => i.spmWrite 0x88 (bytesOf p 8))
    let parent (s : State) := BitVec.ofNat 64 (numOf ((((s.isle 0).spmRead 0x80 32).drop 8).take 8))
    let block (a : Word64) (f : Nat → Bool) := okIs (joinLoc s rq a 64) (fun x => f x.2.1)
    let home (e : QEnt) := e.loc.key / 2 ^ 40
    BothReady false 24 s (.core 0) ∧
    okIs (spmCheck s (.core 0) 0x80 32 8 false true) (fun _ => true) = true ∧
    okIs (spmCheck s (.core 0) 0x80 256 8 true false) (fun _ => true) = true ∧
    parent s = 0 ∧ (parent (rec32 0x23008)).toNat % 64 ≠ 0 ∧ parent (rec32 0x23000) = 0x23000 ∧ (0x23000#64).toNat % 64 = 0 ∧
    atQueue s 1 .atomic (fun e s1 => qState e.ctl == 2 && decide (e.tail - e.head < 16) &&
      okIs (writeVa s1 rq (e.base + 160) ((s1.isle 0).spmRead 0x80 32) 2) (fun _ => true)) = true ∧
    atQueue (rec32 0x23000) 1 .atomic (fun e s1 => okIs (joinLoc s1 rq 0x23000 8) (fun x => okIs (writeVa
      (putCount x.2.2 rq x.1 (x.2.1 + 1)) rq (e.base + 160) ((s1.isle 0).spmRead 0x80 32) 2) (fun _ => true))) = true ∧
    block 0x23000 (fun z => z / 2 ^ 72 % 2 ^ 56 == 0 && z / 2 ^ 384 == 0 && decide (1 < z % 2 ^ 64)) = true ∧
    block 0x23040 (fun z => z == 0) = true ∧
    okIs (joinLoc s rq 0x23080 64) (fun x => x.2.1 % 2 ^ 64 == 1 && x.2.1 / 2 ^ 64 % 256 == 1 && x.2.1 / 2 ^ 72 == 0 &&
      atQueue x.2.2 1 .atomic (fun e s2 => qValid e.ctl && qKind e.ctl == 1 && qState e.ctl != 0 && okIs
        (writeVa (putCount s2 rq x.1 0) rq (e.base + 160) (bytesOf 0 32) 2) (fun _ => true))) = true ∧
    block 0x230C0 (fun z => z / 2 ^ 72 % 2 ^ 56 != 0) = true ∧ (gGet s 0 11).toNat % 64 ≠ 0 ∧
    ((gGet s 0 12).toNat = 8 ∧ (0#64).toNat = 0 ∧ 8 < (9#64).toNat) ∧
    atQueue s 1 .atomic (fun e s1 => qKind e.ctl == 1 && fieldOf e.ctl 15 15 == 1 && owner e != 0 && home e == isleDie 0 &&
      qState e.ctl == 2 && decide (e.head < e.tail) && okIs (readTail rq e 2 0 s1) (fun _ => true)) = true ∧
    atQueue s 5 .atomic (fun e _ => qKind e.ctl == 1 && fieldOf e.ctl 15 15 == 0) = true :=
  ⟨coreReady (by decide +kernel), by decide +kernel⟩

/-- The machine of `mapped` as the STEAL of an empty OPEN queue finds it: HEAD and TAIL of queue 1 are equal (TaskQueues). -/
theorem test_hyp_TaskQueues_empty :
    let s := withScratch 1 (busy [] none)
    let e := { s with mem := s.mem.put (0x40000000 + 0x20050) 5 }
    atQueue e 1 .atomic (fun e _ => qState e.ctl == 2 && decide (e.tail ≤ e.head) && fieldOf e.ctl 15 15 == 1) = true := by
  decide +kernel

/-- Doorbells that are refused and that accept one entry, queues that can be enabled and disabled and that cannot, and a
dispatch port with a record of its class and of another (QueueCommands). -/
theorem test_hyp_QueueCommands :
    let s := busy [] none
    let port (cls : Nat) := (s.updTile 0 (fun t => { t with classes := [(0, 0x2002), (5, 0x2002)] })).updIsle 0 (fun i => { i with
      ports := [(15, BitVec.ofNat 64 (2 ^ 63 + cls + 3 * 2 ^ 16))] })
    let pops (s : State) := someIs (portReady s 0 15) (fun x => portFirst s 0 15 x.1 && qKind x.1.ctl == 1 &&
      okIs (readVa x.2 (queueReq s (.cell 0)) (x.1.base + 32 * (x.1.head % qSize x.1.ctl)) 32 3) (fun y => numOf y.1 / 2 ^ 13 % 64 == 0))
    let refused (q : Nat) (w : Word64) := decide (w.toNat < (schedQueue s 1 q).2.2.2) ||
      decide ((schedQueue s 1 q).2.2.1 + qSize (qCtl s 1 q) < w.toNat) || !bellCtx s 1 || !qValid (qCtl s 1 q) ||
      qKind (qCtl s 1 q) != 0 || qState (qCtl s 1 q) == 0
    refused 0 0 = true ∧ refused 0 1 = false ∧ refused 0 16 = false ∧ refused 0 17 = true ∧ refused 1 5 = true ∧ refused 255 0 = true ∧
    (s.ctx 1).st = .opened ∧ (s.ctx 2).st = .free ∧
    (qValid (qCtl s 1 4) = true ∧ qState (qCtl s 1 4) = 0) ∧ (qValid (qCtl s 1 2) = true ∧ qState (qCtl s 1 2) = 1 ∧ qKind (qCtl s 1 2) = 2 ∧
      16 ≤ qHwq (qCtl s 1 2)) ∧ qValid (qCtl s 1 7) = false ∧
    portReady s 0 0 = none ∧ pops (port 0) = true ∧ pops (port 5) = true := by decide +kernel

/-- Entries with reserved fields that are clear and that are not, a STREAM queue with room, and a TRIGGER token that enters one
(QueueInstructions). -/
theorem test_hyp_QueueEntries :
    let s := withScratch 1 (busy [] none)
    let dirty := { s with mem := s.mem.put (0x40000000 + 0x20078) 1 }
    let strm := s.updIsle 0 (fun i => { i.setBank 1 ⟨.fifo, 1, 0, .cache, false, false⟩ with hwq := [(16, ⟨some (1, 2), 16, []⟩)] })
    ((List.range 8).all (fun q => atQueue s q .atomic (fun e _ => e.clean)) = true) ∧
      atQueue dirty 1 .atomic (fun e _ => !e.clean && qValid e.ctl) = true ∧
      atQueue strm 2 .atomic (fun e s1 => e.clean && qKind e.ctl == 2 && qState e.ctl == 1 &&
        !hwFull s1 (qOwner e.ctl) (qHwq e.ctl)) = true := by
  decide +kernel

/-- CONT behind a raised COUNT of an OFF queue, of a full one, and where the record cannot be written; JOIN of the last child in a
fenced context, for an entry with a reserved bit and for a queue of another kind; a thief whose copy of TAIL is old, at its
first and its last attempt (TaskQueues). -/
theorem test_hyp_PushesAndSteals :
    let s := withScratch 1 (busy [] none)
    let rq := queueReq s (.core 0)
    let far := { s with mem := s.mem.put (0x40000000 + 0x20043) 0x80 }
    let dirty := { s with mem := s.mem.put (0x40000000 + 0x20078) 1 }
    let fenced := { s with ctxs := s.ctxs.put 1 ⟨.fenced, 0, []⟩ }
    let line := lineOf (0x40000000 + 0x20058)
    let old := s.updIsle 0 (fun i => { i with l2 := [(line, ⟨true, List.replicate 64 0, 0, 0, 2 ^ 40, 0, 0⟩)] })
    let last := old.updCore 0 (fun c => { c with waiting := some (.steal 3) })
    let tail (s : State) := atQueue s 1 .atomic (fun e s1 =>
      numOf (loadLoc s1 rq.agent { e.loc with key := e.loc.key + 0x18 } 8).1 == e.tail)
    counted s (.core 0) = false ∧ atQueue s 4 .atomic (fun e _ => e.clean && qState e.ctl == 0) = true ∧
      atQueue s 3 .atomic (fun e _ => e.clean && decide (2 ^ fieldOf e.ctl 33 29 ≤ e.tail - e.head)) = true ∧
      atQueue far 1 .atomic (fun e s1 => e.clean && errIs (writeVa s1 rq (e.base + 160) (List.replicate 32 0) 2) (fun _ => true)) = true ∧
      okIs (joinLoc s rq 0x23080 64) (fun x => x.2.1 % 2 ^ 64 == 1) = true ∧ (fenced.ctx 1).st = .fenced ∧
      atQueue dirty 1 .atomic (fun e _ => !e.clean) = true ∧ atQueue s 0 .atomic (fun e _ => qKind e.ctl != 1) = true ∧
      (tail s = true ∧ tail old = false) ∧ (stealLost old (.core 0) + 1 < 4 ∧ 4 ≤ stealLost last (.core 0) + 1) := by
  decide +kernel

/-- QCMD while BUSY and for a sliced-out context, a queue whose entry has a reserved bit, a bound STREAM queue, and a record whose CODE has
a reserved bit (QueueCommands). -/
theorem test_hyp_HeldCommands :
    let s := busy [] none
    let held := { s with mgmt := { s.mgmt with qcmd := 0x80000000 } }
    let sliced := { s with ctxs := s.ctxs.put 1 ⟨.slicedOut, 0, []⟩ }
    let dirty := { s with mem := s.mem.put (0x40000000 + 0x20078) 1 }
    let bound := s.updIsle 0 (fun i => { i with hwq := [(16, ⟨some (1, 2), 16, []⟩)] })
    let bad := { s with mem := s.mem.put (0x40000000 + 0x22206) 1 }
    let port := (bad.updTile 0 (fun t => { t with classes := [(0, 0x2002)] })).updIsle 0 (fun i => { i with
      ports := [(15, BitVec.ofNat 64 (2 ^ 63 + 3 * 2 ^ 16))] })
    bit held.mgmt.qcmd 31 = true ∧ bit s.mgmt.qcmd 31 = false ∧ (sliced.ctx 1).st = .slicedOut ∧
      restClean s 1 4 = true ∧ ctlClean (qCtl s 1 4) = true ∧ restClean dirty 1 1 = false ∧
      ((bound.isle (qOwner (qCtl (journal s 1 2 5 0 0) 1 2))).hwq.get HwQueue.reset 16).bound = some (1, 2) ∧
      someIs (portReady port 0 15) (fun x => okIs
        (readVa x.2 (queueReq port (.cell 0)) (x.1.base + 32 * (x.1.head % qSize x.1.ctl)) 32 3) (fun y =>
          portFirst port 0 15 x.1 && numOf y.1 / 2 ^ 44 % 2 ^ 20 != 0)) = true := by
  decide +kernel

/-- `busy` with its core in Supervisor mode, its page as `p` and its job as `j`. -/
def paged (p : Page) (j : Job) (l : List (BitVec 5 × Word64)) : State :=
  ({ (busy l none).updCore 0 (fun c => { c with status := 4 }) with pages := [p], jobs := [j] })

/-- Page names that are good, reserved, of no job, of an invalid entry and of no page; pages that are RESIDENT and out, in
their gang and in none, in a job that takes demands and in one that is queued (PageRequests). -/
theorem test_hyp_PageRequests :
    let s := paged page job [(5, 0x30000)]
    let u := { page with st := PageState.absent }
    let out (j : Job) := paged u j []
    let clean (w : Word64) : Prop := bits w 15 6 = 0 ∧ bits w 63 32 = 0
    let due (s : State) (p : Page) (j : Job) : Prop := (p.st = .absent ∨ p.st = .saved) ∧ inCurGang s p = true ∧
      (j.st = .placing ∨ j.st = .running ∨ j.st = .pageWait)
    CoreReady .user false s 0 ∧ CoreReady .supervisor false s 0 ∧
    clean 0x30000 ∧ ¬ clean 0x30040 ∧ ¬ clean 0x100030000 ∧ s.findJob 1 9 = none ∧ s.findJob 1 3 = some job ∧ (job.entry 0).v = true ∧
    (job.entry 63).v = false ∧ pageFor s job 0 = some page ∧ pageFor s job 1 = none ∧
    (pageFor (out job) job 0 = some u ∧ due (out job) u job ∧ ¬ due s page job ∧
      ¬ due (out { job with st := .queued }) u { job with st := .queued }) ∧
    (u.st ≠ .resident ∧ page.st = .resident ∧ (actsOn s job (gangOf s job page.ix)).contains page.ix = true ∧
      (actsOn s job (gangOf s job 1)).contains 1 = false ∧ pageFor (paged { page with ix := 1 } job []) job 0 = some { page with ix := 1 }) ∧
    ((busy [] none).active = .core 0 ∧ ((busy [] none).core 0).pfx = none ∧ ((busy [] none).core 0).mode = .user) := by
  intros; and_intros <;> first | decide +kernel | exact coreReady (by decide +kernel)

/-- Pages to freeze that are RESIDENT and not, at rest and with a task running, frozen and not; snapshot names and records; snapshots that
end, that an abort ends, and that wait for an operator (FreezesAndSnapshots). -/
theorem test_hyp_FreezesAndSnapshots :
    let s := paged page job [(5, 0x30000), (6, 0x2000), (7, 0x2008), (8, 0x30001), (9, 0x90000), (10, 0x80000000)]
    let busyTile := s.updTile 0 (fun t => { t with cell := { t.cell with task := some task } })
    let out := paged { page with st := .absent } job []
    let frz := paged { page with frz := true } job []
    let still (s : State) :=
      let ps := (actingPages s job page).filter (fun q => q.st == .resident)
      (ps.flatMap pageTileList).all (tileStill (settlePages (ps.foldl frzPage s) ps))
    let rq := coreReq s 0 .data
    let snap : Snap := ⟨7, 0x2000, 0x3000, 4096, 0, false⟩
    let with' (v : Snap) := paged page { job with snap := some v } []
    let late := (with' snap).updTile 0 (fun t => { t with ops := [(0, { Op.reset with used := true, regs := [(15, 0x60000)] })] })
    let named (s : State) (p : Page) := okIs (namedPage s 0 0x30000 0x30000) (fun x => x.1 == job && x.2 == p)
    let ops (s : State) (j : Job) := (gangTileList s j).flatMap (fun t => ((s.tile t).ops.filter (fun e => e.2.used)).map (·.2))
    CoreReady .supervisor false s 0 ∧ CoreReady .user false s 0 ∧
    named s page = true ∧ named busyTile page = true ∧ named out { page with st := .absent } = true ∧
    named frz { page with frz := true } = true ∧ still s = true ∧ still busyTile = false ∧ job.snap = none ∧
    ((0x2000#64).toNat % 64 = 0 ∧ (0x2008#64).toNat % 64 ≠ 0 ∧ bits (0x30001#64) 15 0 ≠ 0 ∧ bits (0x30000#64) 15 0 = 0 ∧
      bits (0x30000#64) 63 32 = 0 ∧ s.anyJob 1 9 = none ∧ s.anyJob 1 3 = some job) ∧
    (okIs (readVa s rq 0x2000 64 2) (fun _ => true) = true ∧ errIs (readVa s rq 0x80000000 64 2) (fun _ => true) = true) ∧
    (job.st = .running ∧ ((with' snap).anyJob 1 3).bind (·.snap) = some snap ∧ (with' snap).findJob 1 3 = some { job with snap := some snap }) ∧
    (({ snap with abort := true } : Snap).abort = true ∧ ops (with' snap) job = [] ∧
      (ops late job).map (·.snapId) = [6] ∧ (6 : Nat) ≠ snap.id) := by
  intros; and_intros <;> first | decide +kernel | exact coreReady (by decide +kernel)

/-- Placement words that fit and that do not, within the quota and over it, with every load slot taken and with the last one free
(Placement). -/
theorem test_hyp_Placement :
    let u := { page with st := PageState.absent }
    let j := { job with reloc := job.reloc.put 0 { job.entry 0 with wm1 := 0, h8 := false, die := 0 } }
    let s := paged u j [(5, 63), (6, 0x30000), (7, 2 ^ 48), (8, 64)]
    let few := { s with mem := s.mem ++ words [(0x26020, 3), (0x26028, 16), (0x26008, 0x9001), (0x26010, 0x10000)],
                        mgmt := { s.mgmt with ctxtab := 0x25F80 } }
    let slots (n : Nat) := s.updIsle 0 (fun i => { i with loads := (List.range n).map (fun j => (j, some ⟨[]⟩)) })
    let fits (y : Nat) : Bool := y % 4 == 0 && decide (y + 4 ≤ 32) && (j.entry 0).wm1 == 0 && (j.entry 0).height == 4 &&
      (j.entry 0).die == isleDie 0 && u.st == .absent && (spanTiles 0 63 y 1 4 0).all (tileFree s) && !shoalIn s 0 63 y 4
    let quota (s : State) := decide (residentTiles s 1 + 1 * 4 ≤ quotaTiles s 1)
    CoreReady .supervisor false s 0 ∧ bits (gGet s 0 7) 63 48 ≠ 0 ∧ bits (gGet s 0 5) 63 48 = 0 ∧
    okIs (namedPage s 0 0x30000 0x30000) (fun x => x.1 == j && x.2 == u) = true ∧ bits (gGet s 0 5) 10 6 = 0 ∧ bits (gGet s 0 5) 5 0 = 63 ∧
    fits 0 = true ∧ fits 1 = false ∧ bits (gGet s 0 8) 10 6 = 1 ∧ quota s = true ∧ quota few = false ∧
    (List.range 4).all (fun n => (((slots 4).isle 0).loads.get none n).isSome) = true ∧ ((slots 3).isle 0).loads.get none 3 = none ∧
    (List.range 3).all (fun n => (((slots 3).isle 0).loads.get none n).isSome) = true :=
  ⟨coreReady (by decide +kernel), by decide +kernel⟩

/-- A load slot whose tile is blank, written and bad; records that are good, of a bad CRC, of another tile and with a route into a
skipped column; a handle of no slot, a column outside the page and reserved bits (LoadSlots). -/
theorem test_hyp_LoadSlots :
    let p := { page with st := PageState.installing, load := some 0, skip := 2 }
    let zero : List Byte := List.replicate 0x448 0
    let good := List.replicate 4 0 ++ bytesOf 0xA3D916E8 4 ++ List.replicate 0x440 0
    let off := zero.take 0x288 ++ bytesOf (2 ^ 17) 4 ++ zero.drop 0x28C
    let s (v : LoadState) (r : List Byte) := ((paged p job [(5, 1), (6, 0x3000), (7, 9), (8, 0x11), (9, 0x301), (10, 0x3004)]).updIsle 0
      (fun i => { i with loads := [(0, some ⟨[(0, v)]⟩)] })).updTile 0 (fun t => { t with record := r })
    let w := s .written good
    CoreReady .supervisor false w 0 ∧ bit (gGet w 0 7) 3 = true ∧ bits (gGet w 0 7) 63 3 ≠ 0 ∧ bit (gGet w 0 5) 3 = false ∧
    bits (gGet w 0 5) 63 3 = 0 ∧ slotPage w 0 2 = none ∧ slotPage w 0 1 = some p ∧ p.w ≤ bits (gGet w 0 8) 7 4 ∧
    (bits (gGet w 0 9) 10 8 = 3 ∧ 3 < p.h) ∧
    ((0x3004#64).toNat % 8 ≠ 0 ∧ (0x3000#64).toNat % 8 = 0 ∧ okIs (coreRecord w 0 0x3000) (fun _ => true) = true ∧
      errIs (coreRecord w 0 0x80000000) (fun _ => true) = true) ∧
    ((loadSlot (s .blank []) 0 1).tiles.get .blank 0 = .blank ∧ (loadSlot w 0 1).tiles.get .blank 0 ≠ .blank) ∧
    (backRecord 2 0 good = some good ∧ backRecord 2 0 zero = some zero ∧ recordOk (tileKind 0) good = true ∧ recX good = 0 ∧
      recY good = 0 ∧ recY good ≠ 3 ∧ backRecord 2 0 off = none) ∧
    ((loadSlot w 0 1).tiles.countP (fun e => e.2 == .written) ≠ 0 ∧ (loadSlot (s .good good) 0 1).tiles.countP (fun e => e.2 == .written) = 0 ∧
      (loadSlot (s .good good) 0 1).tiles.countP (fun e => e.2 == .bad) = 0) :=
  ⟨coreReady (by decide +kernel), by decide +kernel⟩

/-- The CRC of an empty tile record is good with its word in place and bad without it (LoadSlots). -/
theorem test_hyp_LoadSlots_crc :
    recCrcOk (List.replicate 4 0 ++ bytesOf 0xA3D916E8 4 ++ List.replicate 0x440 0) = true ∧ recCrcOk (List.replicate 0x448 0) = false := by
  have e : (List.replicate 4 (0 : Byte) ++ bytesOf 0xA3D916E8 4 ++ List.replicate 0x440 0).take 4 ++
      (List.replicate 4 (0 : Byte) ++ bytesOf 0xA3D916E8 4 ++ List.replicate 0x440 0).drop 8 = List.replicate 1092 0 := by decide +kernel
  have f : (List.replicate 0x448 (0 : Byte)).take 4 ++ (List.replicate 0x448 0).drop 8 = List.replicate 1092 0 := by decide +kernel
  rw [recCrcOk, recCrcOk, e, f, test_crc_zeros]
  decide +kernel

/-! ### The launch scheduler -/

/-- Bytes at a guest-physical address of die 0. -/
def poke (s : State) (a : Nat) (l : List Byte) : State :=
  { s with mem := l.zipIdx.foldl (fun m x => if x.1 = 0 then m else m.put (0x40000000 + a + x.2) x.1) s.mem }

/-- Bytes above everything in memory, at a guest-physical address of die 0. -/
def place (s : State) (a : Nat) (l : List Byte) : State :=
  { s with mem := s.mem ++ l.zipIdx.filterMap (fun x => if x.1 = 0 then none else some (0x40000000 + a + x.2, x.1)) }

/-- The first entry of queue 0 of context 1 is an accepted command of these 8-byte words (R339). -/
def withCmd (s : State) (l : List Nat) : State := { poke s 0x21000 (l.flatMap (bytesOf · 8)) with cmds := [(1, 0, 0)] }

/-- A kernel image with the empty sections of R111, but for a PAGES section of `n` zero bytes and a signature by key 1. -/
def image (n : Nat) : List Byte :=
  bytesOf 0x46524F47 4 ++ bytesOf 1 2 ++ bytesOf 1 2 ++ bytesOf 712 4 ++ bytesOf 10 4 ++ bytesOf 64 48 ++
    (List.range 10).flatMap (fun i => bytesOf (i + 1) 4 ++ bytesOf (if i = 0 then n else if i = 9 then 392 else 0) 4 ++
      bytesOf (if i = 0 then 256 else 320) 8) ++ bytesOf 0 96 ++ bytesOf 1 8 ++ beBytes 2 384

/-- The encoded message of EMSA-PSS for that image, with a salt of zeros (worked out outside this package). -/
def encoded : Nat :=
  0x3186f953c4830449cd9900bb7c37539ef5b52463f3065349338255404f43e3a58bb3c5980865dc989e404b4f3245916df0eb80730af03ccb43bba59c92783b4c269a82289c61282ddc898381ac415ecdba879346c0a46b6470ed37793896d00e018a3f07e3e201c0cdc58c927e42f3b207b0d29b963b95681d2085c092f3cf8f2f60ab14ea75c4116e7a4d7febad9ca817c9b07d51bd2004d91cae80668b721600384bec2f7139bd374a244910e7b2b2e163168830e68a05ab9e8ff3f0580cc66f2b9d53fbb2ea2552bab1b04aa9696a325a3f0a8d93a54b61d2ed2b74432091eaacdc73d1a1832815e6326585cd0d61dd863f45fc8b0c618ffb237af244680cf6f9db44b6f371348d64eb950dcba00338a12d40cc56595a33e2d1acba38aea18ea4c96af0cf3b73ed69a8e2e831a799e62eb4440e3f246ba9a9fbbf03f94d17892864b94267e3893f4be15b53784b9deb88baf13e76d7e352458651a8141630c13deee9e037a2385fc0b08b69d99e6caddbed149a37d9549537ebad184b98bc

/-- `busy` whose security engine holds a key under which 2 is the signature of `image 0`: 2 ^ 65537 leaves `encoded`. -/
def signed : State := { busy [] none with keys := [(1, 2 ^ 65537 - encoded, false)] }

/-- The key signs the image, and no key signs it otherwise (LoadUnloadCancel). -/
theorem test_hyp_LoadUnloadCancel_signed :
    imgSigned signed (image 0) = true ∧ imgSigned (busy [] none) (image 0) = false := by decide +kernel

/-- A kernel image with 16 bytes of CODE and one relocation of an unknown kind, and a signature by key 1. -/
def relocImage : List Byte :=
  bytesOf 0x46524F47 4 ++ bytesOf 1 2 ++ bytesOf 1 2 ++ bytesOf 776 4 ++ bytesOf 10 4 ++ bytesOf 64 48 ++
    (List.range 10).flatMap (fun i => bytesOf (i + 1) 4 ++ bytesOf (if i = 4 ∨ i = 7 then 16 else if i = 9 then 392 else 0) 4 ++
      bytesOf (if i ≤ 4 then 256 else if i ≤ 7 then 320 else 384) 8) ++
    bytesOf 0 96 ++ bytesOf 0 8 ++ bytesOf 7 2 ++ bytesOf 5 2 ++ bytesOf 0 52 ++ bytesOf 1 8 ++ beBytes 2 384

/-- The encoded message of EMSA-PSS for that image, with a salt of zeros (worked out outside this package). -/
def relocEncoded : Nat :=
  0x1ffbfa65b8e30660c96c01328ff8864345f4dba343b85f25db6edc9baa992f15eca34f1f859bbe335eda23d737e7fd007269c732def8e67db4cdd60222fe5e61294d7bd17562684fa5f06d6571f97f83d089442868af82118737852f4979a5f03336f3149745a7380764255c436979e2ed4d6dea1ab293776bdb7c510def8a2fe32ecc149fb4daa2293053c1c9ae3781baab1380dce008a2beb7b485ebfad0d32f53d8606645a17840508e1d59b34f7f275dc2d115725286190212c3761756a06f274e83792f2f2224e47d49afd8d6e4326c1fb6266a39b28b1228e764c3ab5da27cd0fa3c0a237714b00d9e8d53939b6f568bce82d420b566dc767a2592349baab310403514d24f86745d706de8192cdf5d90bd027411c7b9f895a58175bdc03b597eac34044850e51b57096a0f302733529f0744f35a0f7963f094b416ad7d4ba95a26c5d9d5fd274f93581214941154767b303f73a24ec6d2f3625a2b28c41a0e5e4333fed97133d12f4e3a14fd9fc7a77a2690edfedcaeb524cc63460bc

/-- A signed image whose section cannot be placed, and one whose relocation cannot (LoadUnloadCancel). -/
theorem test_hyp_LoadUnloadCancel_places :
    let s : State := { busy [] none with keys := [(1, 2 ^ 65537 - relocEncoded, false)] }
    let places (base : Nat) := placeAll (copySection 1 relocImage base) [5, 6, 7] s
    imgSigned s relocImage = true ∧ sectionsOk relocImage = true ∧ imgShape relocImage = true ∧
      (places 0x80000000).2 = some 5 ∧ (places 0x50000).2 = none ∧
      (placeAll (fun u i => relocOne u 1 relocImage 0x50000 i) (List.range (secLen relocImage 8 / 16)) (places 0x50000).1).2 = some 3 := by
  intros
  and_intros <;> decide +kernel

/-- Commands of each operation, LOADs that end with each status, kernels with and without a job, and jobs to cancel
(LoadUnloadCancel). -/
theorem test_hyp_LoadUnloadCancel :
    let small : State := { busy [] none with mem := (State.reset.withFetchWord 32 0).mem ++ words [(0x8088, 0x9001), (0x80B0, 0x20000), (0x9000, 0xA001), (0xA000, 0xB001),
      (0xB000, 0x3F), (0x20000, 0x21000), (0x20008, 2 ^ 63 + 2 ^ 40 + 4 * 2 ^ 29), (0x20018, 1)] }
    let s (l : List Nat) := withCmd small l
    let due (s : State) (op : Nat) := nextCmd s == some (1, 0, 0) &&
      ((cmdEntry s 1 (schedQueue s 1 0).1 (schedQueue s 1 0).2.1 0).headD 0).toNat == op
    let entry (s : State) := cmdEntry s 1 (schedQueue s 1 0).1 (schedQueue s 1 0).2.1 0
    let good (m : List Byte) (len : Nat) := imgNum m 0 4 == 0x46524F47 && imgNum m 4 2 == 1 && imgNum m 6 2 == 1 && imgNum m 8 4 == len
    let img (n : Nat) := place (s [1, 0x40000, 712]) 0x40000 (image n)
    let last := place (s [1, 0x3FFFFFC0, 712]) 0x3FFFFFC0 ((image 0).take 64)
    nextCmd (busy [] none) = none ∧ due (s [1, 0x40000, 712]) 1 = true ∧ due (s [4, 0]) 4 = true ∧ due (s [3, 3]) 3 = true ∧
    (operand (entry (s [1, 0x40001, 712])) 8 % 64 ≠ 0 ∧ operand (entry (s [1, 0x40000, 712])) 8 % 64 = 0) ∧
    errIs (loadRead (s []) 1 0x80000000 64) (fun _ => true) = true ∧
    okIs (loadRead (s []) 1 0x40000 64) (fun x => !good x.1 712) = true ∧
    okIs (loadRead (img 0) 1 0x40000 64) (fun x => good x.1 712) = true ∧
    (okIs (loadRead last 1 0x3FFFFFC0 64) (fun x => good x.1 712) = true ∧ errIs (loadRead last 1 0x3FFFFFC0 712) (fun _ => true) = true) ∧
    (okIs (loadRead (img 0) 1 0x40000 712) (fun x => x.1 == image 0) = true ∧ sectionsOk (image 0) = true ∧ imgShape (image 0) = true ∧
      imgShape (image 16) = false ∧ sectionsOk (image 65) = false) ∧
    ((placeAll (copySection 1 (image 0) 0x50000) [5, 6, 7] (img 0)).2 = none ∧
      (placeAll (fun u i => relocOne u 1 (image 0) 0x50000 i) (List.range (secLen (image 0) 8 / 16)) (img 0)).2 = none ∧
      freeHandle (img 0) 1 = some 1 ∧ freeHandle { img 0 with kernels := (List.range 64).map (fun h => ⟨1, h, [], [], [], []⟩) } 1 = none) ∧
    ((s [4, 0]).liveJobs 1 = [job] ∧ job.kernel = 0 ∧ ((s [3, 3]).findJob 1 3).isSome = true ∧ (s [3, 9]).findJob 1 9 = none) := by
  intros
  and_intros <;> decide +kernel

/-- LAUNCHes of each status (Launches): no kernel, bad operands, an absent die, a step list that cannot be read or that breaks R343,
too many jobs, and a good one. -/
theorem test_hyp_Launches :
    let s (w list rec dm : Nat) := poke (withCmd (busy [] none) [2, w, list, rec, 0, 0, dm]) 0x50000
      (bytesOf 1 4 ++ bytesOf 0 12 ++ bytesOf 1 4 ++ bytesOf 1 12)
    let run (t : State) := nextCmd t == some (1, 0, 0) && ((cmdEntry t 1 (schedQueue t 1 0).1 (schedQueue t 1 0).2.1 0).headD 0).toNat == 2
    let k (t : State) := (t.kernel 1 0).getD ⟨0, 0, [], [], [], []⟩
    let good := s (2 ^ 16) 0x50000 0x2000 0
    let fine (t : State) (n : Nat) := okIs (schedRead t 1 0x50000 (16 * n)) (fun x =>
      (List.range n).all (fun i => stepOk (k t) ((x.1.drop (16 * i)).take 16)))
    run good = true ∧ (good.kernel 1 63).isNone = true ∧ (good.kernel 1 0).isSome = true ∧
    ((k good).regions[0]?).map (·.1) = some true ∧ good.present 0 = true ∧ good.present 3 = false ∧
    errIs (schedRead good 1 0x80000000 16) (fun _ => true) = true ∧ fine good 1 = true ∧ fine good 2 = false ∧
    (good.jobs.countP (fun j => !jobFinal j) < 1024 ∧
      1024 ≤ ({ good with jobs := List.replicate 1024 job } : State).jobs.countP (fun j => !jobFinal j)) := by decide +kernel

/-- Two jobs that wait, one of them of context 0, a switch of tenants, a gang above the quota, a full fabric with a job that gives
way and with none (Admission). -/
theorem test_hyp_Admission :
    let q (c n : Nat) : Job := { job with ctx := c, num := n, st := .queued }
    let base := busy [] none
    let s (l : List Job) (ps : List Page) : State := { base with
      jobs := l, pages := ps, ctxs := (base.ctxs.put 1 ⟨.opened, 0, []⟩).put 0 ⟨.opened, 0, []⟩,
      kernels := [⟨1, 0, [⟨0, 1, 4, false, []⟩], [[0]], [(true, 0, 0)], []⟩, ⟨0, 0, [⟨0, 1, 4, false, []⟩], [[0]], [(true, 0, 0)], []⟩] }
    let out (c n : Nat) : Page := { page with ctx := c, job := n, st := .absent }
    let one := s [q 1 3] [out 1 3]
    let low := { one with mgmt := { one.mgmt with ctxtab := 0x26000 } }
    let wide (st : JobState) (n : Nat) : List Page := (List.range n).map (fun i => { page with
      ctx := 0, job := 4, bx := 16 * (i % 4), byy := 8 * (i / 4), w := 16, h := 8, ix := i, st := if st = .running then .resident else .absent })
    let crowd := s [q 1 3, { job with ctx := 0, num := 4, queue := 4 }] (wide .running 16 ++ [out 1 3])
    let prior := poke (poke crowd 0x8080 [127]) 0x20008 (bytesOf (2 ^ 63 + 2 ^ 40 + 4 * 2 ^ 29 + 64) 8)
    let too (s : State) (j : Job) := decide (quotaTiles s j.ctx < curTiles s j)
    let fits (s : State) (j : Job) := decide (curTiles s j + residentTiles s j.ctx ≤ quotaTiles s j.ctx)
    let taken (s : State) (j : Job) := (headOrder s).find? (fun x => too s x || fits s x) == some j
    heads one = [q 1 3] ∧ taken one (q 1 3) = true ∧ too one (q 1 3) = false ∧ fabricFull one (q 1 3) = false ∧
    taken low (q 1 3) = true ∧ too low (q 1 3) = true ∧ (heads (s [] [])).isEmpty = true ∧
    taken crowd (q 1 3) = true ∧ fabricFull crowd (q 1 3) = true ∧ givesWay crowd (q 1 3) = none ∧
    taken prior (q 1 3) = true ∧ fabricFull prior (q 1 3) = true ∧ ((givesWay prior (q 1 3)).map (·.num)) = some 4 := by
  decide +kernel

/-- Jobs that drain and that run, late and in time, with a token under way and at rest (JobEnds). -/
theorem test_hyp_JobEnds :
    let s (st : JobState) : State := { busy [] none with jobs := [{ job with st := st }], micros := 5000 }
    let watched (w : Nat) : State := { s .running with mgmt := { (s .running).mgmt with wdto := BitVec.ofNat 32 w } }
    let late (t : State) (x : Job) := (x.st == .running || x.st == .pageWait) && decide (t.mgmt.wdto ≠ 0) &&
      decide (x.act + 1000 * t.mgmt.wdto.toNat ≤ t.micros)
    let tok : Flight := ⟨⟨BitVec.ofNat 64 (2 ^ 49 + 1), Lanes.zero⟩, .step 1 3, some 3, 0, none, false, false, 0⟩
    (s .draining).findJob 1 3 = some { job with st := .draining } ∧ quiescent (s .draining) 1 3 = true ∧
    quiescent { s .draining with flights := [tok] } 1 3 = false ∧ (s .running).findJob 1 3 = some job ∧ job.st ≠ .draining ∧
    late (watched 5) job = true ∧ late (watched 6) job = false ∧ late (watched 0) job = false := by decide +kernel

/-- STEP with reserved bits, of no job, of a final, a queued, a draining and a running job, with its counter and with another, before and
at the last iteration (JobSteps). -/
theorem test_hyp_JobSteps :
    let s (j : Job) := { busy [(5, 3), (6, 0), (7, 0x10003), (8, 2 ^ 48), (9, 4), (10, 1)] none with jobs := [j] }
    let pc (j : Job) := j.its % 2 ^ 32 + j.cstep % 2 ^ 16 * 2 ^ 32
    CoreReady .user false (s job) 0 ∧ bits (gGet (s job) 0 7) 63 16 ≠ 0 ∧ bits (gGet (s job) 0 5) 63 16 = 0 ∧
    bits (gGet (s job) 0 8) 63 48 ≠ 0 ∧ bits (gGet (s job) 0 6) 63 48 = 0 ∧ (s job).anyJob 1 4 = none ∧ (s job).anyJob 1 3 = some job ∧
    jobFinal { job with st := .complete } = true ∧ jobFinal job = false ∧ (pc job = 0 ∧ pc job ≠ 1) ∧
    (job.st ≠ .queued ∧ job.st ≠ .admitted ∧ job.st ≠ .draining) ∧ job.steps[job.cstep]? = some ⟨2, 0, false, 0⟩ ∧ job.its + 1 < 2 ∧
    (2 ≤ ({ job with its := 1 } : Job).its + 1 ∧ curGang job = some 0) :=
  ⟨coreReady (by decide +kernel), by decide +kernel⟩

/-- A page in each state with its record good, bad, read again and unreadable, with a position and with none, with save space and without
(PageEvents; the CRCs of the two records are those of test_hyp_LoadSlots_crc). -/
theorem test_hyp_PageEvents :
    let base := (busy [] none).updDie 0 (fun d => { d with psSize := 2 })
    let s (p : Page) (j : Job) : State := { base with
      pages := [p], jobs := [j], kernels := [⟨1, 0, [⟨0, 1, 4, false, [0x50000]⟩], [[0]], [(true, 0, 0)], []⟩] }
    let at' (st : PageState) : Page := { page with st := st }
    let new := { page with st := PageState.placing, reserved := false }
    let good : List Byte := List.replicate 4 0 ++ bytesOf 0xA3D916E8 4 ++ List.replicate 0x440 0
    let bad (s : State) (a : Nat) := (readRecords s 1 [a] []).map (fun x => x.1 == [List.replicate 0x448 0])
    let low := { s new job with mgmt := { base.mgmt with ctxtab := 0x26000 } }
    let tiny := (s new job).updDie 0 (fun d => { d with psSize := 1 })
    let frozen : Page := { at' .placing with save := some ⟨[(0, { tile0 with slots := (List.range 1).map (fun j => (j, { Slot.reset with
      st := .ready, tag := some (5, 0) })) })], [], [(5, none, [])]⟩, reserved := true }
    let two : State := { s new job with pages := [new, { page with ix := 1 }] }
    (s page job).pages[0]? = some page ∧ (s page job).findJob 1 3 = some job ∧ page.st ≠ .fetching ∧ (at' .fetching).st = .fetching ∧
    (readRecords (s (at' .fetching) job) 1 [0x80000000] []).isNone = true ∧ bad (s (at' .fetching) job) 0x50000 = some true ∧
    (readRecords (s (at' .fetching) job) 1 [0x50000] [good]).map (·.1) = some [good] ∧
    (0 ∈ ({ at' .fetching with retried := [0] } : Page).retried ∧ 0 ∉ (at' .fetching).retried) ∧
    (everFits (s new job) new = true ∧ everFits (s new job) { new with h := 33 } = false) ∧
    (storeNever (s new job) new = false ∧ storeNever tiny new = true ∧ storeFits (s new job) new = true) ∧
    (scalesNever low frozen = true ∧ scalesNever (s new job) new = false) ∧
    (two.pages.find? (fun q => q.ctx == 1 && q.job == 3 && q.region == 0 && q.ix != 0 && pagePlaced q)).isSome = true ∧
    (residentTiles (s new job) 1 + 4 ≤ quotaTiles (s new job) 1 ∧ quotaTiles low 1 < residentTiles low 1 + 4) ∧
    findPosition (s new job) new false (tileFree (s new job)) (saveFits (s new job) new) = some (0, 0, 0) ∧
    ((at' .saved).st = .saved ∧ inCurGang (s (at' .saved) { job with st := .pageWait }) (at' .saved) = true ∧ job.st ≠ .pageWait) ∧
    ((at' .installing).load = none ∧ recordsOk (at' .installing) = true ∧
      recordsOk { at' .installing with records := [List.replicate 0x448 0, List.replicate 0x448 0] } = false) ∧
    (drainOver (s (at' .draining) job) (at' .draining) = true ∧
      drainOver ((s (at' .draining) job).updTile 0 (fun t => { t with cell := { t.cell with task := some task } })) (at' .draining) = false) := by
  intros
  and_intros <;> decide +kernel

/-- Positions beside a placed page, the order of two victims, a page that leaves, and none that can (PositionsAndVictims). -/
theorem test_hyp_PositionsAndVictims :
    let base := busy [] none
    let new := { page with ix := 1, st := PageState.placing, reserved := false }
    let s (l : List Page) : State := { base with
      pages := l, kernels := [⟨1, 0, [⟨0, 1, 4, false, []⟩, ⟨1, 1, 4, false, []⟩], [[0], [1]], [(true, 0, 0), (true, 0, 0)], []⟩] }
    let t := s [page, new]
    findPosition t new false (tileFree t) (saveFits t new) = some (1, 0, 0) ∧ (victims t new).length = 1 ∧ (firstVictim (victims t new)).isSome = true ∧
    (s [{ page with st := .draining }, new]).pages.any (fun q => q.ctx == new.ctx && q.die == new.die && q.st == .draining) = true ∧
    t.pages.all (fun q => q.st != .draining && q.st != .migrating) = true ∧ (victims (s [{ page with pinned := true }, new]) new).isEmpty = true := by
  decide +kernel

/-- A page whose gang can migrate, a pinned one, and a MIGRATING page that has drained and that has not
(AcknowledgementsAndMigration). -/
theorem test_hyp_AcknowledgementsAndMigration :
    let s (p : Page) (l : List Page := []) : State := { busy [] none with pages := p :: l }
    let gang (s : State) := (actsOn s job (gangOf s job 0)).filterMap (fun ix => s.page 1 3 ix)
    let mig := { page with st := PageState.migrating }
    let full := { page with ix := 5, w := 64, h := 32 }
    let held := (s mig).updIsle 0 (fun i => { i with frames := [(0, { Frame.reset with st := .live, ctx := 1, tile := 0 })] })
    let poor : State := { held with mgmt := { held.mgmt with ctxtab := 0x100000 } }
    let s1 (s : State) := readOut (endDrain s mig) mig .migrating
    let own (s : State) := ((s1 s).page 1 3 0).map (fun q => saveFits (s1 s) q q.bx q.byy q.skip)
    let other (s : State) := ((s1 s).page 1 3 0).map (fun q => (findPosition (s1 s) q q.save.isSome
      (fun t => !((s1 s).pages.any (fun x => inPage x t && !(x.ctx == 1 && x.job == 3 && x.ix == 0))) && !((s1 s).tile t).ending &&
        !((s1 s).isle (tileIsle t)).fenced)
      (fun x y k => !(x == q.bx && y == q.byy) && saveFits (s1 s) q x y k)).isSome)
    (s page).pages[0]? = some page ∧ (s page).findJob 1 3 = some job ∧
    (gang (s page)).all (fun q => q.st == .resident && !pagePinned (s page) q) = true ∧
    (gang (s { page with pinned := true })).all (fun q => !pagePinned (s { page with pinned := true }) q) = false ∧
    drainOver (s mig) mig = true ∧
    mig.evicting = false ∧ other (s mig) = some true ∧ own (s mig) = some true ∧
    other (s mig [full]) = some false ∧ own (s mig [full]) = some true ∧ other poor = some false ∧ own poor = some false ∧
    drainOver ((s mig).updTile 0 (fun t => { t with cell := { t.cell with task := some task } })) mig = false := by decide +kernel

/-- A step list whose START is a place of the job, and one whose START is none (JobSteps); a region of which another page is
RESIDENT, pinned, or leaving (PageEvents); and free positions beside a placed page (PositionsAndVictims). -/
theorem test_hyp_StepsAndPlaces :
    let base := busy [] none
    let new : Page := { page with ix := 1, st := .placing, reserved := false }
    let s (l : List Page) : State := { base with
      pages := l, kernels := [⟨1, 0, [⟨0, 1, 4, false, []⟩, ⟨0, 1, 4, false, []⟩], [[0], [1]], [(true, 0, 0), (true, 0, 0)], []⟩] }
    let other (s : State) := s.pages.find? (fun q => q.ctx == 1 && q.job == 3 && q.region == 0 && q.ix != 1 && pagePlaced q)
    let pin : Page := { page with pinned := true }
    let out : Page := { page with st := .draining }
    let open' (x y : Nat) : Bool := (List.range 4).all (fun h => tileFree (s [page, new]) (tileAt 0 x (y + h))) && !shoalIn (s [page, new]) 0 x y 4
    (destOk (some job) 0 = true ∧ destOk (some job) 5 = false) ∧
      (other (s [page, new]) = some page ∧ page.st = .resident ∧ pagePinned (s [page, new]) page = false) ∧
      (other (s [pin, new]) = some pin ∧ pagePinned (s [pin, new]) pin = true) ∧
      (other (s [out, new]) = some out ∧ out.st ≠ .resident) ∧ everFits (s [page, new]) new = true ∧
      (open' 1 0 = true ∧ open' 0 4 = true ∧ open' 0 0 = false ∧ saveFits (s [page, new]) new 0 4 0 = true) ∧
      (physCol 0 (new.w - 1) + 1 = new.w ∧ 0 < new.w ∧ new.w ≤ 16 ∧ 0 < new.h) := by
  intros
  and_intros <;> decide +kernel

/-! ### Circuits and contexts -/

/-- CONN on an entry in each state, with reserved bits, with specifications that are good, invalid, joined already and beyond a budget
(Connections). -/
theorem test_hyp_Connections :
    let spec (a b ch : Nat) := a + b * 2 ^ 4 + ch * 2 ^ 16
    let fib := 8 + 1 * 2 ^ 4 + 2 * 2 ^ 8 + 1 * 2 ^ 12 + 8 * 2 ^ 16
    let s := (mapped [(5, 0), (6, 256), (7, BitVec.ofNat 64 (spec 0 4 64)), (8, BitVec.ofNat 64 (spec 0 0 1)),
      (9, BitVec.ofNat 64 (spec 0 4 65)), (10, 2 ^ 7), (11, BitVec.ofNat 64 fib), (12, 63 * 4)])
    let s := { s with mgmt := { s.mgmt with modid := 0, fibmap := 2 ^ 6 } }
    let on (n : Nat) (st : CircuitState) (v : Nat) := s.setCircuit n { Circuit.reset with st := st, spec := BitVec.ofNat 64 v }
    let valid (v : Word64) := specValid s v
    let joined (t : State) (v : Word64) := (liveCircuits t).any (fun c => samePair c.spec v)
    let fits (t : State) (v : Word64) := decide (channels t (usesEnd · (bits v 2 0)) + bits v 22 16 ≤ 64)
    CoreReady .machine false s 0 ∧ bits (gGet s 0 6) 63 8 ≠ 0 ∧ bits (gGet s 0 12) 63 8 = 0 ∧ bit (gGet s 0 10) 7 = true ∧
    (bits (gGet s 0 7) 63 23 = 0 ∧ bit (gGet s 0 7) 15 = false ∧ bit (gGet s 0 7) 7 = false) ∧
    (valid (gGet s 0 7) = true ∧ valid (gGet s 0 11) = true ∧ valid (gGet s 0 8) = false ∧ valid (gGet s 0 9) = false) ∧
    (joined (on 1 .up (spec 4 0 1)) (gGet s 0 7) = true ∧ joined s (gGet s 0 7) = false) ∧
    (fits s (gGet s 0 7) = true ∧ fits (on 1 .up (spec 0 1 1)) (gGet s 0 7) = false ∧
      joined (on 1 .up (spec 0 1 1)) (gGet s 0 7) = false) ∧
    (s.circuit 63).st = .idle ∧ ((on 63 .up (spec 4 0 1)).circuit 63).st = CircuitState.up ∧
    ((on 63 .failed (spec 4 0 1)).circuit 63).st = CircuitState.failed ∧ ((on 63 .tuning (spec 4 0 1)).circuit 63).st = CircuitState.tuning :=
  ⟨coreReady (by decide +kernel), by decide +kernel⟩

/-- An entry in each state, late and in time, with a flit in its turn and out of it, after seven failures and after fewer
(CircuitEvents). -/
theorem test_hyp_CircuitEvents :
    let on (st : CircuitState) (r : List Flit) (n : Nat) (rs : Bool) := (busy [] none).setCircuit 5 { Circuit.reset with
      st := st, spec := BitVec.ofNat 64 (4 * 2 ^ 4 + 2 ^ 16), retry := r, fails := n, resend := rs }
    let tok : Flight := ⟨⟨BitVec.ofNat 64 (2 ^ 49 + 1), Lanes.zero⟩, .step 1 3, some 3, 0, none, false, false, 0⟩
    let at' (t : Nat) (s : State) : State := { s with micros := t }
    let c (s : State) := s.circuit 5
    let rdy (s : State) := ((c s).st == .up || (c s).st == .draining) && !(c s).resend
    let ends (s : State) := endReady s (specA (c s).spec) && (specFib (c s).spec || endReady s (specB (c s).spec))
    let out (s : State) := s.updDie 0 (fun v => { v with fenced := true })
    let asked := on .requested [] 0 false
    ((c asked).st = .requested ∧ ends asked = true ∧ ends (out asked) = false) ∧ (c (on .tuning [] 0 false)).st = .tuning ∧
    (c (on .draining [] 0 false)).st = .draining ∧
    ((c (on .tuning [] 0 false)).since + 100 ≤ (at' 100 (on .tuning [] 0 false)).micros ∧
      (at' 99 (on .tuning [] 0 false)).micros < (c (on .tuning [] 0 false)).since + 100) ∧
    ((c (on .draining [] 0 false)).retry = [] ∧ (c (on .draining [⟨0, 1, [tok]⟩] 0 false)).retry ≠ []) ∧
    (2 ≤ (2#2).toNat ∧ (1#2).toNat < 2) ∧ rdy (on .up [⟨0, 1, [tok]⟩] 6 false) = true ∧ rdy (on .up [⟨0, 1, [tok]⟩] 6 true) = false ∧
    ((0 : Nat) = (c (on .up [⟨0, 1, [tok]⟩] 6 false)).rxSeq.get 0 1 ∧ (4095 : Nat) ≠ (c (on .up [⟨4095, 1, [tok]⟩] 6 false)).rxSeq.get 0 1) ∧
    ((c (on .up [⟨0, 1, [tok]⟩] 6 false)).fails < 7 ∧ 7 ≤ (c (on .up [⟨0, 1, [tok]⟩] 7 false)).fails) := by decide +kernel

/-- Contexts that open, close, wait for a switch, are refused, and are given back (ContextCommands). -/
theorem test_hyp_ContextCommands :
    let s := busy [] none
    let s := { s with ctxs := s.ctxs.put 1 ⟨.free, 0, []⟩ }
    let st (u : State) := (u.ctx 1).st
    let in' (x : CtxState) := { s with ctxs := s.ctxs.put 1 ⟨x, 0, []⟩ }
    let over' : State := { in' .closing with jobs := [], pages := [] }
    let held := withScratch 1 over'
    ((1 : Nat) ≠ 0 ∧ s.mgmt.ctxtab ≠ (0 : Word64) ∧ st s = .free ∧ recordOpens s 1 = true) ∧ recordOpens s 2 = false ∧
    (st (in' .opened) = .opened ∧ (in' .opened).tslot = none ∧
      ({ in' .opened with tslot := some ⟨0, 1, [0], []⟩ } : State).tslot ≠ none) ∧
    (st (in' .closing) = .closing ∧ ctxReturned over' 1 = true ∧ ctxReturned held 1 = false) := by decide +kernel

/-- A slice that is over and one that is not, with another tenant waiting and none; switch steps that are named, reported, late and
without a switch (TenantSwitches). -/
theorem test_hyp_TenantSwitches :
    let b := busy [] none
    let s : State := { b with
      jobs := [{ job with ctx := 2, st := .queued }], ctxs := b.ctxs.put 2 ⟨.opened, 7, []⟩, micros := 1000,
      mgmt := { b.mgmt with tslice := 1000, wdto := 1 } }
    let named (op : Nat) (save load : List Nat) : State := { s.updIsle 0 (fun i => { i with tsw := BitVec.ofNat 64 (op * 4 + 16) }) with
      tslot := some ⟨0, 7, save, load⟩ }
    let past (s : State) := decide (s.slice + s.mgmt.tslice.toNat ≤ s.micros)
    let late (s : State) := decide (s.mgmt.wdto ≠ 0) && decide ((s.isle 0).tswAt + 1000 * s.mgmt.wdto.toNat ≤ s.micros)
    (s.tslot = none ∧ past s = true ∧ past { s with micros := 999 } = false ∧ nextTenant s = some 7 ∧ nextTenant { s with jobs := [] } = none) ∧
    bits (s.isle 0).tsw 3 2 = 0 ∧ bits ((named 1 [0] []).isle 0).tsw 3 2 = 1 ∧ bits ((named 2 [] [0]).isle 0).tsw 3 2 = 2 ∧
    (late (named 1 [0] []) = true ∧ late { named 1 [0] [] with micros := 999 } = false ∧ ((named 1 [0] []).ctx 1).st = .opened) ∧
    (([0, 3] : List Nat).filter (· != 0) ≠ [] ∧ ([0] : List Nat).filter (· != 0) = []) := by decide +kernel

/-- A core in Machine mode whose isle holds nothing of its context, or a copy tag that is pending, and a saved area of an isle at 0x60000
(ContextSaveAndLoad). -/
def areaState (l : List (Nat × Nat)) : State :=
  let s := mapped [(5, 0x60000), (6, 0x60800), (7, 0x80000000)]
  ({ s with mem := s.mem ++ words l, ctxs := s.ctxs.put 1 ⟨.opened, 0, []⟩ }).updIsle 0 (fun i => { i with saved := true })

/-- Areas that are misaligned, unmapped, busy and good to save (ContextSaveAndLoad). -/
theorem test_hyp_ContextSaveAndLoad_save :
    let s := areaState []
    let rq := coreReq s 0 .data
    let i := s.isle 0
    let n := areaLen (heldScales i i.ctx).length (heldBanks i i.ctx).length
    let late := s.updIsle 0 (fun i => { i with ctb := 0 })
    CoreReady .supervisor false s 0 ∧ (gGet s 0 6).toNat % 4096 ≠ 0 ∧ (gGet s 0 5).toNat % 4096 = 0 ∧
    okIs (areaCheck rq .store (areaPages 0x60000 n) s) (fun s1 => okIs (writeVa s1 rq 0x60000 (saveArea i) (pieces n)) (fun _ => true)) = true ∧
    errIs (areaCheck (coreReq (busy [] none) 0 .data) .store (areaPages 0x80000000 n) (busy [] none)) (fun _ => true) = true ∧
    isleBusy s 0 = false ∧ isleBusy late 0 = true ∧ (s.isle 0).saved = true ∧ (s.isle 0).fenced = false ∧ ((mapped []).isle 0).saved = false :=
  ⟨coreReady (by decide +kernel), by decide +kernel⟩

/-- Areas to load that are good, of reserved bits, of a bank in use and of too many registers (ContextSaveAndLoad). -/
theorem test_hyp_ContextSaveAndLoad_load :
    let good := areaState [(0x60000, 1), (0x60018, 0x9001)]
    let h (s : State) := okIs (readVa s (coreReq s 0 .data) 0x60018 8 2) (fun r =>
      okIs (readVa r.2 { coreReq s 0 .data with root := BitVec.ofNat 64 (numOf r.1) } 0x60000 8 2) (fun x => numOf x.1 / 2 ^ 34 == 0))
    let area (s : State) (z : Nat) (f : List Byte → Bool) :=
      let rq1 : Req := { coreReq s 0 .data with root := 0x9001, ctx := z % 256, tenant := 0, direct := false }
      let size := areaLen (z / 2 ^ 25 % 2 ^ 9) (z / 2 ^ 16 % 2 ^ 9)
      okIs (areaCheck rq1 .load (areaPages 0x60000 size) s) (fun s3 =>
        okIs (readVa s3 rq1 0x60000 size (pieces size)) (fun x => f x.1))
    h good = true ∧ h (areaState [(0x60000, 2 ^ 34), (0x60018, 0x9001)]) = false ∧
    area good 1 (fun l => areaNum l 0x640 1 / 2 ^ 7 == 0 && areaNum l 0x73F 1 / 2 ^ 7 == 0) = true ∧
    (area (areaState [(0x60000, 1), (0x60018, 0x9001), (0x60738, 2 ^ 63)]) 1 (fun l => areaNum l 0x73F 1 / 2 ^ 7 == 1) = true ∧
      ((withScratch 1 good).isle 0).bank 0 ≠ (good.isle 0).bank 0 ∧ ((good.isle 0).bank 255).mode = .cache ∧
      ((good.isle 0).bank 255).busy = false) ∧
    area (areaState [(0x60000, 1 + 2 ^ 25), (0x60018, 0x9001)]) (1 + 2 ^ 25) (fun _ => true) = true ∧
    1 ≤ (List.range 256).countP (fun r => ((good.isle 0).scale r).st == .free) ∧ ctxScales good 0 1 + 1 ≤ quotaSreg good 1 ∧
    ¬ (ctxScales good 0 9 + 1 ≤ quotaSreg good 9) := by
  intros
  and_intros <;> decide +kernel

/-! ### Tokens under way -/

/-- A DATA token of job 3 of context 1 for port `p` of tile (0, `y`) of region `v`. -/
def dataTok (p y v : Nat) : Token := ⟨BitVec.ofNat 64 (2 ^ 49 + p * 2 ^ 21 + y * 2 ^ 18 + v * 2 ^ 8 + 1), ⟨1, 2, 0, 0, 0, 0, 0, 0⟩⟩

/-- A flight of the step port. -/
def fly (tok : Token) (dest : Option Nat) (hwq strait : Bool) : Flight := ⟨tok, .step 1 3, some 3, 0, dest, hwq, strait, 0⟩

/-- `busy` with these flights, and the entry of region 0 as `r`. -/
def flown (l : List Flight) (r : Reloc) : State :=
  { (busy [] none).updDie 0 (fun d => { d with spSize := 1 }) with flights := l, jobs := [{ job with reloc := job.reloc.put 0 r }] }

/-- Tokens to resolve to a tile, a hardware queue, a lagoon with room and with none, a strait with a circuit and without, and one that no
job resolves (TokenResolution). -/
theorem test_hyp_TokenResolution :
    let r0 := job.entry 0
    let up (s : State) := s.setCircuit 5 { Circuit.reset with st := .up, spec := BitVec.ofNat 64 (1 * 2 ^ 4 + 2 ^ 16) }
    let f := fly (dataTok 0 0 0) none false false
    let far := fly (dataTok 0 0 0) (some 2048) false true
    let s := flown [f] r0
    let wait := flown [f] { r0 with res := false }
    let full := wait.updDie 0 (fun d => { d with spSize := 0 })
    let seen (r : Reloc) := if r.acks.contains 0 then r.res else !r.res
    (s.flights[0]? = some f ∧ mayEnter s 0 f = true ∧ s.present f.die = true ∧ (s.die f.die).fenced = false) ∧
    mayEnter (flown [f, f] r0) 1 f = false ∧
    (upCircuit (flown [far] r0) 0 (destDie far) = none ∧ upCircuit (up (flown [far] r0)) 0 (destDie far) = some 5) ∧
    flightJob s (fly (dataTok 0 0 9) none false false) = none ∧ (flightJob s f).isSome = true ∧
    (r0.hq = false ∧ seen r0 = true ∧ r0.lag = false ∧ (job.entry 1).hq = true ∧
      (flightJob s (fly (dataTok 0 0 1) none false false)).isSome = true) ∧
    (seen { r0 with res := false } = false ∧ seen { r0 with acks := [] } = false ∧ lagoonRoom wait 1 0 = true ∧
      lagoonRoom full 1 0 = false) := by decide +kernel

/-- Tokens for a cell, an operator, a frame, a hardware queue and a wrong tile, each held, refused and taken (TokenDelivery). -/
theorem test_hyp_TokenDelivery :
    let t0 := { tile0 with
      steer := [(0, 0x4000), (1, 0x8000), (2, 0x4100), (3, 0x4200), (4, 0xC000)],
      classes := [(0, 0x20102002), (1, 0x00202002), (2, 0x00002002)], ops := [(0, { Op.reset with used := true })] }
    let s (l : List Flight) := (flown l (job.entry 0)).updTile 0 (fun _ => t0)
    let cell (n : Nat) (tok : Token) := fly { tok with hdr := tok.hdr + BitVec.ofNat 64 (n * 2 ^ 21) } (some 0) false false
    let tok := dataTok 0 0 0
    let one (n : Nat) := s [cell n tok]
    let entry (n : Nat) := t0.steer.get 0 n
    let cls (n : Nat) := t0.classes.get 0 (bits (entry n) 13 8)
    let free (s : State) (f : Flight) := !f.strait && inOrder s 0 f && !(s.die (destDie f)).fenced
    let ord : Token := ⟨BitVec.ofNat 64 (4 * 2 ^ 56 + 2 ^ 49 + 1), Lanes.zero⟩
    let drains : State := { one 0 with pages := [{ page with st := .draining }] }
    let full : State := (one 0).updTile 0 (fun t => { t with cell := { t.cell with ready := List.replicate 16 ⟨0, 0, Lanes.zero, Lanes.zero, none, 0⟩ } })
    let crowd : State := (one 1).updTile 0 (fun t => { t with ops := [(0, { Op.reset with
      used := true, inputs := [(0, List.replicate 4 tok)] })] })
    let framed (l : Tbl (Option Token)) : State := (one 2).updIsle 0 (fun i => { i with frames := [(0, ⟨.live, 1, 0, l⟩)] })
    let hwq (n : Nat) : State := (s [fly tok (some 0) true false]).updIsle 0 (fun i => { i with
      hwq := [(0, ⟨none, 1, List.replicate n tok⟩)], templates := [(0, { Template.reset with armed := true, ctx := 1 })] })
    (free (one 0) (cell 0 tok) = true ∧ free (s [fly tok (some 0) false true]) (fly tok (some 0) false true) = false ∧
      baseMatches t0 tok.hdr = true ∧ baseMatches t0 (dataTok 0 1 0).hdr = false) ∧
    (tileDrains (one 0) 0 = false ∧ tileDrains drains 0 = true ∧ t0.frozen = false ∧ ringHolds (one 0) 0 [1] = false ∧
      ({ t0 with frozen := true } : Tile).frozen = true) ∧
    (tokenFault tok = none ∧ tokenReserved ⟨tok.hdr ||| BitVec.ofNat 64 (2 ^ 63), tok.lanes⟩ = true) ∧
    (bits (entry 5) 15 14 = 0 ∧ bits (entry 4) 15 14 = 3 ∧ bits (entry 0) 15 14 = 1 ∧ bits (entry 1) 15 14 = 2) ∧
    (bits (cls 3) 21 20 = 0 ∧ bits (cls 0) 21 20 = 1 ∧ bits (cls 2) 21 20 = 2 ∧ bits (cls 0) 19 10 ≠ 0 ∧ bits (cls 2) 19 10 ≠ 0) ∧
    (hKind ord.hdr = kORD ∧ hKind tok.hdr ≠ kORD) ∧ (16 ≤ (full.cell 0).ready.length ∧ ((one 0).cell 0).ready.length < 16) ∧
    ((((framed []).isle 0).frames.get Frame.reset (hFrame tok.hdr)).st = .live ∧
      (((one 2).isle 0).frames.get Frame.reset (hFrame tok.hdr)).st ≠ .live ∧
      (((framed [(0, some tok)]).isle 0).frames.get Frame.reset 0).slot 0 ≠ none ∧
      (((framed [(1, some tok)]).isle 0).frames.get Frame.reset 0).slot 0 = none ∧
      (((framed [(1, some tok)]).isle 0).frames.get Frame.reset 0).slot (0 ^^^ 1) = some tok ∧
      (((framed []).isle 0).frames.get Frame.reset 0).slot (0 ^^^ 1) = none ∧ hIter (dataTok 0 0 0).hdr = hIter tok.hdr ∧
      hIter (tok.hdr + BitVec.ofNat 64 (2 ^ 39)) ≠ hIter tok.hdr) ∧
    (((one 1).op 0 0).used = true ∧ (((one 1).op 0 0).input 0).length < 4 ∧ 4 ≤ ((crowd.op 0 0).input 0).length ∧
      ((one 1).op 0 4).used = false) ∧
    (straysTo (one 0) 0 (dataTok 0 0 9).hdr = none ∧ (straysTo (one 0) 0 (dataTok 0 1 0).hdr).isSome = true ∧
      lagoonRoom (one 0) 1 0 = true) ∧
    (hwContext ((hwq 0).isle 0) 0 = some 1 ∧ hwContext ((one 0).isle 0) 0 = none ∧ hwFull (hwq 0) 0 0 = false ∧ hwFull (hwq 1) 0 0 = true) := by decide +kernel

/-- A cell with ready tasks of two priorities that fit, that need too many frames, and that need more than the whole quota
(TaskAdmission). -/
theorem test_hyp_TaskAdmission :
    let s (e : Word32) (l : List Ready) (n : Nat) := ((busy [] none).updIsle 0 (fun i => { i with freeList := [5] })).updTile 0 (fun t => { t with
      classes := [(0, e), (1, e ||| 0xC00000)],
      cell := { t.cell with ready := l, latch := List.replicate n ⟨dataTok 0 0 0, true⟩ } })
    let r (c : Nat) : Ready := ⟨c, (dataTok 0 0 0).hdr, Lanes.zero, Lanes.zero, none, 0⟩
    let two := s 0x21102002 [r 0, r 1] 6
    let e0 : Word32 := 0x21102002
    let low : State := { two with mgmt := { two.mgmt with ctxtab := 0x26000 } }
    let idle (s : State) := (s.tile 0).base.isSome && !(s.tile 0).frozen && (s.cell 0).task.isNone && !ringHolds s 0 [0, 6] &&
      !(s.die (tileDie 0)).fenced && !s.inReset (tileIsle 0)
    let ok (s : State) (e : Word32) := !(s.isle 0).saved && decide (bits e 27 24 ≤ (s.isle 0).freeAvail.length) &&
      decide (ctxFrames s 0 1 + bits e 27 24 ≤ quotaFrames s 1) && decide ((s.tile 0).eng.queue.length ≤ 12) && decide ((s.cell 0).latch.length + bits e 31 28 ≤ 8)
    let pair := (busy [] none).updIsle 0 (fun i => { i with
      frames := [(511, ⟨.live, 1, 0, [(0, some (dataTok 0 0 0)), (1, some (dataTok 1 0 0))]⟩)] })
    idle two = true ∧ idle (two.updTile 0 (fun t => { t with frozen := true })) = false ∧ ok two e0 = true ∧
    ok (s 0x21102002 [r 0] 7) e0 = false ∧ (bits e0 27 24 = 1 ∧ bits e0 23 22 = 0 ∧ bits (e0 ||| 0xC00000) 23 22 = 3) ∧
    (quotaFrames low 1 < 1 ∧ ¬ quotaFrames two 1 < 1) ∧
    (((pair.isle 0).frames.get Frame.reset 511).slot 0 = some (dataTok 0 0 0) ∧
      ((pair.isle 0).frames.get Frame.reset 511).slot 1 = some (dataTok 1 0 0)) := by decide +kernel

/-- A latch whose oldest token may leave and may not, a page with captured tokens, with a lagoon and with neither, and a sender
that has stalled for too long (LatchLagoonAndSpill). -/
theorem test_hyp_LatchLagoonAndSpill :
    let s := flown [] (job.entry 0)
    let tok := dataTok 1 0 0
    let steer (s : State) := s.updTile 0 (fun t => { t with ops := [(0, { Op.reset with used := true })] })
    let latched (b : Bool) := s.updTile 0 (fun t => { t with cell := { t.cell with latch := [⟨tok, b⟩] } })
    let held := (steer s).updTile 0 (fun t => { t with captured := [tok] })
    let stuck := held.updTile 0 (fun t => { t with frozen := true })
    let lag : State := { steer s with lagoons := [((1, 3, 0), [tok])] }
    let f := fly (dataTok 0 0 0) none false false
    let full := flown [f] { job.entry 0 with res := false }
    let full : State := { full.updDie 0 (fun d => { d with spSize := 0 }) with stalls := [(f.port, 7)], mgmt := { full.mgmt with spto := 7 } }
    (((latched true).cell 0).latch = [⟨tok, true⟩] ∧ ((latched false).cell 0).latch = [⟨tok, false⟩] ∧ (s.cell 0).latch = []) ∧
    (s.pages[0]? = some page ∧ page.st = .resident ∧ PageState.absent ≠ .resident ∧ (s.findJob 1 3).isSome = true) ∧
    (0 ∈ pageTileList page ∧ (held.tile 0).captured ≠ [] ∧ (captureOut held page).isSome = true ∧ (captureOut stuck page).isNone = true) ∧
    (s.lagoon 1 3 0 = [] ∧ lag.lagoon 1 3 0 = [tok] ∧ (deliverTile (lag.setLagoon 1 3 0 []) 0 tok).isSome = true ∧
      (deliverTile (stuck.setLagoon 1 3 0 []) 0 tok).isNone = true) ∧
    (hCtx f.tok.hdr = 1 ∧ (stallJob full f).isSome = true ∧ full.mgmt.spto.toNat ≤ 7 ∧ ¬ (full.mgmt.spto.toNat ≤ 6)) := by decide +kernel

/-! ### Containment, banks, reset, power, the host and the lease clock -/

/-- `busy` whose trap ring holds record `x` in slot 63, with tile 0 as changed by `f`. -/
def recorded (x : TrapRec) (f : Tile → Tile) : State :=
  ((busy [] none).updTile 0 f).updIsle 0 (fun i => { i with ring := [(63, x)], trHead := 63, trTail := 64 })

/-- A record of an agent of tile 0. -/
def recOf (agent : Nat) : TrapRec := { TrapRec.zero with ctx := 1, job := 3, agent := agent, tile := 0, opid := 1 }

/-- Records of every agent that hold something and that do not, that have been acted on, and of a final job (RecordActions). -/
theorem test_hyp_RecordActions :
    let s (a : Nat) := recorded (recOf a) id
    let x (s : State) := (s.isle 0).ringAt 63
    let final (s : State) := (s.findJob 1 3).isNone && s.jobs.any (fun j => j.ctx == 1 && j.num == 3)
    let live (s : State) := decide ((63 + 64 - (s.isle 0).trHead % 64) % 64 < (s.isle 0).ringCount) && !(x s).acted && !final s
    let done := recorded { recOf 1 with acted := true } id
    let finished : State := { s 1 with jobs := [{ job with st := .complete }] }
    let op : State := recorded { recOf 2 with slot := 0 } (fun t => { t with ops := [(0, { Op.reset with used := true, record := some 63 })] })
    let copy : CopyOp := ⟨1, .copy, 1, 3, Desc.none, Desc.none, 0, false, some 5, none, false, 0, 0, 0, [], some 63, none⟩
    let three := (s 3).updIsle 0 (fun i => { i with ops := [copy] })
    let four := recorded (recOf 4) (fun t => { t with slots := [(0, { Slot.reset with record := some 63, st := .faulted })] })
    let q := { task with held := some 63 }
    let seven := recorded (recOf 7) (fun t => { t with cell := { t.cell with task := some q } })
    let away := (s 6).updTile 0 (fun t => { t with base := none })
    (live (s 1) = true ∧ live done = false ∧ live finished = false ∧ (x (s 1)).agent = 1) ∧
    (live (s 0) = true ∧ tileOf (s 6) (x (s 6)) = true ∧ tileOf away (x away) = false) ∧
    ((s 2).op 0 0).record ≠ some 63 ∧ ((op.op 0 0).record = some 63 ∧ (op.op 0 0).rins = [] ∧ (x op).slot ≠ slotMEMORY) ∧
    (three.isle 0).ops.find? (fun o => o.id == (x three).opid && o.record == some 63) = some copy ∧
    (((four.tile 0).slot 0).record = some 63 ∧ (((s 4).tile 0).slot 0).record ≠ some 63) ∧
    ((seven.cell 0).task = some q ∧ q.held = some 63 ∧ ((s 7).cell 0).task = none) ∧ (pageOf (s 6) 0) = some page := by decide +kernel

/-- Values of HEAD at TAIL and past it, and a page that drains and one that does not (RingAndSoftErrors). -/
theorem test_hyp_RingAndSoftErrors :
    let s := recorded (recOf 1) id
    let n (w : Word64) := (bits w 6 0 + 128 - (s.isle 0).trHead) % 128
    let drains (s : State) := (s.page 1 3 0).map (fun p => p.st == .draining)
    (n 63 = 0 ∧ n 64 ≤ (s.isle 0).ringCount ∧ (s.isle 0).ringCount < n 65) ∧ drains s = some false ∧
      drains (s.updPage 1 3 0 (fun p => { p with st := .draining })) = some true := by decide +kernel

/-- A bank in its mode and in a switch, with a declared buffer, ready to commit and not (BankSwitches). -/
theorem test_hyp_BankSwitches :
    let s (b : Bank) := (busy [] none).updIsle 0 (fun i => i.setBank 255 b)
    let idle : Bank := ⟨.cache, 0, 0, .cache, false, false⟩
    let scr : Bank := ⟨.scratch, 1, 0, .scratch, false, false⟩
    let going : Bank := ⟨.cache, 0, 1, .scratch, true, false⟩
    let declared := (s scr).updIsle 0 (fun i => { i with dir := [⟨2 ^ 17 * 255, 256, 0, false, false⟩] })
    let same (b : Bank) (w : BitVec 32) := bankModeOf (bits w 3 2) == b.mode &&
      (!(bankModeOf (bits w 3 2) == .scratch || bankModeOf (bits w 3 2) == .fifo) || bits w 15 8 == b.ctx)
    let pin : L2Line := ⟨true, List.replicate 64 0, 0, 0, 0, 1, 255⟩
    let used := (s going).updIsle 0 (fun i => { i with l2 := [(5, pin)] })
    (same idle 0 = true ∧ same idle 4 = false ∧ same scr 0x104 = true ∧ same scr 0x204 = false) ∧
    ((declared.isle 0).overlaps (2 ^ 17 * 255) (2 ^ 17) = true ∧ (declared.isle 0).bank 255 = scr ∧
      ((s scr).isle 0).overlaps (2 ^ 17 * 255) (2 ^ 17) = false) ∧
    (((s going).isle 0).bank 255 = going ∧ bankReady (s going) 0 255 = true ∧ bankReady used 0 255 = false ∧
      ((used.isle 0).bank 255).busy = true ∧ (5, pin) ∈ (used.isle 0).l2 ∧ pin.bank = 255 ∧ pin.pins ≠ 0) := by decide +kernel

/-- Dies that are present and absent, and addresses below the device window (DeviceRegisters). -/
theorem test_hyp_DeviceRegisters :
    let s := busy [] none
    s.present (isleDie 0) = true ∧ s.present (isleDie 15) = true ∧ 0 % 16 = 0 ∧ s.present 0 = true ∧ s.present 3 = false ∧
      Config.window - 1 < Config.window := by decide +kernel

/-- Isles that are held in reset and released, attestation that is busy and idle, with a buffer that faults and one whose nonce can be read
and whose report and status can be written (ResetAndAttestation). -/
theorem test_hyp_ResetAndAttestation :
    let s := mapped []
    let held : State := { s with mgmt := { s.mgmt with islerst := 2 ^ 15 } }
    let busyAt (a : Word64) : State := { s with
      mgmt := { s.mgmt with attBusy := true, attAddr := a }, mem := s.mem ++ words [(0x26000, 0)], ctxs := s.ctxs.put 0 ⟨.opened, 0, []⟩ }
    let rq (s : State) := engReq s .security .data 0
    let bad : State := { busyAt 0x50000 with memUe := [0x40050000] }
    (s.present (isleDie 15) = true ∧ s.present (isleDie 63) = false) ∧ bit held.mgmt.islerst 15 = true ∧ bit s.mgmt.islerst 0 = false ∧
    s.mgmt.attBusy = false ∧ (busyAt 0x50000).mgmt.attBusy = true ∧
    errIs (buildReport bad (rq bad) 0x50000) (fun _ => true) = true ∧
    okIs (writeVa bad (rq bad) 0x50020 (bytesOf 2 8) 2) (fun _ => true) = true ∧
    okIs (readVa (busyAt 0x50000) (rq (busyAt 0x50000)) 0x50000 32 2) (fun x =>
      okIs (writeVa x.2 (rq (busyAt 0x50000)) 0x50028 (List.replicate 8 1) 1) (fun u =>
        okIs (writeVa u (rq (busyAt 0x50000)) 0x50020 (bytesOf 1 8) 2) (fun _ => true))) = true := by decide +kernel

/-- A die whose clock is stretched for long enough and not, host addresses that stage 2 maps and does not, and that are not aligned (PowerAndHost). -/
theorem test_hyp_PowerAndHost :
    let s := mapped []
    let slow := s.updDie 0 (fun v => { v with supply := ⟨true, 7⟩, sfreq := 127 })
    let early := s.updDie 0 (fun v => { v with supply := ⟨true, 7⟩, sfreq := 126 })
    let ran (s : State) := ((s.die 0).sfreq - (s.die 0).supply.since).toNat
    (s.present 0 = true ∧ s.present 3 = false ∧ (slow.die 0).supply.stretched = true ∧ (s.die 0).supply.stretched = false ∧
      ran slow = 120 ∧ ran early = 119) ∧
    (0x3004 % 8 ≠ 0 ∧ 0x3000 % 8 = 0 ∧ 0x3000 < Config.window ∧ (15 : Nat) < 16 ∧ 0x3001 % hostBytes (.amo 0 0) ≠ 0 ∧
      0x3001 % hostBytes (.load 0) = 0) ∧
    (∀ a ∈ [Access.load, .store, .atomic], okIs (stage2 s 4 0 0x3000 a) (fun _ => true) = true ∧
      errIs (stage2 s 4 0 (2 ^ 40) a) (fun _ => true) = true) := by
  decide +kernel

/-- A core with a COH line that it may hit and with one that it may not, a time at 2^47 and one below, and a rebase (LeaseClock). -/
theorem test_hyp_LeaseClock :
    let s (n t : Nat) := ({ busy [] none with hits := List.replicate n (.core 0, 63) } : State).setPts (.core 0) t
    let hit (s : State) := s.hits.any (fun e => e.1 == .core 0)
    let due (s : State) := decide (2 ^ 47 ≤ s.pts (.core 0)) || s.times.any (fun e => decide (2 ^ 47 ≤ e.2.2))
    hit (s 1 7) = true ∧ hit (s 0 7) = false ∧ ((s 1 5).pts (.core 0) + 1 < 2 ^ 47 ∧
      2 ^ 47 ≤ (s 1 (2 ^ 47 - 1)).pts (.core 0) + 1 ∧ 2 ^ 48 ≤ (s 1 (2 ^ 48 - 1)).pts (.core 0) + 1) ∧ due (s 0 (2 ^ 47)) = true ∧ due (s 0 (2 ^ 47 - 1)) = false ∧
    (s 0 0).rollover = false ∧ ({ s 0 0 with rollover := true } : State).rollover = true := by decide +kernel

/-! ### Further hypotheses: contexts, tokens under way, records -/

/-- CTXCMD that is idle and one that is BUSY with a CLOSE, and a sliced-out context to open (ContextCommands, TenantSwitches). -/
theorem test_hyp_HeldContexts :
    let s := busy [] none
    let held : State := { s with mgmt := { s.mgmt with ctxcmd := 0x80000201 } }
    let out : State := { s with ctxs := s.ctxs.put 1 ⟨.slicedOut, 0, []⟩ }
    bit s.mgmt.ctxcmd 31 = false ∧ (bit held.mgmt.ctxcmd 31 = true ∧ bits held.mgmt.ctxcmd 9 8 = 2) ∧
      (out.ctx 1).st = .slicedOut := by decide +kernel

/-- A SAVE step of a context that a fence has taken, whose DONE counts for nothing (TenantSwitches). -/
theorem test_hyp_FencedSaves :
    let b := busy [] none
    let s : State := { b.updIsle 0 (fun i => { i with tsw := BitVec.ofNat 64 (4 + 16) }) with
      ctxs := b.ctxs.put 1 ⟨.fenced, 0, []⟩, tslot := some ⟨0, 7, [0], []⟩, micros := 1000, mgmt := { b.mgmt with wdto := 1 } }
    (s.ctx 1).st ≠ .opened ∧ (s.ctx 1).st ≠ .active ∧ (s.ctx 1).st ≠ .slicedOut ∧ bits (s.isle 0).tsw 3 2 = 1 ∧
      bits (s.isle 0).tsw 11 4 = 1 := by decide +kernel

/-- Areas with a reserved bit in word 0x38 and without, of pinned lines, whose address of the root word cannot be read, and whose pages
do not translate (ContextSaveAndLoad). -/
theorem test_hyp_ContextSaveAndLoad_faults :
    let zero : List Byte := List.replicate 0x740 0
    let bad := zero.take 0x38 ++ bytesOf 2 8 ++ zero.drop 0x40
    let i := (areaState []).isle 0
    let pin : L2Line := ⟨true, List.replicate 64 0, 0, 0, 0, 1, 255⟩
    let s := areaState [(0x60000, 1), (0x60018, 0x9001)]
    let rq1 : Req := { coreReq s 0 .data with root := 1, ctx := 1, tenant := 0, direct := false }
    areaClean zero 0 = true ∧ areaClean bad 0 = false ∧ bankPinned { i with l2 := [(5, pin)] } 255 = true ∧ bankPinned i 255 = false ∧
      errIs (readVa { areaState [] with memUe := [0x40060018] } (coreReq (areaState []) 0 .data) 0x60018 8 2) (fun _ => true) = true ∧
      errIs (areaCheck rq1 .load (areaPages 0x60000 0x740) s) (fun _ => true) = true := by
  intros
  and_intros <;> decide +kernel

/-- A token whose TYPE is reserved, at a tile and at a hardware queue (TokenDelivery), an engine with twelve and thirteen commands (TaskAdmission),
and a latch without credit (LatchLagoonAndSpill). -/
theorem test_hyp_TokensAndEngines :
    let tok : Token := ⟨(dataTok 0 0 0).hdr ||| BitVec.ofNat 64 (14 * 2 ^ 52), Lanes.zero⟩
    let e (n : Nat) := (busy [] none).updTile 0 (fun t => { t with eng := { t.eng with queue := List.replicate n (.mzero 0) } })
    let s : State := { flown [] (job.entry 0) with stuck := [.cell 0] }
    tokenReserved tok = false ∧ hKind tok.hdr = kDATA ∧ 14 ≤ (hType tok.hdr).toNat ∧ tokenFault tok = some .formatUnsupported ∧
      tileKind 0 = .m ∧ ((e 12).tile 0).eng.queue.length ≤ 12 ∧ 12 < ((e 13).tile 0).eng.queue.length ∧
      PortId.cell 0 ∈ s.stuck ∧ PortId.cell 0 ∉ (flown [] (job.entry 0)).stuck := by decide +kernel

/-- Records of an ended agent, of a prefetch, of MEMORY and REDUCE, of a slot that a queued step names, of a binding, and of a record
that no tile or page stands behind (RecordActions). -/
theorem test_hyp_RecordAgents :
    let op (c : Nat) (a : Bool) (r : List Nat) : State := recorded { recOf 2 with slot := c, code := causeCode .routeInvalid } (fun t => { t with
      ops := [(c, { Op.reset with used := true, record := some 63, added := a, rins := r })] })
    let p : Prefetch := ⟨1, 1, Desc.none, 0, none, false, 0, 0, some 63⟩
    let three := (recorded (recOf 3) id).updIsle 0 (fun i => { i with prefetches := [{ p with id := 2 }, p] })
    let four := recorded (recOf 4) (fun t => { t with slots := [(0, { Slot.reset with record := some 63, st := .faulted, queued := 1 })] })
    let b : Binding := ⟨.fabric, 0, some 63, 1, 3, none, 0, true, 0, none, false, some 63, false, 0⟩
    let five := (recorded { recOf 5 with tile := 8192 } id).updPort 0 (fun q => { q with binding := some b })
    let x (s : State) := (s.isle 0).ringAt 63
    let away := (recorded (recOf 6) id).updTile 0 (fun t => { t with base := none })
    (x (recorded { recOf 1 with dead := true } id)).dead = true ∧
      (((op slotMEMORY false []).op 0 slotMEMORY).record = some 63 ∧ ((op slotREDUCE true [0]).op 0 slotREDUCE).added = true ∧
        ((op slotREDUCE false []).op 0 slotREDUCE).added = false ∧ ((op slotREDUCE false []).op 0 slotREDUCE).rins = [] ∧
        (x (op slotREDUCE false [])).code = causeCode .routeInvalid) ∧
      ((three.isle 0).ops.find? (fun o => o.id == 1 && o.record == some 63) = none ∧ (three.isle 0).prefetches[1]? = some p ∧
        p.id = (x three).opid ∧ p.record = some 63 ∧ (three.isle 0).prefetches[0]? ≠ some p) ∧
      ((four.tile 0).slot 0).queued ≠ 0 ∧ (boundAt five 63 (x five) = some 0 ∧ boundAt (recorded (recOf 5) id) 63 (recOf 5) = none) ∧
      (tileOf away (x away) = false ∧ ((away.findJob 1 3).bind (fun j => (curGang j).bind (fun g => (gangPages away j g)[0]?))).bind
        (away.page 1 3) = some page) := by decide +kernel

/-! ### Worked examples of the manual -/

/-- A core after reset with these g registers, a word at its pc (R79), and its step. -/
def stepped (n w : Nat) (l : List (BitVec 5 × Word64)) : Host.Outcome State Fault Refusal :=
  step ((l.foldl (fun s x => gSet s 0 x.1 x.2) State.reset).withFetchWord n w)

/-- Chapter 3, worked encodings: ADD g3, g4, g5 executes and pc advances 4; SUB g9, g9, g10 in its short form advances 2. -/
theorem test_step_add_sub :
    let at' := (State.reset.withFetchWord 32 0).core 0
    nextIs (stepped 32 0x82321400 [(4, 7), (5, -9)]) (fun s => gGet s 0 3 == -2 && (s.core 0).pc == at'.pc + 4) = true ∧
    nextIs (stepped 16 0x1129 [(9, 3), (10, 5)]) (fun s => gGet s 0 9 == -2 && (s.core 0).pc == at'.pc + 2) = true := by decide +kernel

/-- Chapter 3, worked encodings: ADD with RC = 1 raises RESERVED_FIELD, and class 0x0 raises ILLEGAL_ENC; the core has saved its pc. -/
theorem test_step_refused_encodings :
    let at' := (State.reset.withFetchWord 32 0).core 0
    nextIs (stepped 32 0x82321420 []) (fun s => (s.core 0).mcause.toNat % 64 == (causeCode .reservedField).toNat && (s.core 0).mepc == at'.pc) = true ∧
    nextIs (stepped 16 0 []) (fun s => (s.core 0).mcause.toNat % 64 == (causeCode .illegalEnc).toNat && (s.core 0).mepc == at'.pc) = true := by
  decide +kernel

/-- Chapter 3, worked encodings: behind EXT 24, ADDI g2, g1, 0x6A0 adds 100,000; LIH g0 is discarded; a short SUB raises
PREFIX_ORPHAN. -/
theorem test_prefixed_units :
    let s := (onCore .user [(1, 5), (9, 1), (10, 1)]).updCore 0 (fun c => { c with pfx := some 24 })
    nextIs (exec (decode32 0x862086A0) s) (fun t => gGet t 0 2 == 100005 && (t.core 0).pfx == none) = true ∧
    nextIs (exec (decode32 0x8C000005) s) (fun t => gGet t 0 0 == 0 && (t.core 0).pfx == none && (t.core 0).mode == .user) = true ∧
    nextIs (exec (decode16 0x1129) s) (fun t => (t.core 0).cause.toNat % 64 == (causeCode .prefixOrphan).toNat && gGet t 0 9 == 1) = true := by
  decide +kernel

/-- Chapter 5: DIV g3, g4, g5 by zero in User mode at 0x10000, and the ERET of its handler. -/
theorem test_div_zero_trap :
    let s := (onCore .user [(3, 1), (4, 7), (5, 0)]).updCore 0 (fun c => { c with pc := 0x10000, status := 1, tvec := 0x400000 })
    nextIs (exec (.div 3 4 5 0) s) (fun t => (t.core 0).pc == 0x400000 && (t.core 0).mode == .supervisor && !bit (t.core 0).status 0 &&
      bit (t.core 0).status 4 && (t.core 0).epc == 0x10000 && (t.core 0).cause == 0x0A && (t.core 0).tval == 7 && gGet t 0 3 == 1 &&
      nextIs (exec (.eret 0 0) (t.updCore 0 (fun c => { c with epc := 0x10004 }))) (fun u => (u.core 0).pc == 0x10004 &&
        (u.core 0).mode == .user && bit (u.core 0).status 0 && bit (u.core 0).status 4)) = true := by decide +kernel

/-- Chapter 6, worked routine: the lanes of t0 after VADD.F32 t0, i0, i1 and after VMAX.F32 t0, t0, t1 with t1 zero; vf.NV from lane 3. -/
theorem test_worked_routine :
    let i0 : Lanes := ⟨0x3FC00000, 0xC0000000, 0x7FC00001, 0x7F800000, 0x80000000, 0x40400000, 0x3E800000, 0xC1000000⟩
    let i1 : Lanes := ⟨0x3F000000, 0x3F800000, 0x3F800000, 0xFF800000, 0, 0xC0400000, 0x3E800000, 0x40800000⟩
    let sum : Lanes := ⟨0x40000000, 0xBF800000, 0x7FC00001, 0x7FC00000, 0, 0, 0x3F000000, 0xC0800000⟩
    let t0 (s : State) := ((s.cell 0).task.bind (fun q => q.t[0]))
    nextIs (exec (decode32 0xAC0424C0) (onCell { task with hdr := 0, i0 := i0, i1 := i1 })) (fun s => t0 s == some sum && (s.cell 0).vf != 0) = true ∧
    nextIs (exec (decode32 0xAC0004C5) (onCell { task with t := (task.t.set 0 (some sum)).set 1 (some Lanes.zero) })) (fun s =>
      t0 s == some ⟨0x40000000, 0, 0, 0, 0, 0, 0x3F000000, 0⟩ && (s.cell 0).vf == 0) = true := by decide +kernel

/-- R42: the worked conversion to B5. -/
theorem test_block_conversion :
    let r := toBlock 4 [0x40400000, 0xBF400000, 0x3ED00000, 0x3DCCCCCD, 0x3FF80000, 0, 0xC0200000, 0x3F000000, 0x3E800000, 0x3E000000,
      0x3E4CCCCD, 0x3E99999A, 0xBF800000, 0x3F800000, 0x3D800000, 0x3D000000]
    r.word = 0x8070 ∧ r.codes = [0x0C, 0x13, 0x02, 0x00, 0x08, 0x00, 0x1A, 0x02, 0x08, 0x04, 0x06, 0x0A, 0x18, 0x08, 0x00, 0x00] := by
  decide +kernel

/-- R46: the worked promotion window of two B5 blocks, which is inexact. -/
theorem test_promotion_window :
    let pad (l : List Nat) := l ++ List.replicate (16 - l.length) 0
    let x : Block := ⟨12, 12, [(0x8000, pad [12, 0x13])], [(0x7F00, pad [5, 7])]⟩
    let y : Block := ⟨12, 12, [(0x7801, pad [9])], [(0x7700, pad [11])]⟩
    let r := windowBlock [x, y] 0 0 0
    r.val = 0x3F9C00C8 ∧ r.inx = true := by decide +kernel

/-- R265: SNORM of a word whose quad shifts are all 3, and of one with a quad shift of 0. -/
theorem test_snorm : normWord 0x7DFF = (0x7A00, false) ∧ normWord 0x8036 = (0x8036, false) := by decide

/-- R193: the worked stage-2 address on three present dies. -/
theorem test_stage2_compaction :
    let entry (j : Nat) := if j % 3 = 2 then 3 else j % 3
    let s := State.reset.updDie 0 (fun d => { d with
      dsel := (List.range 8).map (fun k => (k, BitVec.ofNat 64 ((List.range 8).foldl (fun a b => a + entry (8 * k + b) * 256 ^ b) 0))) })
    homeDie s 0 0x45ABC = 1 ∧ dselCount s 0 1 = 21 ∧ compact s 0 1 0x1000000000 0 0x45ABC = 0x1000016ABC := by decide +kernel

/-- R404, worked cases: SKIP 0b10 puts page columns at 0, 2, 3 and 4, and DX as assembled becomes DX as installed. -/
theorem test_placed_routes :
    let dx (x : Nat) (d : Int) := sextInt (bits (physRoute 2 x (BitVec.ofNat 32 ((d % 64).toNat * 2 ^ 17))) 22 17) 6
    (List.range 4).map (physCol 2) = [0, 2, 3, 4] ∧ dx 0 2 = 3 ∧ dx 1 (-1) = -2 ∧ dx 3 (-2) = -2 ∧ dx 2 1 = 1 := by decide +kernel

/-- Chapter 16, first run: step 3 takes an arrival, step 5 is early, step 6 ahead and step 8 one too many; the wait of step 10
passes. -/
theorem test_barrier_run :
    let q : Task := { task with
      t := #v[some ⟨0x80, 0, 0, 0, 0, 0, 0, 0⟩, some ⟨0, 0, 0, 0, 0, 0, 0, 0⟩, some ⟨1, 0, 0, 0, 0, 0, 0, 0⟩, some ⟨2, 0, 0, 0, 0, 0, 0, 0⟩,
        none, none, none, none] }
    let s (w : Nat) := withBar w 1 (onCell q)
    let word (t : State) := numOf ((t.isle 0).spmRead 0x80 16)
    let d (t : State) := (((t.cell 0).task.bind (fun q => q.t[4])).map (·.l0)).getD 99
    let code (t : State) := ((t.isle 0).ringAt 0).code
    nextIs (exec (.barr 4 0 1 0) (s (barWord 0 2 3 2 0 0))) (fun t => word t == barWord 0 1 3 2 0 0 && d t == 0) = true ∧
    nextIs (exec (.barr 4 0 2 0) (s (barWord 0 0 3 2 0 0))) (fun t => word t == barWord 0 0 3 2 1 0 && d t == 0x40) = true ∧
    nextIs (exec (.barr 4 0 3 0) (s (barWord 0 0 3 2 1 0))) (fun t => word t == barWord 0 0 3 2 1 0 && (t.cell 0).task.isNone &&
      code t == causeCode .barrierAhead) = true ∧
    nextIs (exec (.barr 4 0 1 0) (s (barWord 0 0 1 2 1 0))) (fun t => (t.cell 0).task.isNone && code t == causeCode .barrierOverarrive) = true ∧
    nextIs (exec (.bwait 3 5 6 0) (withBar (barWord 1 1 0 2 0 0) 0 (onCore .user [(5, 0x80), (6, 0)]))) (fun t => gGet t 0 3 == 0x21) = true := by
  decide +kernel

/-- Chapter 16, second run: EWL and LAGGING of the member after each of the eight completions. -/
theorem test_lag_tracking :
    let w0 := 8 * 2 ^ 48 + 3 * 2 ^ 40 + 2 ^ 32
    let run := [24, 24, 24, 0, 0, 0, 0, 0].foldl (fun (b : Nat × List (Nat × Nat)) (lag : Nat) =>
      let w := (lagStep w0 (withField (withField b.1 23 0 (256 * lag)) 49 49 1) 0 0).1
      (w, b.2 ++ [(fieldOf w 39 24, fieldOf w 48 48)])) (0, [])
    run.2 = [(12, 0), (18, 0), (21, 1), (10, 1), (5, 1), (2, 1), (1, 1), (0, 0)] := by decide +kernel

end Sys2Proof.Tests
end

namespace Sys2Proof.Proofs.Ledger
open Sys2Proof Sys2Proof.Machine Sys2Proof.Laws

/-! The frame of every access to memory and of every clean-up of the fabric: the ledger of a state. -/

/-! ### What memory accesses and clean-up leave alone -/

/-- What is left of a state without its memories, the isles, tiles and dies, and the logical times: its jobs, pages, kernels,
contexts, circuits, tokens under way and registers. No access of an agent changes any of it. -/
def ledger (s : State) : State :=
  { s with
    mem := [], memUe := [], poison := [], times := [], isles := [], tiles := [], dies := [], hostPts := [], schedPts := 0,
    secPts := 0, rollover := false, hits := [], held := false }

/-- States with one ledger have the same jobs. -/
theorem jobs_of_ledger {s u : State} (h : ledger u = ledger s) : u.jobs = s.jobs := (congrArg State.jobs h :)

/-- States with one ledger have the same circuits. -/
theorem circuits_of_ledger {s u : State} (h : ledger u = ledger s) : u.circuits = s.circuits :=
  (congrArg State.circuits h :)

@[simp] theorem ledger_updIsle (s : State) (k : Nat) (f : Isle → Isle) : ledger (s.updIsle k f) = ledger s := rfl
@[simp] theorem ledger_updCore (s : State) (k : Nat) (f : Core → Core) : ledger (s.updCore k f) = ledger s := rfl
@[simp] theorem ledger_setTile (s : State) (t : Nat) (v : Tile) : ledger (s.setTile t v) = ledger s := rfl
@[simp] theorem ledger_updTile (s : State) (t : Nat) (f : Tile → Tile) : ledger (s.updTile t f) = ledger s := rfl
@[simp] theorem ledger_setCell (s : State) (t : Nat) (v : Cell) : ledger (s.setCell t v) = ledger s := rfl
@[simp] theorem ledger_updDie (s : State) (d : Nat) (f : Die → Die) : ledger (s.updDie d f) = ledger s := rfl
@[simp] theorem ledger_setMem (s : State) (m : Tbl Byte) : ledger { s with mem := m } = ledger s := rfl

@[simp] theorem ledger_setTimes (s : State) (m : Tbl (Nat × Nat)) : ledger { s with times := m } = ledger s := rfl
@[simp] theorem ledger_setHeld (s : State) (b : Bool) : ledger { s with held := b } = ledger s := rfl
@[simp] theorem ledger_setRollover (s : State) (b : Bool) : ledger { s with rollover := b } = ledger s := rfl

/-- A fold of updates that each keep the ledger keeps it. -/
theorem ledger_foldl {α : Type} {f : State → α → State} (hf : ∀ s x, ledger (f s x) = ledger s) (l : List α) (s : State) :
    ledger (l.foldl f s) = ledger s := by
  induction l generalizing s with
  | nil => rfl
  | cons x r ih => exact (ih _).trans (hf s x)

/-! ### Logical times and marks -/

@[simp] theorem ledger_setPts (s : State) (g : Agent) (p : Nat) : ledger (s.setPts g p) = ledger s := by
  cases g <;> rfl

@[simp] theorem ledger_noteTime (s : State) (t : Nat) : ledger (noteTime s t) = ledger s := by
  unfold noteTime; split <;> rfl

@[simp] theorem ledger_holdTime (s : State) (t : Nat) : ledger (holdTime s t) = ledger s := by
  unfold holdTime; split <;> simp

@[simp] theorem ledger_holdAccess (s : State) (d h : Nat) : ledger (holdAccess s d h) = ledger s := by
  unfold holdAccess; split <;> rfl

@[simp] theorem ledger_countHit (s : State) (g : Agent) : ledger (countHit s g) = ledger s := rfl

@[simp] theorem ledger_clearMarks (s : State) (key n : Nat) : ledger (clearMarks s key n) = ledger s := by
  unfold clearMarks; split <;> rfl

@[simp] theorem ledger_writeHome (s : State) (key : Nat) (l : List Byte) : ledger (writeHome s key l) = ledger s := by
  simp [writeHome]

/-! ### Caches -/

@[simp] theorem ledger_fillLine (s : State) (k line : Nat) (v : L2Line) : ledger (fillLine s k line v) = ledger s := by
  unfold fillLine
  split
  · rfl
  · split <;> rfl

@[simp] theorem ledger_writeBack (s : State) (k line : Nat) : ledger (writeBack s k line) = ledger s := by
  unfold writeBack
  split
  · rfl
  · split <;> simp

@[simp] theorem ledger_cohMiss (s : State) (g : Agent) (key n : Nat) : ledger (cohMiss s g key n).2 = ledger s := by
  simp only [cohMiss, ledger_setPts, ledger_holdTime]
  split <;> simp

@[simp] theorem ledger_cohLoad (s : State) (g : Agent) (key n : Nat) : ledger (cohLoad s g key n).2 = ledger s := by
  unfold cohLoad; split <;> simp

@[simp] theorem ledger_cohStore (s : State) (g : Agent) (key : Nat) (l : List Byte) :
    ledger (cohStore s g key l) = ledger s := by
  simp only [cohStore, ledger_setPts, ledger_holdTime]
  have h := ledger_writeHome s key l
  split
  · split
    · split <;> exact h
    · exact h
  · exact h

/-- A copy of a line that goes home and is dropped changes no ledger. -/
theorem ledger_writeBack_drop (s : State) (j line : Nat) (p : Prop) [Decidable p] :
    ledger (if p then s else (writeBack s j line).updIsle j (fun i => i.dropLine line)) = ledger s := by
  split <;> simp

@[simp] theorem ledger_locStore (s : State) (k key : Nat) (l : List Byte) : ledger (locStore s k key l) = ledger s := by
  simp only [locStore]
  split
  · have h := ledger_foldl (fun s j => ledger_writeBack_drop s j (lineOf key) (j = k ∨ ((s.isle j).line (lineOf key)).isNone))
      (dieIsles (isleDie k)) s
    split <;> simpa using h
  · simp

@[simp] theorem ledger_flushForAtomic (s : State) (k line : Nat) : ledger (flushForAtomic s k line) = ledger s := by
  unfold flushForAtomic
  split
  · exact ledger_foldl (fun s j => ledger_writeBack_drop s j line _) _ s
  · rfl

@[simp] theorem ledger_storeLoc (s : State) (g : Agent) (l : Loc) (b : List Byte) :
    ledger (storeLoc s g l b) = ledger s := by
  unfold storeLoc; split <;> simp

@[simp] theorem ledger_homeStore (s : State) (g : Agent) (l : Loc) (b : List Byte) :
    ledger (homeStore s g l b) = ledger s := by
  unfold homeStore; split <;> simp

@[simp] theorem ledger_write (rq : Req) (s : State) (l : Loc) (b : List Byte) : ledger (rq.write s l b) = ledger s := by
  unfold Req.write; split <;> simp

/-! ### Translation -/

theorem ledger_stage2 {s u : State} {d t g key : Nat} {a : Access} (h : stage2 s d t g a = .ok (key, u)) :
    ledger u = ledger s := by
  simp only [stage2, Except.map] at h
  (repeat' split at h) <;> cases h <;> simp

theorem ledger_walkRead {s u : State} {rq : Req} {g e : Nat} (h : walkRead s rq g = .ok (e, u)) :
    ledger u = ledger s := by
  simp only [walkRead] at h
  split at h
  · cases h
  · rename_i h1
    split at h
    · cases h
    · cases h
      simpa using ledger_stage2 h1

theorem ledger_walk (rq : Req) (va fuel : Nat) : ∀ (s u : State) (level tbl : Nat) (r : Leaf × Nat),
    walk s rq va level fuel tbl = .ok (r, u) → ledger u = ledger s := by
  induction fuel with
  | zero => intro s u level tbl r h; simp [walk] at h
  | succ n ih =>
    intro s u level tbl r h
    simp only [walk] at h
    split at h
    · cases h
    · rename_i h1
      have h2 := ledger_walkRead h1
      split at h
      · cases h
      · split at h
        · cases h
        · split at h
          · split at h <;> cases h
            exact h2
          · split at h
            · cases h
            · exact (ih _ _ _ _ _ h).trans h2

theorem ledger_stage1 {s u : State} {rq : Req} {va : Word64} {l : Leaf} (h : stage1 s rq va = .ok (l, u)) :
    ledger u = ledger s := by
  simp only [stage1] at h
  split at h
  · split at h
    · cases h; rfl
    · split at h
      · cases h
      · rename_i h1
        cases h
        have h2 := ledger_walk _ _ _ _ _ _ _ _ h1
        split
        · simpa using h2
        · exact h2
  · cases h

theorem ledger_toLoc {s u : State} {rq : Req} {g : Nat} {kind : BitVec 2} {a : Access} {l : Loc}
    (h : toLoc s rq g kind a = .ok (l, u)) : ledger u = ledger s := by
  simp only [toLoc] at h
  split at h
  · split at h
    · cases h; rfl
    · cases h
  · split at h
    · cases h
    · rename_i h1; cases h; exact ledger_stage2 h1

theorem ledger_translate {s u : State} {rq : Req} {va : Word64} {a : Access} {l : Loc}
    (h : Sys2Proof.Machine.translate s rq va a = .ok (l, u)) : ledger u = ledger s := by
  simp only [Sys2Proof.Machine.translate] at h
  split at h
  next =>
    split at h
    next =>
      split at h
      next => cases h
      next =>
        split at h
        all_goals
          split at h
          · cases h
          · split at h
            · cases h
            · rename_i h1; cases h; exact ledger_toLoc h1
    next =>
      split at h
      · cases h
      · rename_i h1
        split at h
        · split at h
          · cases h
          · rename_i h2; cases h; exact (ledger_toLoc h2).trans (ledger_stage1 h1)
        · cases h
  next => cases h

/-! ### Accesses of device agents -/

theorem ledger_writeIn {s u : State} {rq : Req} {va : Nat} {b : List Byte} (h : writeIn s rq va b = .ok u) :
    ledger u = ledger s := by
  simp only [writeIn] at h
  split at h
  · cases h
  · rename_i h1
    have h2 := ledger_translate h1
    split at h <;> cases h
    · exact h2
    · exact (ledger_write _ _ _ _).trans h2

theorem ledger_writeVa (rq : Req) (fuel : Nat) : ∀ (s u : State) (va : Nat) (b : List Byte),
    writeVa s rq va b fuel = .ok u → ledger u = ledger s := by
  induction fuel with
  | zero => intro s u va b h; simp only [writeVa] at h; cases h; rfl
  | succ f ih =>
    intro s u va b h
    simp only [writeVa] at h
    split at h
    · cases h; rfl
    · split at h
      · cases h
      · rename_i h1
        exact (ih _ _ _ _ h).trans (ledger_writeIn h1)

@[simp] theorem ledger_schedWrite (s : State) (c va : Nat) (l : List Byte) : ledger (schedWrite s c va l) = ledger s := by
  unfold schedWrite
  split
  · rename_i h; exact ledger_writeVa _ _ _ _ _ _ h
  · rfl

@[simp] theorem ledger_schedAdd (s : State) (c va n : Nat) : ledger (schedAdd s c va n) = ledger s := by
  simp [schedAdd]

@[simp] theorem ledger_tableWrite (s : State) (g : Agent) (va : Nat) (l : List Byte) :
    ledger (tableWrite s g va l) = ledger s := by
  unfold tableWrite
  split
  · rename_i h; exact ledger_writeVa _ _ _ _ _ _ h
  · rfl

@[simp] theorem ledger_poke (s : State) (g v : Nat) : ledger (poke s g v) = ledger s := by
  unfold poke
  split
  · rename_i h; simpa using ledger_stage2 h
  · rfl

/-! ### Tasks, fetch slots, copies and regions -/

@[simp] theorem ledger_writeRecord (s : State) (k : Nat) (x : TrapRec) : ledger (writeRecord s k x) = ledger s := rfl

@[simp] theorem ledger_leaveTile (s : State) (t : Nat) : ledger (leaveTile s t) = ledger s := by
  unfold leaveTile; split <;> rfl

@[simp] theorem ledger_dropTask (s : State) (t : Nat) : ledger (dropTask s t) = ledger s := by
  unfold dropTask; split <;> simp

@[simp] theorem ledger_abortTask (s : State) (t : Nat) (c : Cause) (v : Word64) :
    ledger (abortTask s t c v) = ledger s := by
  unfold abortTask; split <;> simp

@[simp] theorem ledger_endTag (s : State) (k tag p : Nat) (err : Bool) : ledger (endTag s k tag p err) = ledger s := rfl

@[simp] theorem ledger_unpin (s : State) (k : Nat) (l : List Nat) : ledger (unpin s k l) = ledger s := rfl

@[simp] theorem ledger_updSlot (s : State) (t n : Nat) (f : Slot → Slot) : ledger (s.updSlot t n f) = ledger s := rfl

@[simp] theorem ledger_releaseSlot (s : State) (t n : Nat) : ledger (releaseSlot s t n) = ledger s := by
  unfold releaseSlot
  dsimp only
  split <;> split <;> simp

@[simp] theorem ledger_dropBufs (s : State) (k : Nat) (l : List Nat) : ledger (dropBufs s k l) = ledger s :=
  ledger_foldl (fun s _ => ledger_updIsle s _ _) l s

@[simp] theorem ledger_cancelOp (s : State) (k : Nat) (o : CopyOp) : ledger (cancelOp s k o) = ledger s := by
  unfold cancelOp
  dsimp only
  split <;> simp

@[simp] theorem ledger_endBinding (s : State) (d : Nat) (err : Bool) : ledger (endBinding s d err) = ledger s := by
  unfold endBinding
  split
  · rfl
  · dsimp only
    split <;> split <;> simp

@[simp] theorem ledger_cancelOnIsle (s : State) (k : Nat) (mine : Nat → Nat → Bool) :
    ledger (cancelOnIsle s k mine) = ledger s := by
  unfold cancelOnIsle
  dsimp only
  rw [ledger_foldl (fun s e => by simp), ledger_foldl (fun s o => by simp)]

@[simp] theorem ledger_cancelCopies (s : State) (mine : Nat → Nat → Bool) : ledger (cancelCopies s mine) = ledger s := by
  unfold cancelCopies
  dsimp only
  rw [ledger_foldl, ledger_foldl (fun s k => by simp)]
  intro s d
  split
  · split <;> simp
  · rfl

@[simp] theorem ledger_abortHeldOf (s : State) (t : Nat) : ledger (abortHeldOf s t) = ledger s := by
  unfold abortHeldOf; split <;> simp

@[simp] theorem ledger_emptyTile (s : State) (t c : Nat) : ledger (emptyTile s t c) = ledger s := by
  unfold emptyTile
  dsimp only
  have hs (u : State) : ledger ((List.range 8).foldl
      (fun s n => if ((s.tile t).slot n).st = .free then s else releaseSlot s t n) u) = ledger u :=
    ledger_foldl (fun s n => by split <;> simp) _ u
  have hf (l : List Nat) (u : State) : ledger (l.foldl
      (fun s f => s.updIsle (tileIsle t) (fun i => freeFrame i f)) u) = ledger u :=
    ledger_foldl (fun s _ => ledger_updIsle s _ _) l u
  split
  · split <;> simp [hs, hf]
  · simp [hs, hf]

@[simp] theorem ledger_baseSkipped (s : State) (p : Page) (on : Bool) : ledger (baseSkipped s p on) = ledger s :=
  ledger_foldl (fun s _ => ledger_updTile s _ _) _ s

@[simp] theorem ledger_freeLoads (s : State) (p : Page) : ledger (freeLoads s p) = ledger s := by
  unfold freeLoads; split <;> rfl

@[simp] theorem ledger_killRecords (s : State) (mine : Nat → Nat → Bool) : ledger (killRecords s mine) = ledger s :=
  ledger_foldl (fun s _ => ledger_updIsle s _ _) _ s

end Sys2Proof.Proofs.Ledger

namespace Sys2Proof.Proofs.Jobs
open Sys2Proof Sys2Proof.Machine Sys2Proof.Laws Sys2Proof.Proofs.Ledger

/-! A job that has ended stays ended, and the end of a job (R346, R428). -/

/-! ### Jobs that end stay ended -/

/-- From `s` to `u` the circuits stay and no job that is final, or that never was, is in progress. -/
def EndsStay (s u : State) : Prop :=
  u.circuits = s.circuits ∧ ∀ c n, s.findJob c n = none → u.findJob c n = none

theorem EndsStay.trans {s u v : State} (h : EndsStay s u) (h' : EndsStay u v) : EndsStay s v :=
  ⟨h'.1.trans h.1, fun c n hn => h'.2 c n (h.2 c n hn)⟩

/-- An update of neither jobs nor circuits. -/
theorem EndsStay.of_eq {s u : State} (hc : u.circuits = s.circuits) (hj : u.jobs = s.jobs) : EndsStay s u :=
  ⟨hc, fun c n h => by rwa [State.findJob, hj]⟩

theorem EndsStay.refl (s : State) : EndsStay s s := .of_eq rfl rfl

/-- An update of what is not in the ledger. -/
theorem EndsStay.of_ledger {s u : State} (h : ledger u = ledger s) : EndsStay s u :=
  .of_eq (circuits_of_ledger h) (jobs_of_ledger h)

/-- A fold of updates that each keep the ended jobs ended does. -/
theorem EndsStay.foldl {α : Type} {f : State → α → State} (hf : ∀ s x, EndsStay s (f s x)) (l : List α) (s : State) :
    EndsStay s (l.foldl f s) := by
  induction l generalizing s with
  | nil => exact .refl s
  | cons x r ih => exact (hf s x).trans (ih _)

/-- A job is not in progress where every job of its number is final. -/
theorem findJob_eq_none {s : State} {c n : Nat} :
    s.findJob c n = none ↔ ∀ j ∈ s.jobs, j.ctx = c → j.num = n → jobFinal j = true := by
  simp [State.findJob, List.find?_eq_none]

/-- A change of a job that keeps its name brings no job back. -/
theorem EndsStay.updJob (s : State) (c n : Nat) {f : Job → Job} (hf : ∀ j, (f j).ctx = j.ctx ∧ (f j).num = j.num) :
    EndsStay s (s.updJob c n f) := by
  refine ⟨rfl, fun c' n' h => ?_⟩
  rw [findJob_eq_none] at h ⊢
  intro j hj hc hn
  obtain ⟨x, hx, rfl⟩ := List.mem_map.1 hj
  split at hc
  next hm =>
    rw [if_pos hm] at hn
    have hfin := h x hx ((hf x).1 ▸ hc) ((hf x).2 ▸ hn)
    simp [hfin] at hm
  next hm =>
    rw [if_neg hm] at hn ⊢
    exact h x hx hc hn

/-- A job whose state becomes final is no longer in progress. -/
theorem findJob_updJob_final (s : State) (c n : Nat) {f : Job → Job} (hf : ∀ j, jobFinal (f j) = true) :
    (s.updJob c n f).findJob c n = none := by
  rw [findJob_eq_none]
  intro j hj hc hn
  obtain ⟨x, hx, rfl⟩ := List.mem_map.1 hj
  split
  · exact hf x
  next hm =>
    rw [if_neg hm] at hc hn
    simpa [hc, hn] using hm

/-! ### Journal, contexts and states of jobs -/

theorem endsStay_journal (s : State) (c q event arg pos : Nat) : EndsStay s (journal s c q event arg pos) := by
  unfold journal
  dsimp only
  split
  · exact .of_eq rfl rfl
  · exact (EndsStay.of_eq (u := { s with mgmt := { s.mgmt with jseq := s.mgmt.jseq + 1 } }) rfl rfl).trans
      (.of_ledger (by simp))

theorem endsStay_newHead (s : State) (c q : Nat) : EndsStay s (newHead s c q) := by
  unfold newHead
  split
  · exact .updJob s _ _ (fun _ => ⟨rfl, rfl⟩)
  · exact .refl s

/-- A change of a job's times, where one is due, brings no job back. -/
theorem EndsStay.updJob_if {p : Prop} [Decidable p] {s u : State} {c n : Nat} {f : Job → Job} (h : EndsStay s u)
    (hf : ∀ j, (f j).ctx = j.ctx ∧ (f j).num = j.num) : EndsStay s (if p then u.updJob c n f else u) := by
  split
  · exact h.trans (.updJob u _ _ hf)
  · exact h

theorem endsStay_jobTimes (s : State) (j : Job) (st : JobState) (head : Bool) : EndsStay s (jobTimes s j st head) := by
  unfold jobTimes
  dsimp only
  split
  · refine .trans ?_ (endsStay_newHead _ _ _)
    exact .updJob_if (.updJob_if (.refl s) fun _ => ⟨rfl, rfl⟩) fun _ => ⟨rfl, rfl⟩
  · exact .updJob_if (.updJob_if (.refl s) fun _ => ⟨rfl, rfl⟩) fun _ => ⟨rfl, rfl⟩

/-- A job's new state and cause. -/
def withState (st : JobState) (cause : BitVec 6) (j : Job) : Job := { j with st := st, cause := cause }

/-- Beside the job's new state, a change of state writes times, the journal, the job record and the completion counter
(R348). -/
theorem endsStay_setJobState_some {s : State} {c n : Nat} {j : Job} (st : JobState) (cause : BitVec 6)
    (h : s.findJob c n = some j) : EndsStay (s.updJob c n (withState st cause)) (setJobState s c n st cause) := by
  simp only [setJobState, h]
  have noted (head : Bool) (l : List Byte) : EndsStay (s.updJob c n (withState st cause)) (schedWrite
      (journal (jobTimes (s.updJob c n (withState st cause)) j st head) c j.queue 3 (jobCode st) n) c j.jrec l) :=
    (endsStay_jobTimes _ j st head).trans ((endsStay_journal _ _ _ _ _ _).trans (.of_ledger (ledger_schedWrite _ _ _ _)))
  split
  · exact (noted _ _).trans (.of_ledger (ledger_schedAdd _ _ _ _))
  · exact noted _ _

/-- A job that goes to a state brings no other back. -/
theorem endsStay_setJobState (s : State) (c n : Nat) (st : JobState) (cause : BitVec 6) :
    EndsStay s (setJobState s c n st cause) := by
  cases h : s.findJob c n with
  | none => simp only [setJobState, h]; exact .refl s
  | some j => exact (EndsStay.updJob s c n (f := withState st cause) fun _ => ⟨rfl, rfl⟩).trans (endsStay_setJobState_some st cause h)

/-- A job that goes to a final state is no longer in progress (R346). -/
theorem findJob_setJobState (s : State) (c n : Nat) {st : JobState} (cause : BitVec 6)
    (hst : ∀ j, jobFinal (withState st cause j) = true) : (setJobState s c n st cause).findJob c n = none := by
  cases h : s.findJob c n with
  | none => simp only [setJobState, h]
  | some j => exact (endsStay_setJobState_some st cause h).2 c n (findJob_updJob_final s c n hst)

theorem endsStay_refuseHeld (s : State) (c : Nat) (st : CtxState) : EndsStay s (refuseHeld s c st) := by
  unfold refuseHeld
  dsimp only
  split <;> split <;> exact .of_eq rfl rfl

theorem endsStay_setCtxState (s : State) (c : Nat) (st : CtxState) : EndsStay s (setCtxState s c st) := by
  have upd : EndsStay s (s.updCtx c (fun x => { x with st := st })) := .of_eq rfl rfl
  refine upd.trans ((endsStay_journal _ c 0 4 (ctxCode st) 0).trans ((endsStay_refuseHeld _ c st).trans ?_))
  unfold setCtxState putCtxState noteCtxState
  dsimp only
  split
  · exact .refl _
  · exact .of_ledger (ledger_poke _ _ _)

theorem endsStay_lastJob (s : State) (c : Nat) : EndsStay s (lastJob s c) := by
  unfold lastJob
  split
  · exact endsStay_setCtxState _ _ _
  · exact .refl s

/-! ### The end of a job (R346) -/

theorem endsStay_freeRegion (s : State) (p : Page) : EndsStay s (freeRegion s p) := by
  unfold freeRegion
  split
  · refine .trans (.of_ledger ?_) (.updJob _ p.ctx p.job fun _ => ⟨rfl, rfl⟩)
    exact (ledger_foldl (fun s t => ledger_emptyTile s t p.ctx) _ _).trans (ledger_baseSkipped s p false)
  · exact .refl s

/-- Before its state changes, a job that ends loses its copies, pages, lagoons, gangs and records (R346, R383). -/
def stripJob (s : State) (c n : Nat) : State :=
  let mine := fun a b => a == c && b == n
  let s1 := cancelCopies s mine
  let s2 := (s1.pages.filter (fun p => mine p.ctx p.job)).foldl (fun s p => freeLoads (freeRegion s p) p) s1
  let s3 := { s2 with
    pages := s2.pages.filter (fun p => !mine p.ctx p.job),
    lagoons := s2.lagoons.filter (fun e => !mine e.1.1 e.1.2.1) }
  killRecords (s3.updJob c n (fun j => { j with gangs := endGangs j.gangs, snap := none })) mine

theorem endsStay_stripJob (s : State) (c n : Nat) : EndsStay s (stripJob s c n) := by
  let mine := fun a b => a == c && b == n
  refine (EndsStay.of_ledger (ledger_cancelCopies s mine)).trans ?_
  refine (EndsStay.foldl (f := fun s p => freeLoads (freeRegion s p) p)
    (fun s p => (endsStay_freeRegion s p).trans (.of_ledger (ledger_freeLoads _ p)))
    ((cancelCopies s mine).pages.filter (fun p => mine p.ctx p.job)) _).trans ?_
  refine .trans ?_ (.of_ledger (ledger_killRecords _ _))
  exact .trans (.of_eq rfl rfl) (.updJob _ c n fun _ => ⟨rfl, rfl⟩)

/-- The end of a job in progress is its clean-up, then its new state. -/
theorem finishJob_some {s : State} {c n : Nat} {j : Job} (st : JobState) (cause : BitVec 6) (h : s.findJob c n = some j) :
    finishJob s c n st cause = setJobState (stripJob s c n) c n st cause := by
  simp only [finishJob, h, stripJob]

/-- A fenced job is no longer in progress, and no other job comes back (R346, R428). -/
theorem fenceJob_ends (s : State) (c n : Nat) (cause : BitVec 6) :
    EndsStay s (fenceJob s c n cause) ∧ (fenceJob s c n cause).findJob c n = none := by
  cases h : s.findJob c n with
  | none =>
    simp only [fenceJob, endJob, h]
    exact ⟨.refl s, trivial⟩
  | some j =>
    simp only [fenceJob, endJob, h, finishJob_some _ _ h]
    exact ⟨(endsStay_stripJob s c n).trans ((endsStay_setJobState _ _ _ _ _).trans (endsStay_lastJob _ _)),
      (endsStay_lastJob _ _).2 c n (findJob_setJobState _ _ _ _ fun _ => rfl)⟩

end Sys2Proof.Proofs.Jobs

namespace Sys2Proof.Proofs.Steps
open Sys2Proof Sys2Proof.Machine Sys2Proof.Claims

/-! What a step answers: under a condition, and as a unit of class C. -/

/-! ### Steps that have an effect under a condition -/

/-- A step whose condition holds has its effect. -/
theorem next_if_pos {p : Prop} [Decidable p] {s u : State} (h : p) :
    (.next (if p then u else s) : Host.Outcome State Fault Refusal) = .next u := by rw [if_pos h]

/-- A step whose condition does not hold has no effect. -/
theorem next_if_neg {p : Prop} [Decidable p] {s u : State} (h : ¬ p) :
    (.next (if p then u else s) : Host.Outcome State Fault Refusal) = .next s := by rw [if_neg h]

/-! ### A unit of class C that is ready -/

/-- A ready unit of class C without a reserved field set comes to its body (R94). -/
theorem unitC_ready {m : Mode} {len k : Nat} {s : State} {b : Nat → State → Done} (h : CoreReady m false s k) :
    unitC len false ⟨m, true, true, b⟩ s = settleCore k len (b k s) := by
  obtain ⟨ha, hm, hb⟩ := h
  rw [unitC_core ha, runCore_body ⟨hb, hm, rfl, rfl⟩]

/-- A ready unit of class C with a reserved field set raises RESERVED_FIELD (R87, R94). -/
theorem unitC_ready_reserved {m : Mode} {len k : Nat} {s : State} {f : Bool} {b : Nat → State → Done}
    (h : CoreReady m false s k) : unitC len false ⟨m, false, f, b⟩ s = raiseCore s k .reservedField 0 := by
  obtain ⟨ha, hm, hb⟩ := h
  rw [unitC_core ha, runCore_reserved hb hm rfl]

end Sys2Proof.Proofs.Steps

namespace Sys2Proof.Proofs.Link
open Sys2Proof Sys2Proof.Machine Sys2Proof.Claims Sys2Proof.Laws
  Sys2Proof.Proofs.Jobs Sys2Proof.Proofs.Steps

/-! The connection table: CONN and the events of a circuit (R406 to R413, R431). -/

/-! ### CONN (R409) -/

/-- A CONN whose operation word has a reserved bit set raises RESERVED_FIELD with that word (R409). -/
theorem connBody_reserved {d a : BitVec 5} {k : Nat} {s : State} {f : Nat → Except Stop (Nat × Circuit)}
    (h : bits (gGet s k a) 63 8 ≠ 0) :
    connBody d a k s f = .error (.trap s .reservedField (gGet s k a)) := by
  simp [connBody, check, raise, h, bind, Except.bind]

/-- A CONN whose effect raises a cause raises it. -/
theorem connBody_error {d a : BitVec 5} {k : Nat} {s : State} {f : Nat → Except Stop (Nat × Circuit)} {x : Stop}
    (h : bits (gGet s k a) 63 8 = 0) (hf : f (bits (gGet s k a) 7 2) = .error x) : connBody d a k s f = .error x := by
  simp [connBody, check, connEntry, h, hf, bind, Except.bind]

/-- A CONN that answers `r` and leaves entry `c` writes both and retires (R409). -/
theorem connBody_wrote {d a : BitVec 5} {k r : Nat} {s : State} {f : Nat → Except Stop (Nat × Circuit)} {c : Circuit}
    (h : bits (gGet s k a) 63 8 = 0) (hf : f (bits (gGet s k a) 7 2) = .ok (r, c)) :
    Host.Outcome.next (settleCore k 4 (connBody d a k s f)) =
      wrote (s.setCircuit (bits (gGet s k a) 7 2) c) k 4 d (BitVec.ofNat 64 r) := by
  simp [connBody, check, connEntry, h, hf, bind, Except.bind, fall, settleCore, wrote]

/-- What R409 asks of the specification of OPEN. -/
theorem specValid_iff (s : State) (w : Word64) : specValid s w = true ↔
    bits w 2 0 ≤ 4 ∧ bits w 6 4 ≤ 4 ∧ (bit w 3 = true ∨ bits w 2 0 ≠ bits w 6 4) ∧ endPresent s (bits w 2 0) = true ∧
      1 ≤ bits w 22 16 ∧ bits w 22 16 ≤ (if bit w 3 then 8 else 64) ∧
      (bit w 3 = true → bits w 14 12 ≠ bits s.mgmt.modid 2 0 ∧
        bits s.mgmt.fibmap (3 * bits w 11 8 + 2) (3 * bits w 11 8) = bits w 14 12) ∧
      (bit w 3 = false → endPresent s (bits w 6 4) = true) := by
  simp only [specValid, Bool.and_eq_true, decide_eq_true_eq, and_assoc]
  cases h : bit w 3 <;> simp [specA, specB, specCh, specFib, fibMap, h]

/-- The channel budgets that a specification keeps (R406, R407). -/
theorem specFits_iff (s : State) (w : Word64) : specFits s w = true ↔
    channels s (usesEnd · (bits w 2 0)) + bits w 22 16 ≤ 64 ∧
      (bit w 3 = true → channels s (fun z => specFib z && bits z 11 8 == bits w 11 8) + bits w 22 16 ≤ 8) ∧
      (bit w 3 = false → channels s (usesEnd · (bits w 6 4)) + bits w 22 16 ≤ 64) := by
  simp only [specFits, Bool.and_eq_true, decide_eq_true_eq]
  cases h : bit w 3
  · simp only [show specFib w = false from h, Bool.false_eq_true, if_false, decide_eq_true_eq]
    simp [specA, specB, specCh]
  · simp only [show specFib w = true from h, if_true, decide_eq_true_eq]
    simp [specA, specCh]

section
variable {s : State} {e : Nat} {w : Word64}

/-- OPEN of an entry in use (R409). -/
theorem connOpened_inUse (h : (s.circuit e).st ≠ .idle) : connOpened s e w = (1, s.circuit e) := by
  simp [connOpened, h]

/-- OPEN with an invalid specification (R409). -/
theorem connOpened_invalid (h : (s.circuit e).st = .idle) (hv : ¬ specValid s w = true) :
    connOpened s e w = (4, s.circuit e) := by
  simp [connOpened, h, hv]

/-- OPEN for a pair that has a circuit (R407, R409). -/
theorem connOpened_joined (h : (s.circuit e).st = .idle) (hv : specValid s w = true)
    (hj : ∃ c, c ∈ liveCircuits s ∧ samePair c.spec w = true) : connOpened s e w = (2, s.circuit e) := by
  simp [connOpened, h, hv, List.any_eq_true.2 hj]

/-- OPEN beyond a channel budget (R406, R409). -/
theorem connOpened_full (h : (s.circuit e).st = .idle) (hv : specValid s w = true)
    (hj : ¬ ∃ c, c ∈ liveCircuits s ∧ samePair c.spec w = true) (hf : ¬ specFits s w = true) :
    connOpened s e w = (3, s.circuit e) := by
  have hj' := Bool.eq_false_iff.2 (mt List.any_eq_true.1 hj)
  simp [connOpened, h, hv, hj', hf]

/-- OPEN that succeeds: the entry is REQUESTED (R408, R409). -/
theorem connOpened_ok (h : (s.circuit e).st = .idle) (hv : specValid s w = true)
    (hj : ¬ ∃ c, c ∈ liveCircuits s ∧ samePair c.spec w = true) (hf : specFits s w = true) :
    connOpened s e w = (0, { s.circuit e with st := .requested, fcause := 0, spec := w }) := by
  have hj' := Bool.eq_false_iff.2 (mt List.any_eq_true.1 hj)
  simp [connOpened, h, hv, hj', hf]

end

/-- What OPEN does with its specification: the reserved bits, then the answers of R409. -/
def openEffect (s : State) (v : Word64) (e : Nat) : Except Stop (Nat × Circuit) := do
  check (bits v 63 23 == 0 && !bit v 15 && !bit v 7) s .reservedField v
  return connOpened s e v

/-- A specification with a reserved bit set raises RESERVED_FIELD with it (R409). -/
theorem openEffect_reserved {s : State} {v : Word64} {e : Nat}
    (h : bits v 63 23 ≠ 0 ∨ bit v 15 = true ∨ bit v 7 = true) :
    openEffect s v e = .error (.trap s .reservedField v) := by
  have hc : (bits v 63 23 == 0 && !bit v 15 && !bit v 7) = false := by
    rcases h with h | h | h <;> simp [h]
  simp [openEffect, check, raise, hc, bind, Except.bind]

/-- A specification that keeps its reserved bits is answered. -/
theorem openEffect_clean {s : State} {v : Word64} {e : Nat} (h23 : bits v 63 23 = 0) (h15 : bit v 15 = false)
    (h7 : bit v 7 = false) : openEffect s v e = .ok (connOpened s e v) := by
  simp [openEffect, check, h23, h15, h7, bind, Except.bind, pure, Except.pure]

section
variable {s : State} {k : Nat} (d a : BitVec 5)

/-- OPEN of a ready core, as a change of its entry. -/
theorem exec_connOpen_ready (b : BitVec 5) (h : CoreReady .machine false s k) : exec (.connOpen d a b 0) s =
    .next (settleCore k 4 (connBody d a k s (openEffect s (gGet s k b)))) :=
  congrArg Host.Outcome.next (unitC_ready h)

/-- CLOSE of a ready core, as a change of its entry. -/
theorem exec_connClose_ready (h : CoreReady .machine false s k) : exec (.connClose d a 0 0) s =
    .next (settleCore k 4 (connBody d a k s (fun e => .ok (connClosed (s.circuit e))))) :=
  congrArg Host.Outcome.next (unitC_ready h)

/-- RESET of a ready core, as a change of its entry. -/
theorem exec_connReset_ready (h : CoreReady .machine false s k) : exec (.connReset d a 0 0) s =
    .next (settleCore k 4 (connBody d a k s (fun e => .ok (connCleared (s.circuit e))))) :=
  congrArg Host.Outcome.next (unitC_ready h)

/-- STATUS with a reserved bit of its operation word set (R409). -/
theorem exec_connStatus_reserved (h : CoreReady .machine false s k) (hw : bits (gGet s k a) 63 8 ≠ 0) :
    exec (.connStatus d a 0 0) s = traps s k .reservedField (gGet s k a) := by
  refine congrArg Host.Outcome.next ((unitC_ready h).trans ?_)
  simp [check, raise, hw, bind, Except.bind, settleCore]

/-- STATUS answers the word of its entry (R409). -/
theorem exec_connStatus_wrote (h : CoreReady .machine false s k) (hw : bits (gGet s k a) 63 8 = 0) :
    exec (.connStatus d a 0 0) s = wrote s k 4 d (connWord (s.circuit (bits (gGet s k a) 7 2))) := by
  refine congrArg Host.Outcome.next ((unitC_ready h).trans ?_)
  simp [check, hw, bind, Except.bind, settleCore, fall, connEntry]

/-- STATUS, CLOSE and RESET keep their second source field zero (R87). -/
theorem exec_conn_rsv {b : BitVec 5} (h : CoreReady .machine false s k) (hb : b ≠ 0) :
    exec (.connStatus d a b 0) s = traps s k .reservedField 0 ∧
      exec (.connClose d a b 0) s = traps s k .reservedField 0 ∧
      exec (.connReset d a b 0) s = traps s k .reservedField 0 := by
  have hr : ((0 : BitVec 5) == 0 && b == 0) = false := by simpa using hb
  have stops {f : Nat → State → Done} :
      Host.Outcome.next (unitC 4 false ⟨.machine, (0 : BitVec 5) == 0 && b == 0, true, f⟩ s) = traps s k .reservedField 0 := by
    rw [hr, unitC_ready_reserved h, traps]
  exact ⟨stops, stops, stops⟩

end

/-- The first clause of O56: CONN (R3, R406, R407, R409). -/
theorem connections : Connections := by
  intro s k d a b hr
  dsimp only
  have opens := exec_connOpen_ready d a b hr
  have closes := exec_connClose_ready d a hr
  have resets := exec_connReset_ready d a hr
  refine ⟨exec_conn_rsv d a hr, fun hw => ?reserved, fun hw hv => ?spec, fun hw h23 h15 h7 => ?opening, fun hw => ?rest⟩
  case reserved =>
    rw [opens, closes, resets]
    simp only [connBody_reserved hw]
    exact ⟨rfl, exec_connStatus_reserved d a hr hw, rfl, rfl⟩
  case spec =>
    rw [opens, connBody_error hw (openEffect_reserved hv)]
    rfl
  case opening =>
    have answer {r : Nat} {c : Circuit}
        (h : connOpened s (bits (gGet s k a) 7 2) (gGet s k b) = (r, c)) :
        exec (.connOpen d a b 0) s =
          wrote (s.setCircuit (bits (gGet s k a) 7 2) c) k 4 d (BitVec.ofNat 64 r) :=
      opens.trans (connBody_wrote hw ((openEffect_clean h23 h15 h7).trans (congrArg _ h)))
    rw [← specValid_iff, ← specFits_iff]
    exact ⟨fun h => answer (connOpened_inUse h), fun h hv => answer (connOpened_invalid h hv),
      fun h hv hj => answer (connOpened_joined h hv hj), fun h hv hj hf => answer (connOpened_full h hv hj hf),
      fun h hv hj hf => answer (connOpened_ok h hv hj hf)⟩
  case rest =>
    have close {r : Nat} {c : Circuit} (h : connClosed (s.circuit (bits (gGet s k a) 7 2)) = (r, c)) :
        exec (.connClose d a 0 0) s = wrote (s.setCircuit (bits (gGet s k a) 7 2) c) k 4 d (BitVec.ofNat 64 r) :=
      closes.trans (connBody_wrote hw (congrArg _ h))
    have reset {r : Nat} {c : Circuit} (h : connCleared (s.circuit (bits (gGet s k a) 7 2)) = (r, c)) :
        exec (.connReset d a 0 0) s = wrote (s.setCircuit (bits (gGet s k a) 7 2) c) k 4 d (BitVec.ofNat 64 r) :=
      resets.trans (connBody_wrote hw (congrArg _ h))
    refine ⟨fun h => close ?_, fun h => close ?_, fun h => close ?_, fun h => reset ?_, fun h => reset ?_,
      exec_connStatus_wrote d a hr hw⟩
    · rcases h with h | h <;> simp [connClosed, h]
    · simp [connClosed, h]
    · rcases h with h | h | h <;> simp [connClosed, h]
    · simp [connCleared, h]
    · simp [connCleared, h]

/-! ### Entries of the connection table -/

/-- What the table holds of an entry. -/
theorem table_get (s : State) (e : Nat) : s.circuits.get Circuit.reset e = s.circuit e := rfl

/-- An entry that has been set reads as set. -/
@[simp] theorem circuit_setCircuit_self (s : State) (e : Nat) (c : Circuit) : (s.setCircuit e c).circuit e = c := by
  simp [State.circuit, State.setCircuit]

/-! ### A circuit fails (R408, R413) -/

/-- A job that a failed circuit bore loses its traffic there and is fenced (R413). -/
def fenceBorne (e : Nat) (s : State) (j : Nat × Nat) : State :=
  fenceJob (dropTraffic s e j) j.1 j.2 (causeCode .linkDown)

/-- Entry `e` is FAILED with a cause. -/
def FailedWith (e : Nat) (z : BitVec 2) (s : State) : Prop := (s.circuit e).st = .failed ∧ (s.circuit e).fcause = z

/-- Traffic that is discarded leaves the state of the entry. -/
theorem failedWith_dropTraffic {e : Nat} {z : BitVec 2} {s : State} (j : Nat × Nat) (h : FailedWith e z s) :
    FailedWith e z (dropTraffic s e j) := by
  simpa [FailedWith, State.circuit, dropTraffic] using h

/-- A job that is fenced for a failed circuit leaves the entry FAILED. -/
theorem failedWith_fenceBorne {e : Nat} {z : BitVec 2} {s : State} (j : Nat × Nat) (h : FailedWith e z s) :
    FailedWith e z (fenceBorne e s j) := by
  have hc := (fenceJob_ends (dropTraffic s e j) j.1 j.2 (causeCode .linkDown)).1.1
  have hd := failedWith_dropTraffic j h
  simpa only [FailedWith, State.circuit, fenceBorne, hc] using hd

/-- A job that is fenced for a failed circuit brings no job back. -/
theorem findJob_fenceBorne {e : Nat} {s : State} (j : Nat × Nat) {c n : Nat} (h : s.findJob c n = none) :
    (fenceBorne e s j).findJob c n = none :=
  (fenceJob_ends (dropTraffic s e j) j.1 j.2 _).1.2 c n h

/-- Once the jobs of a list have been fenced, none of them is in progress, and the entry is still FAILED. -/
theorem fenceBorne_foldl {e : Nat} {z : BitVec 2} (l : List (Nat × Nat)) :
    ∀ s : State, FailedWith e z s → FailedWith e z (l.foldl (fenceBorne e) s) ∧
      ∀ c n, (s.findJob c n = none ∨ (c, n) ∈ l) → (l.foldl (fenceBorne e) s).findJob c n = none := by
  induction l with
  | nil => exact fun s h => ⟨h, fun c n hn => hn.resolve_right (by simp)⟩
  | cons j r ih =>
    intro s h
    obtain ⟨hf, hr⟩ := ih _ (failedWith_fenceBorne j h)
    refine ⟨hf, fun c n hn => hr c n ?_⟩
    rcases hn with hn | hn
    · exact .inl (findJob_fenceBorne j hn)
    · rcases List.mem_cons.1 hn with rfl | hn
      · exact .inl (fenceJob_ends (dropTraffic s e (c, n)) c n _).2
      · exact .inr hn

/-- A circuit that fails takes its cause, and no job that it bore is in progress any more (R408, R413). -/
theorem failCircuit_spec (s : State) (e : Nat) (z : BitVec 2) :
    ((failCircuit s e z).circuit e).st = .failed ∧ ((failCircuit s e z).circuit e).fcause = z ∧
      ∀ j, j ∈ circuitJobs s (s.circuit e) → (failCircuit s e z).findJob j.1 j.2 = none := by
  let s1 := s.setCircuit e { s.circuit e with st := .failed, fcause := z, fails := 0, resend := false }
  have h1 : FailedWith e z s1 := by simp [FailedWith, s1]
  -- The jobs that a circuit bears are the same before and after its entry is set.
  obtain ⟨⟨hst, hc⟩, hj⟩ := fenceBorne_foldl (circuitJobs s1 (s.circuit e)) s1 h1
  exact ⟨hst, hc, fun j hm => hj j.1 j.2 (.inr hm)⟩

/-! ### Flits (R411) -/

/-- Flits numbered afresh keep their tokens and their order. -/
theorem renumberFlits_toks (l : List Flit) : (renumberFlits l).1.map (·.toks) = l.map (·.toks) := by
  have acc (l : List Flit) : ∀ b : List Flit × Tbl Nat, (l.foldl (fun (b : List Flit × Tbl Nat) f =>
      (b.1 ++ [{ f with seq := b.2.get 0 f.src }], b.2.put f.src ((b.2.get 0 f.src + 1) % 4096))) b).1.map (·.toks) =
        b.1.map (·.toks) ++ l.map (·.toks) := by
    induction l with
    | nil => simp
    | cons f r ih => intro b; simp [ih]
  simpa [renumberFlits] using acc l ([], [])

section
variable {s : State} {e : Nat}

/-- A circuit that takes no flit, or holds none, receives nothing. -/
theorem receiveFlit_none (good : Bool) (h : ¬ (((s.circuit e).st = .up ∨ (s.circuit e).st = .draining) ∧
    (s.circuit e).resend = false) ∨ (s.circuit e).retry = []) : receiveFlit s e good = none := by
  unfold receiveFlit
  dsimp only
  split
  next on =>
    have hr := h.resolve_left (by simpa [table_get] using on)
    simp [table_get, hr]
  next => rfl

section
variable (on : ((s.circuit e).st = .up ∨ (s.circuit e).st = .draining) ∧ (s.circuit e).resend = false)
  {f : Flit} {r : List Flit} (hr : (s.circuit e).retry = f :: r)
include on hr

/-- The flit that is next of its sender is accepted at the far end (R411). -/
theorem receiveFlit_accepted (h : f.seq = (s.circuit e).rxSeq.get 0 f.src) : receiveFlit s e true = some { s with
    flights := s.flights ++ f.toks.map (fun x => { x with
      die := if bits (s.circuit e).spec 2 0 = f.src then bits (s.circuit e).spec 6 4 else bits (s.circuit e).spec 2 0,
      strait := false }),
    circuits := s.circuits.put e { s.circuit e with
      retry := r, fails := 0,
      rxSeq := (s.circuit e).rxSeq.put f.src (((s.circuit e).rxSeq.get 0 f.src + 1) % 4096) } } := by
  rw [receiveFlit, table_get]
  simp [on, hr, h]

/-- A flit that is not next of its sender is discarded (R411). -/
theorem receiveFlit_discarded (h : f.seq ≠ (s.circuit e).rxSeq.get 0 f.src) :
    receiveFlit s e true = some (s.setCircuit e { s.circuit e with retry := r, fails := 0 }) := by
  simp [receiveFlit, table_get, on, hr, h, State.setCircuit]

/-- A flit whose CRC fails is to be sent again (R411). -/
theorem receiveFlit_bad : receiveFlit s e false =
    some (s.setCircuit e { s.circuit e with fails := (s.circuit e).fails + 1, resend := true }) := by
  simp [receiveFlit, table_get, on, hr, State.setCircuit]

end

/-- FLIT_RECEIVE without a failure too many is what the far end receives. -/
theorem execFlitReceive_some {u : State} {good : Bool} (h : receiveFlit s e good = some u) (hf : (u.circuit e).fails < 8) :
    execFlitReceive e good s = .next u := by
  simp [execFlitReceive, h, Nat.not_le.2 hf]

/-- The eighth failure in a row fails the circuit (R408). -/
theorem execFlitReceive_fails {u : State} {good : Bool} (h : receiveFlit s e good = some u) (hf : 8 ≤ (u.circuit e).fails) :
    execFlitReceive e good s = .next (failCircuit u e 2) := by
  simp [execFlitReceive, h, hf]

end


/-! ### The events of an entry (R408) -/

/-- CIRCUIT_LOCKED: the circuit is UP and sends again what waits for its pair (R408, R413). -/
theorem circuitLocked_up {s : State} {e : Nat} (h : (s.circuit e).st = .tuning) :
    ∃ u, exec (.circuitLocked e) s = .next u ∧ (u.circuit e).st = .up ∧ (u.circuit e).rxSeq = [] ∧
      (u.circuit e).retry.map (·.toks) = (waitingFlits s e ++ (s.circuit e).retry).map (·.toks) ∧ u.mem = s.mem ∧
      u.jobs = s.jobs := by
  refine ⟨_, next_if_pos h, ?_⟩
  simp only [circuit_setCircuit_self, renumberFlits_toks, true_and]
  exact ⟨rfl, rfl⟩

/-- LINK_FAIL of a circuit in use (R408). -/
theorem linkFail_fails {s : State} {e : Nat} {w : BitVec 2} (h : (s.circuit e).st = .up ∨ (s.circuit e).st = .draining)
    (hw : 2 ≤ w.toNat) : exec (.linkFail e w) s = .next (failCircuit s e w) :=
  next_if_pos ⟨h, hw⟩

/-- The flits of a strait that is on, by whether the first one is good, in order, or one failure too many (R408, R411). -/
theorem flitReceive_on {s : State} {e : Nat} {f : Flit} {r : List Flit}
    (on : ((s.circuit e).st = .up ∨ (s.circuit e).st = .draining) ∧ (s.circuit e).resend = false)
    (hr : (s.circuit e).retry = f :: r) :
    let c := s.circuit e
    let bad : Circuit := { c with fails := c.fails + 1, resend := true }
    (f.seq = c.rxSeq.get 0 f.src → exec (.flitReceive e true) s = .next { s with
      flights := s.flights ++ f.toks.map (fun x => { x with
        die := if bits c.spec 2 0 = f.src then bits c.spec 6 4 else bits c.spec 2 0, strait := false }),
      circuits := s.circuits.put e { c with
        retry := r, fails := 0, rxSeq := c.rxSeq.put f.src ((c.rxSeq.get 0 f.src + 1) % 4096) } }) ∧
    (f.seq ≠ c.rxSeq.get 0 f.src →
      exec (.flitReceive e true) s = .next (s.setCircuit e { c with retry := r, fails := 0 })) ∧
    (c.fails < 7 → exec (.flitReceive e false) s = .next (s.setCircuit e bad)) ∧
    (7 ≤ c.fails → exec (.flitReceive e false) s = .next (failCircuit (s.setCircuit e bad) e 2)) := by
  refine ⟨fun h => ?_, fun h => ?_, fun h => ?_, fun h => ?_⟩
  · exact execFlitReceive_some (receiveFlit_accepted on hr h) (by simp [State.circuit])
  · exact execFlitReceive_some (receiveFlit_discarded on hr h) (by simp)
  · exact execFlitReceive_some (receiveFlit_bad on hr) (by simp; omega)
  · exact execFlitReceive_fails (receiveFlit_bad on hr) (by simp; omega)

/-- The second clause of O56: the events of a circuit (R408, R411, R413, R431). -/
theorem circuitEvents : CircuitEvents := by
  intro s e w
  dsimp only
  refine ⟨⟨fun h he => next_if_pos ⟨h, he⟩, fun h => next_if_neg ?notReady⟩, fun h => circuitLocked_up h,
    fun h => ⟨next_if_neg h, next_if_neg fun hp => h hp.1⟩, fun h ht => next_if_pos ⟨h, ht⟩,
    fun ht => next_if_neg fun hp => Nat.not_le.2 ht hp.2, fun h hr => next_if_pos ⟨h, hr⟩, fun h => next_if_neg ?notDrained,
    fun h hw => ⟨linkFail_fails h hw, failCircuit_spec s e w⟩, fun h => next_if_neg ?noFailure, rfl,
    fun h good => ?nothing, fun f r on hr => ?flits, fun h hr => next_if_pos ⟨h, hr⟩, fun h => next_if_neg ?noResend⟩
  case notReady => exact fun ⟨h1, h2⟩ => h.elim (· h1) (· h2)
  case notDrained => exact fun ⟨h1, h2⟩ => h.elim (· h1) (· h2)
  case noFailure => exact fun ⟨h1, h2⟩ => h.elim (· h1) (Nat.not_lt.2 h2)
  case nothing => exact congrArg Host.Outcome.next (by rw [receiveFlit_none good h])
  case noResend => exact fun ⟨h1, h2⟩ => h.elim (· h1) (by simp [h2])
  case flits =>
    obtain ⟨accepted, discarded, bad, fails⟩ := flitReceive_on on hr
    refine ⟨accepted, discarded, bad, fun h => ⟨fails h, ?_⟩⟩
    have hs := failCircuit_spec (s.setCircuit e { s.circuit e with fails := (s.circuit e).fails + 1, resend := true }) e 2
    rw [circuit_setCircuit_self] at hs
    exact hs

/-- Settles O56: the operations of CONN, and the events of a circuit. The order of OPEN's answers and what CLOSE and a tuning
timeout keep are the model's choices (log entry 49), and so are the implicit acknowledgement, the flits taken over from other
entries of the pair, and the traffic that a reset of the X-die returns (log entry 50). -/
theorem circuits : Obligations.Circuits := ⟨connections, circuitEvents⟩

end Sys2Proof.Proofs.Link

namespace Sys2Proof.Proofs.Banks
open Sys2Proof Sys2Proof.Machine Sys2Proof.Claims Sys2Proof.Laws Sys2Proof.Proofs.Steps

/-! The switches of SRAM banks (R66, R179 to R181). -/

/-! ### Entries of sparse tables -/

/-- An entry of a table after `put` is the new one or an old one. -/
theorem mem_tbl_put {α : Type} {m : Tbl α} {k : Nat} {v : α} {e : Nat × α} (h : e ∈ m.put k v) :
    e = (k, v) ∨ e ∈ m := by
  induction m with
  | nil => simpa [Tbl.put] using h
  | cons f r ih =>
    simp only [Tbl.put] at h
    split at h
    · simpa using h
    · split at h
      · rcases List.mem_cons.1 h with h | h
        · exact .inl h
        · exact .inr (List.mem_cons_of_mem _ h)
      · rcases List.mem_cons.1 h with h | h
        · exact .inr (h ▸ List.mem_cons_self)
        · exact (ih h).imp_right (List.mem_cons_of_mem _)

/-- A key that no entry has reads as the default. -/
theorem tbl_get_of_not_mem {α : Type} {d : α} {m : Tbl α} {k : Nat} (h : ∀ e ∈ m, e.1 ≠ k) : m.get d k = d := by
  induction m with
  | nil => rfl
  | cons e r ih =>
    have hk : k ≠ e.1 := (h e List.mem_cons_self).symm
    simpa [Tbl.get, hk] using ih fun x hx => h x (List.mem_cons_of_mem _ hx)

/-! ### A write of a control register (R179 to R181) -/

/-- Two changes of an isle that agree on it give one state. -/
theorem updIsle_congr {s : State} {k : Nat} {f g : Isle → Isle} (h : f (s.isle k) = g (s.isle k)) :
    s.updIsle k f = s.updIsle k g := by simp only [State.updIsle, h]

@[simp] theorem bank_setBank_self (i : Isle) (n : Nat) (b : Bank) : (i.setBank n b).bank n = b := by
  simp [Isle.bank, Isle.setBank]

/-- The modes with an owning context (R179). -/
theorem ownedMode_iff {m : BankMode} : ownedMode m = true ↔ m = .scratch ∨ m = .fifo := by
  cases m <;> decide

/-- When a write agrees with the bank's MODE and CTX (R179). -/
theorem bankSame_iff {b : Bank} {m : BankMode} {c : Nat} :
    bankSame b m c = true ↔ m = b.mode ∧ (m = .scratch ∨ m = .fifo → c = b.ctx) := by
  rw [← ownedMode_iff]
  cases h : ownedMode m <;> simp [bankSame, h]

section
variable {i : Isle} {n : Nat} {w : Word32}

/-- A write during a switch that names the current mode cancels it (R179). -/
theorem writeBank_cancel (hb : (i.bank n).busy = true)
    (hs : bankSame (i.bank n) (bankModeOf (bits w 3 2)) (bits w 15 8) = true) :
    writeBank i n w = i.setBank n { i.bank n with busy := false } := by
  simp [writeBank, hb, hs]

/-- Any other write during a switch is ignored, and so is one that names the current mode of a bank at rest (R179). -/
theorem writeBank_ignored
    (h : (i.bank n).busy ≠ bankSame (i.bank n) (bankModeOf (bits w 3 2)) (bits w 15 8)) : writeBank i n w = i := by
  cases hb : (i.bank n).busy <;> simp_all [writeBank]

/-- A write to a bank at rest that does not name its current mode starts a switch, or is refused where it would take a declared
buffer (R179, R180). -/
theorem writeBank_switch {d : Bool} (hb : (i.bank n).busy = false)
    (hs : bankSame (i.bank n) (bankModeOf (bits w 3 2)) (bits w 15 8) = false)
    (hd : ((i.bank n).mode == .scratch && bankDeclared i n) = d) :
    writeBank i n w = i.setBank n { i.bank n with
      target := bankModeOf (bits w 3 2), nctx := bits w 15 8, busy := !d, refused := d } := by
  subst hd
  simp [writeBank, hb, hs]

/-- A switch of the bank would take a declared buffer (R180). -/
theorem takesBuffer_iff : ((i.bank n).mode == .scratch && bankDeclared i n) = true ↔
    (i.bank n).mode = .scratch ∧ i.overlaps (2 ^ 17 * n) (2 ^ 17) = true := by
  simp only [bankDeclared, Bool.and_eq_true, beq_iff_eq]

end

/-! ### The lines of a CACHE bank leave it (R180) -/

@[simp] theorem isle_clearMarks (s : State) (key n k : Nat) : (clearMarks s key n).isle k = s.isle k := by
  unfold clearMarks; split <;> rfl

/-- A write-back changes at most the line itself in the isle's L2. -/
theorem isle_writeBack (s : State) (k line : Nat) :
    (writeBack s k line).isle k = s.isle k ∨ ∃ v, (writeBack s k line).isle k = (s.isle k).putLine line v := by
  unfold writeBack
  split
  · exact .inl rfl
  next v _ =>
    split
    · exact .inl rfl
    · refine .inr ⟨{ v with dirty := 0 }, ?_⟩
      rw [isle_updIsle_self, isle_clearMarks]
      rfl

/-- The state in which a line of isle `k` has gone home and left. -/
def lineLeaves (k : Nat) (s : State) (l : Nat) : State := (writeBack s k l).updIsle k (fun i => i.dropLine l)

/-- A line that has left the isle is not there, and every other is as it was. -/
theorem mem_lineLeaves {k l : Nat} {s : State} {e : Nat × L2Line} (h : e ∈ ((lineLeaves k s l).isle k).l2) :
    e ∈ (s.isle k).l2 ∧ e.1 ≠ l := by
  simp only [lineLeaves, isle_updIsle_self] at h
  rcases isle_writeBack s k l with hw | ⟨v, hw⟩ <;> rw [hw] at h
  · simpa [Isle.dropLine, Tbl.erase] using h
  · obtain ⟨hm, hl⟩ : e ∈ (s.isle k).l2.put l v ∧ e.1 ≠ l := by
      simpa [Isle.dropLine, Isle.putLine, Tbl.erase] using h
    exact ⟨(mem_tbl_put hm).resolve_left fun he => hl (congrArg Prod.fst he), hl⟩

/-- A line that leaves changes no bank. -/
theorem banks_lineLeaves (k l : Nat) (s : State) : ((lineLeaves k s l).isle k).banks = (s.isle k).banks := by
  simp only [lineLeaves, isle_updIsle_self]
  rcases isle_writeBack s k l with hw | ⟨v, hw⟩ <;> rw [hw] <;> rfl

/-- After the lines of a list have left, the isle holds none of them, and its banks are as they were. -/
theorem lineLeaves_foldl {k : Nat} (l : List Nat) : ∀ s : State,
    (∀ e ∈ ((l.foldl (lineLeaves k) s).isle k).l2, e ∈ (s.isle k).l2 ∧ e.1 ∉ l) ∧
      ((l.foldl (lineLeaves k) s).isle k).banks = (s.isle k).banks := by
  induction l with
  | nil => exact fun s => ⟨fun e h => ⟨h, by simp⟩, rfl⟩
  | cons x r ih =>
    intro s
    obtain ⟨hl, hb⟩ := ih (lineLeaves k s x)
    refine ⟨fun e he => ?_, hb.trans (banks_lineLeaves k x s)⟩
    obtain ⟨hm, hr⟩ := hl e he
    obtain ⟨hm, hx⟩ := mem_lineLeaves hm
    exact ⟨hm, by simp [hx, hr]⟩

/-- An emptied CACHE bank holds no line (R180). -/
theorem emptyCache_lines (s : State) (k n : Nat) : ∀ e ∈ ((emptyCache s k n).isle k).l2, e.2.bank ≠ n := by
  intro e he hn
  obtain ⟨hm, hl⟩ := (lineLeaves_foldl ((s.isle k).bankLines n) s).1 e he
  exact hl (List.mem_map.2 ⟨e, List.mem_filter.2 ⟨hm, by simpa using hn⟩, rfl⟩)

/-- An emptied CACHE bank keeps its control register, as all banks do. -/
theorem emptyCache_bank (s : State) (k n m : Nat) : ((emptyCache s k n).isle k).bank m = (s.isle k).bank m := by
  exact congrArg (fun t => Tbl.get Bank.reset t m) (lineLeaves_foldl ((s.isle k).bankLines n) s).2

/-! ### A bank enters its new mode (R180) -/

/-- The bank after its switch. -/
def switched (b : Bank) (m : BankMode) (c : Nat) : Bank :=
  { b with mode := m, ctx := if ownedMode m then c else 0, busy := false }

/-- The register of a bank that enters a mode (R180). -/
theorem enterBank_bank (i : Isle) (n : Nat) (m : BankMode) (c : Nat) :
    (enterBank i n m c).bank n = switched (i.bank n) m c := by
  unfold enterBank
  dsimp only
  split <;> split <;> exact bank_setBank_self i n _

/-- A bank that enters a mode changes no line of the L2. -/
theorem enterBank_l2 (i : Isle) (n : Nat) (m : BankMode) (c : Nat) : (enterBank i n m c).l2 = i.l2 := by
  unfold enterBank
  dsimp only
  split <;> split <;> rfl

/-- The scratchpad of a bank that enters SCRATCH mode has no entry in the bank (R180). -/
theorem enterBank_spm (i : Isle) (n c : Nat) :
    (enterBank i n .scratch c).spm = i.spm.filter (fun e => !(e.1 / 2 ^ 17 == n)) ∧
      (enterBank i n .scratch c).spmUe = i.spmUe.filter (fun a => !(a / 2 ^ 17 == n)) := by
  simp only [enterBank, if_true]
  split <;> exact ⟨rfl, rfl⟩

/-- A SCRATCH bank reads zero after its switch, and no byte of it has an error (R180). -/
theorem enterBank_reads_zero (i : Isle) (n c a : Nat) (ha : a / 2 ^ 17 = n) :
    (enterBank i n .scratch c).spm.get 0 a = 0 ∧ a ∉ (enterBank i n .scratch c).spmUe := by
  obtain ⟨hspm, hue⟩ := enterBank_spm i n c
  rw [hspm, hue]
  refine ⟨tbl_get_of_not_mem fun e he hk => ?_, fun he => ?_⟩
  · simpa only [hk, ha, beq_self_eq_true, Bool.not_true, Bool.false_eq_true] using (List.mem_filter.1 he).2
  · simpa only [ha, beq_self_eq_true, Bool.not_true, Bool.false_eq_true] using (List.mem_filter.1 he).2

/-- The isle just before bank `n` enters its new mode: a CACHE bank that leaves the mode is empty (R180). -/
def leaveMode (s : State) (k n : Nat) (m : BankMode) : State :=
  if ((s.isle k).bank n).mode = .cache ∧ m ≠ .cache then emptyCache s k n else s

/-- Leaving its mode changes no bank's control register. -/
theorem leaveMode_bank (s : State) (k n : Nat) (m : BankMode) : ((leaveMode s k n m).isle k).bank n = (s.isle k).bank n := by
  unfold leaveMode
  split
  · exact emptyCache_bank s k n n
  · rfl

/-- The isle after a switch of its bank `n`. -/
theorem isle_switchBank (s : State) (k n : Nat) (m : BankMode) (c : Nat) :
    (switchBank s k n m c).isle k = enterBank ((leaveMode s k n m).isle k) n m c :=
  isle_updIsle_self _ _ _

/-- A committed switch (R180, R181): no line of a CACHE bank stays, the register has its new mode and owner, and a SCRATCH bank
reads zero. -/
theorem commitBank_spec (s : State) (k n : Nat) : ∃ u, commitBank s k n = u ∧
    (((s.isle k).bank n).mode = .cache → ((s.isle k).bank n).target ≠ .cache → ∀ e, e ∈ (u.isle k).l2 → e.2.bank ≠ n) ∧
    ((u.isle k).bank n).mode = ((s.isle k).bank n).target ∧ ((u.isle k).bank n).busy = false ∧
    ((u.isle k).bank n).ctx = (if ((s.isle k).bank n).target = .scratch ∨ ((s.isle k).bank n).target = .fifo then
      ((s.isle k).bank n).nctx else 0) ∧
    (((s.isle k).bank n).target = .scratch → ∀ a, a / 2 ^ 17 = n →
      (u.isle k).spm.get 0 a = 0 ∧ a ∉ (u.isle k).spmUe) := by
  refine ⟨_, rfl, ?_⟩
  simp only [commitBank, isle_switchBank, enterBank_bank, leaveMode_bank, enterBank_l2, switched, ownedMode_iff]
  refine ⟨fun hm ht => ?_, trivial, trivial, trivial, fun ht a ha => ?_⟩
  · rw [leaveMode, if_pos ⟨hm, ht⟩]
    exact emptyCache_lines s k n
  · rw [ht]
    exact enterBank_reads_zero _ n _ a ha

/-- A CACHE bank with a pinned line is not ready to switch (R269). -/
theorem bankReady_pinned {s : State} {k n : Nat} (hm : ((s.isle k).bank n).mode = .cache)
    (hp : ∃ e, e ∈ (s.isle k).l2 ∧ e.2.bank = n ∧ e.2.pins ≠ 0) : bankReady s k n = false := by
  obtain ⟨e, he, hn, hp⟩ := hp
  have hl : (s.isle k).l2.all (fun e => e.2.bank != n || e.2.pins == 0) = false :=
    List.all_eq_false.2 ⟨e, he, by simp [hn, hp]⟩
  simp [bankReady, hm, hl]

/-- The first clause of O60: bank switches (R66, R179 to R181). -/
theorem bankSwitches : BankSwitches := by
  intro s k n w hn
  dsimp only
  have writes {f : Isle → Isle} (h : writeBank (s.isle k) n w = f (s.isle k)) :
      exec (.bankCtrlWrite k n w) s = .next (s.updIsle k f) := by
    refine congrArg Host.Outcome.next (updIsle_congr ?_)
    rw [Nat.mod_eq_of_lt hn, h]
  have ignored (h : writeBank (s.isle k) n w = s.isle k) :
      ∃ u, exec (.bankCtrlWrite k n w) s = .next u ∧ u.isle k = s.isle k ∧ u.mem = s.mem :=
    ⟨_, writes (f := fun i => i) h, isle_updIsle_self _ _ _, rfl⟩
  simp only [← bankSame_iff]
  refine ⟨fun hb hs => writes (writeBank_cancel hb hs), fun hb hs hd => writes ?refused, fun hb hs hd => writes ?started,
    fun hb hs => ignored (writeBank_ignored ?_), fun hb hs => ignored (writeBank_ignored ?_), fun h => next_if_neg ?notReady,
    fun hb hm hp => next_if_neg ?pinned, fun hb hr => ?commit⟩
  case refused => exact writeBank_switch hb (Bool.eq_false_iff.2 hs) (takesBuffer_iff.2 hd)
  case started => exact writeBank_switch hb (Bool.eq_false_iff.2 hs) (Bool.eq_false_iff.2 (mt takesBuffer_iff.1 hd))
  case notReady => exact fun hp => by rcases h with h | h <;> simp [h] at hp
  case pinned => simp [bankReady_pinned hm hp]
  case commit =>
    obtain ⟨u, hu, hspec⟩ := commitBank_spec s k n
    exact ⟨u, (next_if_pos ⟨hb, hr⟩).trans (congrArg _ hu), hspec⟩
  · simp [hb, hs]
  · simp [hb, hs]

end Sys2Proof.Proofs.Banks

namespace Sys2Proof.Proofs.Device
open Sys2Proof Sys2Proof.Machine Sys2Proof.Claims Sys2Proof.Laws Sys2Proof.Proofs.Steps

/-! The registers of the device window (R11, R194, R435). -/

/-! ### Little-endian bytes (R10) -/

@[simp] theorem length_bytesOf (v n : Nat) : (bytesOf v n).length = n := by simp [bytesOf]

/-- The bytes of a number are its low byte and the bytes of the rest. -/
theorem bytesOf_succ (v n : Nat) : bytesOf v (n + 1) = BitVec.ofNat 8 v :: bytesOf (v / 256) n := by
  simp only [bytesOf, List.range_succ_eq_map, List.map_cons, List.map_map, Nat.mul_zero, Nat.pow_zero, Nat.div_one]
  refine congrArg _ (List.map_congr_left fun i _ => ?_)
  simp only [Function.comp, Nat.div_div_eq_div_mul]
  rw [show 8 * i.succ = 8 + 8 * i by omega, Nat.pow_add]

/-- The number of `n` bytes is the number modulo 2^(8 n). -/
theorem numOf_bytesOf (n : Nat) : ∀ v, numOf (bytesOf v n) = v % 256 ^ n := by
  induction n with
  | zero => intro v; simp [bytesOf, numOf, Nat.mod_one]
  | succ n ih =>
    intro v
    have hc : numOf (bytesOf v (n + 1)) = v % 256 + 256 * numOf (bytesOf (v / 256) n) := by
      rw [bytesOf_succ]; simp [numOf]
    rw [hc, ih, Nat.pow_succ', Nat.mod_mul]

/-- The number of two runs of bytes. -/
theorem numOf_append (l r : List Byte) : numOf (l ++ r) = numOf l + 256 ^ l.length * numOf r := by
  induction l with
  | nil => simp [numOf]
  | cons b l ih =>
    have hc (m : List Byte) : numOf (b :: m) = b.toNat + 256 * numOf m := rfl
    rw [List.cons_append, hc, ih, hc, List.length_cons, Nat.pow_succ', Nat.mul_add, Nat.mul_assoc, Nat.add_assoc]

/-- A run of bytes is less than the power of its length. -/
theorem numOf_lt (l : List Byte) : numOf l < 256 ^ l.length := by
  induction l with
  | nil => simp [numOf]
  | cons b l ih =>
    have hc : numOf (b :: l) = b.toNat + 256 * numOf l := rfl
    have hb := b.isLt
    rw [hc, List.length_cons, Nat.pow_succ]
    omega

/-- A whole doubleword replaced. -/
theorem splice_whole {l : List Byte} (v : Word64) (hl : l.length = 8) :
    BitVec.ofNat 64 (numOf (spliceAt l 0 (bytesOf v.toNat 8))) = v := by
  have hd : l.drop (0 + (bytesOf v.toNat 8).length) = [] := List.drop_eq_nil_of_le (by simp [hl])
  have hm : v.toNat % 256 ^ 8 = v.toNat := Nat.mod_eq_of_lt v.isLt
  rw [spliceAt, hd, List.take_zero, List.nil_append, List.append_nil, numOf_bytesOf, hm, BitVec.ofNat_toNat,
    BitVec.setWidth_eq]

/-- The high word of a doubleword whose high half is replaced. -/
theorem hiWord_splice {l : List Byte} (v : Word64) (hl : l.length = 8) :
    hiWord (BitVec.ofNat 64 (numOf (spliceAt l 4 (bytesOf v.toNat 4)))) = v.extractLsb' 0 32 := by
  have hd : l.drop (4 + (bytesOf v.toNat 4).length) = [] := List.drop_eq_nil_of_le (by simp [hl])
  have ht : (l.take 4).length = 4 := by simp [hl]
  have hlt := numOf_lt (l.take 4)
  rw [ht] at hlt
  rw [spliceAt, hd, List.append_nil, numOf_append, numOf_bytesOf, ht]
  apply BitVec.eq_of_toNat_eq
  simp only [hiWord, BitVec.extractLsb'_toNat, BitVec.toNat_ofNat, Nat.shiftRight_eq_div_pow]
  omega

/-! ### Blocks of the device window (R194, R435) -/

/-- An offset of the management block. -/
theorem devBlock_mgmt (s : State) {o : Nat} (ho : o < 2 ^ 24) : devBlock s (Config.mgmtBase + o) = .mgmt o := by
  have h1 : ¬ Config.mgmtBase + o < Config.mgmtBase := by omega
  have h2 : Config.mgmtBase + o < Config.machineBase := by
    simp only [Config.mgmtBase, Config.machineBase]; omega
  rw [devBlock, if_neg h1, if_pos h2, Nat.add_sub_cancel_left]

/-- An offset of an isle's block on a present die. -/
theorem devBlock_isle {s : State} {k o : Nat} (hk : k < 64) (ho : o < 2 ^ 20) (hp : s.present (isleDie k) = true) :
    devBlock s (Config.window + 2 ^ 24 * (k / 16) + 2 ^ 20 * (k % 16) + o) = .isle k o := by
  have h1 : Config.window + 2 ^ 24 * (k / 16) + 2 ^ 20 * (k % 16) + o < Config.mgmtBase := by
    simp only [Config.mgmtBase, Config.window]; omega
  have hi : (Config.window + 2 ^ 24 * (k / 16) + 2 ^ 20 * (k % 16) + o - Config.window) / 2 ^ 24 * 16 +
      (Config.window + 2 ^ 24 * (k / 16) + 2 ^ 20 * (k % 16) + o - Config.window) / 2 ^ 20 % 16 = k := by omega
  have ho' : (Config.window + 2 ^ 24 * (k / 16) + 2 ^ 20 * (k % 16) + o) % 2 ^ 20 = o := by
    simp only [Config.window]; omega
  rw [devBlock, if_pos h1]
  simp only [hi, hp, ho', if_true]

/-- An offset of a C-die's Machine register block, which is a hole where the die is absent. -/
theorem devBlock_machine (s : State) {d o : Nat} (hd : d < 4) (ho : o < 2 ^ 20) :
    devBlock s (Config.machineBase + 2 ^ 20 * d + o) = if s.present d then .machine d o else .hole := by
  have h1 : ¬ Config.machineBase + 2 ^ 20 * d + o < Config.mgmtBase := by
    simp only [Config.mgmtBase, Config.machineBase]; omega
  have h2 : ¬ Config.machineBase + 2 ^ 20 * d + o < Config.machineBase := by omega
  have hi : (Config.machineBase + 2 ^ 20 * d + o - Config.machineBase) / 2 ^ 20 = d := by omega
  have ho' : (Config.machineBase + 2 ^ 20 * d + o) % 2 ^ 20 = o := by simp only [Config.machineBase]; omega
  have h4 : ¬ d = 4 := by omega
  rw [devBlock, if_neg h1, if_neg h2]
  simp only [hi, ho', h4, hd, false_or, true_and]

/-! ### A register written whole (R11) -/

section
variable {s : State} {g k d o : Nat} (v : Word64) (h8 : g % 8 = 0)
include h8

theorem devWrite_isle (h : devBlock s g = .isle k o) :
    devWrite s g (bytesOf v.toNat 8) = putIsle s k o v v true true := by
  have hg : g / 8 * 8 = g := by omega
  simp [devWrite, hg, h8, h, splice_whole]

theorem devWrite_mgmt (h : devBlock s g = .mgmt o) : devWrite s g (bytesOf v.toNat 8) = putMgmt s o v true true := by
  have hg : g / 8 * 8 = g := by omega
  simp [devWrite, hg, h8, h, splice_whole]

theorem devWrite_machine (h : devBlock s g = .machine d o) : devWrite s g (bytesOf v.toNat 8) = putMachine s d o v := by
  have hg : g / 8 * 8 = g := by omega
  simp [devWrite, hg, h8, h, splice_whole]

/-- A write of a register of eight bytes. -/
theorem exec_registerWrite_whole (hw : Config.window ≤ g) (hd : devWidth s g = 8) :
    exec (.registerWrite g v) s = .next (devWrite s g (bytesOf v.toNat 8)) := by
  have hg : g / 8 * 8 = g := by omega
  refine congrArg Host.Outcome.next ?_
  simp only [hd, hg, if_pos hw]

end

/-- A hole takes no write. -/
theorem devWrite_hole {s : State} {g : Nat} (l : List Byte) (h8 : g % 8 = 0) (h : devBlock s g = .hole) :
    devWrite s g l = s := by
  have hg : g / 8 * 8 = g := by omega
  simp [devWrite, hg, h]

/-! ### The management block -/

/-- A management register at `o` that a write only stores into. -/
structure StoreOnly (o : Nat) : Prop where
  low : o < 0x10000
  aligned : o % 8 = 0
  command : o ≠ 0x88
  queue : o ≠ 0x90
  hold : o ≠ 0xF0
  attest : o ≠ 0x108

/-- The registers of the management block are eight bytes wide but CTXCMD, TSLICE and QCMD. -/
theorem devWidth_mgmt (s : State) {o : Nat} (h : StoreOnly o) : devWidth s (Config.mgmtBase + o) = 8 := by
  obtain ⟨hl, ha, h1, h2, -, -⟩ := h
  rw [devWidth, devBlock_mgmt s (by omega)]
  exact if_neg (by omega)

/-- A write of a management register that is only stored into (R435). -/
theorem exec_registerWrite_store (s : State) {o : Nat} (v : Word64) (h : StoreOnly o) :
    exec (.registerWrite (Config.mgmtBase + o) v) s = .next { s with mgmt := storeMgmt s.mgmt o v } := by
  have hw := devWidth_mgmt s h
  obtain ⟨hl, ha, h1, h2, h3, h4⟩ := h
  have hal : (Config.mgmtBase + o) % 8 = 0 := by simp only [Config.mgmtBase]; omega
  have hwin : Config.window ≤ Config.mgmtBase + o := by simp only [Config.window, Config.mgmtBase]; omega
  rw [exec_registerWrite_whole v hal hwin hw, devWrite_mgmt v hal (devBlock_mgmt s (by omega))]
  unfold putMgmt
  rw [if_neg (by omega)]
  split
  · exact absurd rfl h1
  · exact absurd rfl h2
  · exact absurd rfl h3
  · exact absurd rfl h4
  · rfl

/-- TSLICE written: 0 is ignored (R314). -/
theorem exec_registerWrite_tslice (s : State) (v : Word64) : exec (.registerWrite (Config.mgmtBase + 0x8C) v) s =
    .next (if v.extractLsb' 0 32 = 0 then s else { s with mgmt := { s.mgmt with tslice := v.extractLsb' 0 32 } }) := by
  have hw : devWidth s (Config.mgmtBase + 0x8C) = 4 := by
    rw [devWidth, devBlock_mgmt s (by decide)]
    rfl
  have ha : (Config.mgmtBase + 0x8C) / 4 * 4 = Config.mgmtBase + 0x8C := by decide
  have hb : (Config.mgmtBase + 0x8C) / 8 * 8 = Config.mgmtBase + 0x88 := by decide
  have hj : (Config.mgmtBase + 0x8C) % 8 = 4 := by decide
  have hwin : Config.window ≤ Config.mgmtBase + 0x8C := by decide
  refine congrArg Host.Outcome.next ?_
  simp only [hw, ha, if_pos hwin, devWrite, hb, hj, devBlock_mgmt s (show 0x88 < 2 ^ 24 by decide), length_bytesOf]
  rw [putMgmt, if_neg (by decide)]
  simp only [hiWord_splice v (length_bytesOf _ 8)]
  by_cases h : v.extractLsb' 0 32 = 0 <;> simp [h]

/-- A read of MCOUNT clears it (R436). -/
theorem exec_rcRegisterRead_mcount (s : State) : exec (.rcRegisterRead (Config.mgmtBase + 0x100)) s =
    .next { s with mgmt := { s.mgmt with mcount := 0 } } := by
  have hw : devWidth s (Config.mgmtBase + 0x100) = 8 := by
    rw [devWidth, devBlock_mgmt s (by decide)]
    rfl
  have ha : (Config.mgmtBase + 0x100) / 8 * 8 = Config.mgmtBase + 0x100 := by decide
  have hwin : Config.window ≤ Config.mgmtBase + 0x100 := by decide
  refine congrArg Host.Outcome.next ?_
  simp only [hw, ha, if_pos hwin, devRead, clearRead, devBlock_mgmt s (show 0x100 < 2 ^ 24 by decide)]
  rfl

/-! ### The blocks of isles and dies -/

/-- A write of register `p` of an isle's ports (R332). -/
theorem putIsle_port (s : State) (k : Nat) (v only : Word64) (lo hi : Bool) {p : Nat} (h : p < 16) :
    putIsle s k (0x3000 + 8 * p) v only lo hi =
      s.updIsle k (fun i => { i with ports := i.ports.put p (v &&& 0x8000000000FFFE3F) }) := by
  rw [putIsle, if_neg (by omega), if_neg (by omega), if_pos (by omega), Nat.add_sub_cancel_left,
    Nat.mul_div_cancel_left p (by decide)]

/-- The address of offset `o` of isle `k`'s register block. -/
def isleAddr (k o : Nat) : Nat := Config.window + 2 ^ 24 * (k / 16) + 2 ^ 20 * (k % 16) + o

section
variable {s : State} {k : Nat} (hk : k < 64) (hp : s.present (isleDie k) = true)
include hk hp

/-- A write of an eight-byte register of an isle. -/
theorem exec_registerWrite_isle {o : Nat} (v : Word64) (ho : o < 2 ^ 20) (ha : o % 8 = 0)
    (hb : ¬ (0x1000 ≤ o ∧ o < 0x1400)) (h5 : ¬ (0x5000 ≤ o ∧ o < 0x5018)) :
    exec (.registerWrite (isleAddr k o) v) s = .next (putIsle s k o v v true true) := by
  have hdb : devBlock s (isleAddr k o) = .isle k o := devBlock_isle hk ho hp
  have hal : isleAddr k o % 8 = 0 := by simp only [isleAddr, Config.window]; omega
  have hwin : Config.window ≤ isleAddr k o := by simp only [isleAddr]; omega
  have hw : devWidth s (isleAddr k o) = 8 := by
    rw [devWidth, hdb]
    exact if_neg (by omega)
  rw [exec_registerWrite_whole v hal hwin hw, devWrite_isle v hal hdb]

/-- A read of a port's CRC counter clears that field alone (R11, R419). -/
theorem exec_rcRegisterRead_crcs (h16 : k % 16 = 0) : exec (.rcRegisterRead (isleAddr k 0x5010)) s =
    .next (s.updPort (isleDie k) (fun p => { p with crcs := 0 })) := by
  have hdb : devBlock s (isleAddr k 0x5010) = .isle k 0x5010 := devBlock_isle hk (by decide) hp
  have hw : devWidth s (isleAddr k 0x5010) = 4 := by
    rw [devWidth, hdb]
    rfl
  have hal : isleAddr k 0x5010 / 4 * 4 = isleAddr k 0x5010 := by simp only [isleAddr, Config.window]; omega
  have hwin : Config.window ≤ isleAddr k 0x5010 := by simp only [isleAddr]; omega
  refine congrArg Host.Outcome.next ?_
  simp only [hw, hal, if_pos hwin, devRead, clearRead, hdb, if_pos h16]
  rfl

end

/-- The address of offset `o` of the Machine register block of die `d`. -/
def machineAddr (d o : Nat) : Nat := Config.machineBase + 2 ^ 20 * d + o

/-- The registers of the spill pool and the page save store of a C-die (R194, R387, R393). -/
theorem putMachine_port (s : State) {d : Nat} (v : Word64) (h4 : d ≠ 4) :
    putMachine s d 0x3000 v = s.updDie d (fun x => { x with spBase := v &&& 0xFFFFFF0000 }) ∧
    putMachine s d 0x3008 v = s.updDie d (fun x => { x with spSize := loWord v }) ∧
    putMachine s d 0x3010 v = s.updDie d (fun x => { x with psBase := v &&& 0xFFFFFF0000 }) ∧
    putMachine s d 0x3018 v = s.updDie d (fun x => { x with psSize := loWord v }) := by
  simp only [putMachine, if_neg h4]
  exact ⟨rfl, rfl, rfl, rfl⟩

/-- A write in the Machine register block of a present C-die. -/
theorem exec_registerWrite_machine {s : State} {d o : Nat} (v : Word64) (hd : d < 4) (hp : s.present d = true)
    (ho : o < 2 ^ 20) (ha : o % 8 = 0) : exec (.registerWrite (machineAddr d o) v) s = .next (putMachine s d o v) := by
  have hdb : devBlock s (machineAddr d o) = .machine d o := (devBlock_machine s hd ho).trans (if_pos hp)
  have hal : machineAddr d o % 8 = 0 := by simp only [machineAddr, Config.machineBase]; omega
  have hwin : Config.window ≤ machineAddr d o := by
    simp only [machineAddr, Config.machineBase, Config.window]; omega
  have hw : devWidth s (machineAddr d o) = 8 := by rw [devWidth, hdb]
  rw [exec_registerWrite_whole v hal hwin hw, devWrite_machine v hal hdb]

/-- Accesses to the register block of an absent die have no effect (R435). -/
theorem exec_absent_die {s : State} {d o : Nat} (v : Word64) (hd : d < 4) (hp : s.present d = false)
    (ho : o < 2 ^ 20) (ha : o % 8 = 0) :
    exec (.registerWrite (machineAddr d o) v) s = .next s ∧ exec (.rcRegisterRead (machineAddr d o)) s = .next s := by
  have hdb : devBlock s (machineAddr d o) = .hole := (devBlock_machine s hd ho).trans (if_neg (by simp [hp]))
  have hal : machineAddr d o % 8 = 0 := by simp only [machineAddr, Config.machineBase]; omega
  have hg : machineAddr d o / 8 * 8 = machineAddr d o := by omega
  have hwin : Config.window ≤ machineAddr d o := by
    simp only [machineAddr, Config.machineBase, Config.window]; omega
  have hw : devWidth s (machineAddr d o) = 8 := by rw [devWidth, hdb]
  refine ⟨?_, congrArg Host.Outcome.next ?_⟩
  · rw [exec_registerWrite_whole v hal hwin hw, devWrite_hole _ hal hdb]
  · simp only [hw, hg, if_pos hwin, devRead, clearRead, hdb]

/-- An address below the device window is no register. -/
theorem exec_below_window {s : State} {g : Nat} (v : Word64) (hg : g < Config.window) :
    exec (.registerWrite g v) s = .next s ∧ exec (.rcRegisterRead g) s = .next s :=
  ⟨next_if_neg (Nat.not_le.2 hg), next_if_neg (Nat.not_le.2 hg)⟩

/-- The second clause of O60: the registers of the device window (R11, R194, R435). -/
theorem deviceRegisters : DeviceRegisters := by
  intro s v
  have store (o : Nat) (h : StoreOnly o) := exec_registerWrite_store s v h
  refine ⟨store 0x40 ?_, store 0x80 ?_, store 0x98 ?_, store 0xA0 ?_, store 0xB0 ?_, store 0xB8 ?_, store 0xC0 ?_,
    store 0xC8 ?_, store 0xD0 ?_, store 0xE8 ?_, store 0xF8 ?_, exec_rcRegisterRead_mcount s, exec_registerWrite_tslice s v,
    fun k hk hp => ⟨?cerr, fun p hp' => ?ports, fun h16 => ?crcs⟩, fun d hd hp => ?die, fun d o hd ho hp => ?absent,
    fun g hg => exec_below_window v hg⟩
  case cerr => exact exec_registerWrite_isle hk hp v (by decide) (by decide) (by decide) (by decide)
  case ports =>
    exact (exec_registerWrite_isle hk hp v (by omega) (by omega) (by omega) (by omega)).trans
      (congrArg _ (putIsle_port s k v v true true hp'))
  case crcs => exact ⟨_, exec_rcRegisterRead_crcs hk hp h16, congrArg Die.port (die_updDie_self _ _ _)⟩
  case die =>
    obtain ⟨hsb, hss, hpb, hps⟩ := putMachine_port s v (show d ≠ 4 by omega)
    have write (o : Nat) (ho : o < 2 ^ 20) (ha : o % 8 = 0) := exec_registerWrite_machine v hd hp ho ha
    exact ⟨(write 0x3000 (by decide) (by decide)).trans (congrArg _ hsb),
      (write 0x3008 (by decide) (by decide)).trans (congrArg _ hss),
      (write 0x3010 (by decide) (by decide)).trans (congrArg _ hpb),
      (write 0x3018 (by decide) (by decide)).trans (congrArg _ hps)⟩
  case absent => exact exec_absent_die v hd hp (by omega) (by omega)
  all_goals exact ⟨by decide, by decide, by decide, by decide, by decide, by decide⟩

end Sys2Proof.Proofs.Device

namespace Sys2Proof.Proofs.Reset
open Sys2Proof Sys2Proof.Machine Sys2Proof.Claims Sys2Proof.Laws Sys2Proof.Proofs.Steps

/-! Isle reset, module reset and attestation (R113, R434, R436, R437). -/

/-! ### Isle reset (R436) -/

/-- The bit of an isle in ISLERST. -/
theorem getLsbD_two_pow {k : Nat} (hk : k < 64) : (BitVec.ofNat 64 (2 ^ k)).getLsbD k = true := by
  rw [BitVec.getLsbD_ofNat, Nat.testBit_two_pow_self]
  simp [hk]

/-- A HOLD bit set. -/
theorem bit_or_two_pow (w : Word64) {k : Nat} (hk : k < 64) : bit (w ||| BitVec.ofNat 64 (2 ^ k)) k = true := by
  rw [bit, BitVec.getLsbD_or, getLsbD_two_pow hk, Bool.or_true]

/-- A HOLD bit cleared. -/
theorem bit_and_not_two_pow (w : Word64) {k : Nat} (hk : k < 64) :
    bit (w &&& ~~~ BitVec.ofNat 64 (2 ^ k)) k = false := by
  rw [bit, BitVec.getLsbD_and, BitVec.getLsbD_not, getLsbD_two_pow hk]
  simp

/-- The bit of an isle of an absent die, or of no isle, takes no write (R436). -/
theorem setHold_absent (s : State) {k : Nat} (hold : Bool) (h : 64 ≤ k ∨ s.present (isleDie k) = false) :
    setHold s k hold = s :=
  if_pos (h.imp_right fun hp => by simp [hp])

/-- The mode of a core is in its status (R116). -/
theorem mode_of_status {c c' : Core} (h : c.status = c'.status) : c.mode = c'.mode := by simp only [Core.mode, h]

section
variable {s : State} {k : Nat} (hk : k < 64) (hp : s.present (isleDie k) = true)
include hk hp

/-- HOLD written 1 resets the isle and holds it (R113, R436). -/
theorem setHold_on : ∃ u, setHold s k true = u ∧ bit u.mgmt.islerst k = true ∧ u.mem = s.mem ∧
    u.isle k = (s.isle k).afterReset s.mgmt.bootpc := by
  have hc : ¬ (64 ≤ k ∨ ¬ s.present (isleDie k) = true) := by simp [hp]; omega
  refine ⟨_, (if_neg hc).trans (if_pos rfl), bit_or_two_pow _ hk, rfl, ?_⟩
  exact isle_updIsle_self _ _ _

/-- HOLD written 0 releases an isle that is held, at BOOTPC (R436). -/
theorem setHold_off (h : bit s.mgmt.islerst k = true) : ∃ u, setHold s k false = u ∧ bit u.mgmt.islerst k = false ∧
    (u.core k).pc = s.mgmt.bootpc ∧ u.mem = s.mem := by
  have hc : ¬ (64 ≤ k ∨ ¬ s.present (isleDie k) = true) := by simp [hp]; omega
  refine ⟨_, (if_neg hc).trans ((if_neg (by simp)).trans (if_pos h)), bit_and_not_two_pow _ hk, ?_, rfl⟩
  exact congrArg Core.pc (core_updCore_self _ _ _)

/-- HOLD written 0 leaves an isle that is not held. -/
theorem setHold_off_running (h : bit s.mgmt.islerst k = false) : setHold s k false = s := by
  have hc : ¬ (64 ≤ k ∨ ¬ s.present (isleDie k) = true) := by simp [hp]; omega
  exact (if_neg hc).trans ((if_neg (by simp)).trans (if_neg (by simp [State.inReset, h])))

/-- What an isle is after ISLE_RESET with HOLD 1 (R113, R240, R436). -/
theorem isleReset_hold : ∃ u, exec (.isleReset k true) s = .next u ∧ bit u.mgmt.islerst k = true ∧
    (u.core k).pc = s.mgmt.bootpc ∧ (u.core k).mode = .machine ∧ (u.core k).g = Core.reset.g ∧
    (u.core k).status = Core.reset.status ∧ (u.isle k).ctb = BitVec.allOnes 64 ∧ (u.isle k).fenced = (s.isle k).fenced ∧
    u.mem = s.mem := by
  obtain ⟨u, hu, hb, hm, hi⟩ := setHold_on hk hp
  refine ⟨u, congrArg _ hu, hb, ?_⟩
  have hmode : ((s.isle k).afterReset s.mgmt.bootpc).core.mode = .machine :=
    (mode_of_status (c := ((s.isle k).afterReset s.mgmt.bootpc).core) (c' := Core.reset) rfl).trans (by decide)
  simp only [State.core, hi]
  exact ⟨rfl, hmode, rfl, rfl, rfl, rfl, hm⟩

end

/-! ### Module reset (R434) -/

/-- A die after module reset: what the signed flash gives it stays (R434). -/
theorem moduleReset_shoals (s : State) : ∀ d, d < 4 → (Tbl.get Die.reset
    ((List.range 4).map (fun d => (d, { Die.reset with shoals := (s.die d).shoals }))) d).shoals = (s.die d).shoals
  | 0, _ => rfl
  | 1, _ => rfl
  | 2, _ => rfl
  | 3, _ => rfl

/-- The BOOTSTAT that names step `stage` of the boot ROM, the error `e` and the dies `p` (R436). -/
def bootstatOf (p stage e : Nat) : Word64 := BitVec.ofNat 64 (p * 2 ^ 16 + stage * 2 ^ 8 + e)

/-- BOOTSTAT holds its fields. -/
theorem bootstatOf_toNat {p stage e : Nat} (hp : p < 16) (hs : stage < 256) (he : e < 256) :
    (bootstatOf p stage e).toNat = p * 2 ^ 16 + stage * 2 ^ 8 + e := by
  rw [bootstatOf, BitVec.toNat_ofNat]
  exact Nat.mod_eq_of_lt (by omega)

/-- The dies that BOOTSTAT names are present. -/
theorem bit_bootstatOf (p : BitVec 4) (d : Nat) : bit (bootstatOf p.toNat 6 0) (16 + d) = p.getLsbD d := by
  rw [bit, ← BitVec.testBit_toNat, bootstatOf_toNat p.isLt (by decide) (by decide), ← BitVec.testBit_toNat,
    Nat.testBit_eq_decide_div_mod_eq, Nat.testBit_eq_decide_div_mod_eq, Nat.pow_add, ← Nat.div_div_eq_div_mul]
  congr 4
  omega

/-- The state after MODULE_RESET with BOOTSTAT `b` (R434). -/
def afterModuleReset (s : State) (b : Word64) : State :=
  { State.reset with
    active := s.active, agenda := s.agenda, free := s.free, keys := s.keys,
    dies := (List.range 4).map (fun d => (d, { Die.reset with shoals := (s.die d).shoals })),
    mgmt := { State.reset.mgmt with bootstat := b } }

/-- MODULE_RESET, by the code `e` of the step that failed, 0 for none (R434, R436). -/
theorem moduleReset_eq (s : State) {err e : BitVec 8} {present : BitVec 4}
    (he : (if err = 0 ∧ present = 0 then 5 else err) = e) : exec (.moduleReset err present) s = .next (afterModuleReset s
      (bootstatOf (if e = 0 then present.toNat else 0) (if e = 0 then 6 else e.toNat) e.toNat)) := by
  subst he
  rfl

/-- MODULE_RESET after a failed step of the boot ROM names the step (R436). -/
theorem moduleReset_failed (s : State) (present : BitVec 4) {err : BitVec 8} (h : err ≠ 0) :
    exec (.moduleReset err present) s = .next (afterModuleReset s (bootstatOf 0 err.toNat err.toNat)) := by
  rw [moduleReset_eq s (if_neg fun hp => h hp.1), if_neg h, if_neg h]

/-- MODULE_RESET that finds no die fails at step 5 (R434). -/
theorem moduleReset_noDie (s : State) : exec (.moduleReset 0 0) s = .next (afterModuleReset s (bootstatOf 0 5 5)) := by
  rw [moduleReset_eq s (if_pos ⟨rfl, rfl⟩)]
  rfl

/-- MODULE_RESET that succeeds names the present dies (R434, R436). -/
theorem moduleReset_ok (s : State) {present : BitVec 4} (h : present ≠ 0) :
    exec (.moduleReset 0 present) s = .next (afterModuleReset s (bootstatOf present.toNat 6 0)) := by
  rw [moduleReset_eq s (if_neg fun hp => h hp.2), if_pos rfl, if_pos rfl]
  rfl

/-! ### Attestation (R437) -/

section
variable {s : State} (hb : s.mgmt.attBusy = true)
include hb

/-- ATTESTATION_DONE with a report that could be built (R437). -/
theorem attestationDone_built {u : State}
    (h : buildReport s (engReq s .security .data 0) s.mgmt.attAddr.toNat = .ok u) :
    exec .attestationDone s = .next { u with mgmt := { u.mgmt with attBusy := false } } := by
  refine (next_if_pos hb).trans ?_
  simp only [h]

/-- ATTESTATION_DONE where the buffer faults: status 2 is written where it can be (R437). -/
theorem attestationDone_faulted {e : Cause × Word64} {u : State}
    (h : buildReport s (engReq s .security .data 0) s.mgmt.attAddr.toNat = .error e)
    (hw : writeVa s (engReq s .security .data 0) (s.mgmt.attAddr.toNat + 0x20) (bytesOf 2 8) 2 = .ok u) :
    exec .attestationDone s = .next { u with mgmt := { u.mgmt with attBusy := false } } := by
  refine (next_if_pos hb).trans ?_
  simp only [h, hw]

end

/-- The third clause of O60: reset and attestation (R113, R434, R436, R437). -/
theorem resetAndAttestation : ResetAndAttestation := by
  intro s w err present
  refine ⟨fun k hk hp => ⟨isleReset_hold hk hp, fun h => ?release, fun h => congrArg _ (setHold_off_running hk hp h)⟩,
    fun k h hk => congrArg _ (setHold_absent s h hk), ?module, fun h => next_if_pos h, fun h => next_if_neg (by simp [h]),
    fun h => next_if_neg (by simp [h]),
    fun h => ⟨fun u hu => attestationDone_built h hu, fun e u he hu => attestationDone_faulted h he hu⟩⟩
  case release =>
    obtain ⟨u, hu, hr⟩ := setHold_off hk hp h
    exact ⟨u, congrArg _ hu, hr⟩
  case module =>
    have shoals {d : Nat} (b : Word64) (hd : d < 4) : ((afterModuleReset s b).die d).shoals = (s.die d).shoals :=
      moduleReset_shoals s d hd
    by_cases he : err = 0
    · subst he
      by_cases hp : present = 0
      · subst hp
        exact ⟨_, moduleReset_noDie s, rfl, rfl, rfl, rfl, fun d hd => shoals _ hd, fun h => absurd rfl h, fun _ _ => rfl,
          fun _ h => absurd rfl h⟩
      · refine ⟨_, moduleReset_ok s hp, rfl, rfl, rfl, rfl, fun d hd => shoals _ hd, fun h => absurd rfl h,
          fun _ h => absurd h hp, fun _ _ => ⟨bootstatOf_toNat present.isLt (by decide) (by decide), fun d hd => ?_⟩⟩
        rw [State.present, ← bit_bootstatOf present d]
        simp [hd, afterModuleReset]
    · exact ⟨_, moduleReset_failed s present he, rfl, rfl, rfl, rfl, fun d hd => shoals _ hd,
        fun _ => (bootstatOf_toNat (by decide) err.isLt err.isLt).trans (by omega), fun h => absurd h he,
        fun h => absurd h he⟩

end Sys2Proof.Proofs.Reset

namespace Sys2Proof.Proofs.Power
open Sys2Proof Sys2Proof.Machine Sys2Proof.Claims Sys2Proof.Laws Sys2Proof.Proofs.Steps

/-! Power, and the accesses of the host (R1, R114, R207 to R210, R226, R227, R438, R439). -/

/-! ### The cycles of a step (R16, R114, R439) -/

/-- Setting an agent's time changes no cycle counter. -/
theorem die_setPts (s : State) (g : Agent) (p d : Nat) :
    ((s.setPts g p).die d).cyc = (s.die d).cyc ∧ ((s.setPts g p).die d).sfreq = (s.die d).sfreq := by
  cases g with
  | binding k =>
    by_cases h : d = k / 16
    · subst h; simp [State.setPts]
    · simp [State.setPts, die_updDie_ne _ _ _ _ h]
  | _ => exact ⟨rfl, rfl⟩

/-- An agent's time that advances by hits changes no cycle counter. -/
theorem die_advanceHits (s : State) (g : Agent) (d : Nat) :
    ((advanceHits s g).die d).cyc = (s.die d).cyc ∧ ((advanceHits s g).die d).sfreq = (s.die d).sfreq := by
  have note (u : State) (t : Nat) : (noteTime u t).die d = u.die d := by unfold noteTime; split <;> rfl
  unfold advanceHits
  dsimp only
  split
  · obtain ⟨hc, hf⟩ := die_setPts (noteTime { s with hits := s.hits.filter (fun e => e.1 != g) } (s.pts g + 1)) g
      (s.pts g + 1) d
    rw [note] at hc hf
    exact ⟨hc, hf⟩
  · exact ⟨rfl, rfl⟩

/-- The hits of R213 change no cycle counter. -/
theorem die_hitTimes (s : State) (d : Nat) :
    ((hitTimes s).die d).cyc = (s.die d).cyc ∧ ((hitTimes s).die d).sfreq = (s.die d).sfreq := by
  have fold (l : List (Agent × Nat)) : ∀ u : State, ((l.foldl (fun s e => advanceHits s e.1) u).die d).cyc = (u.die d).cyc ∧
      ((l.foldl (fun s e => advanceHits s e.1) u).die d).sfreq = (u.die d).sfreq := by
    induction l with
    | nil => exact fun u => ⟨rfl, rfl⟩
    | cons e r ih =>
      intro u
      obtain ⟨hc, hf⟩ := die_advanceHits u e.1 d
      exact ⟨((ih _).1).trans hc, ((ih _).2).trans hf⟩
  exact fold _ s

/-- The cycles that pass on die `d` in one step (R16, R439). -/
def dieCycles (n : Nat) (s : State) (d : Nat) : State :=
  s.updDie d (fun v =>
    let dt := (Config.elapsed (4 * n + d)).zeroExtend 64
    { v with cyc := v.cyc + dt, sfreq := if v.supply.stretched then v.sfreq + dt else v.sfreq })

/-- In one step a die's cycles count, and its stretched cycles while its clock is stretched (R114, R439). -/
theorem tick_die (s : State) {d : Nat} (hd : d < 4) : ∃ dt, ((tick s).die d).cyc = (s.die d).cyc + dt ∧
    ((tick s).die d).sfreq = (if (s.die d).supply.stretched then (s.die d).sfreq + dt else (s.die d).sfreq) := by
  refine ⟨(Config.elapsed (4 * s.free + d)).zeroExtend 64, ?_⟩
  have all : (dieCycles s.free (dieCycles s.free (dieCycles s.free (dieCycles s.free s 0) 1) 2) 3).die d =
      (dieCycles s.free s d).die d := by
    have ne (u : State) {e : Nat} (h : d ≠ e) : (dieCycles s.free u e).die d = u.die d := die_updDie_ne _ _ _ _ h
    have same {u : State} (h : u.die d = s.die d) : (dieCycles s.free u d).die d = (dieCycles s.free s d).die d := by
      simp only [dieCycles, die_updDie_self, h]
    match d, hd with
    | 0, _ => rw [ne _ (by decide), ne _ (by decide), ne _ (by decide)]
    | 1, _ => rw [ne _ (by decide), ne _ (by decide)]; exact same (ne _ (by decide))
    | 2, _ => rw [ne _ (by decide)]; exact same ((ne _ (by decide)).trans (ne _ (by decide)))
    | 3, _ => exact same ((ne _ (by decide)).trans ((ne _ (by decide)).trans (ne _ (by decide))))
  obtain ⟨hc, hf⟩ := die_hitTimes (dieCycles s.free (dieCycles s.free (dieCycles s.free (dieCycles s.free s 0) 1) 2) 3) d
  rw [all] at hc hf
  refine ⟨hc.trans ?_, hf.trans ?_⟩ <;> simp only [dieCycles, die_updDie_self]

/-! ### The host (R226, R227) -/

/-- An atomic of a host core covers four or eight bytes. -/
theorem amoBytes (z : BitVec 2) : amoWidth z / 8 = if z = 3 then 8 else 4 := by
  unfold amoWidth; split <;> rfl

section
variable {s : State} {g : Nat} {w : Word64}

section
variable {wr : Bool} (h8 : g % 8 = 0) (hg : g < Config.window)
include h8 hg

/-- An aligned access over the IO path that stage 2 refuses does nothing (R227). -/
theorem ioPath_error {e : Cause} (h : stage2 s 4 0 g (if wr then .store else .load) = .error e) :
    exec (.ioPathAccess wr g w) s = .next s := by
  refine (next_if_neg (by omega)).trans ?_
  simp only [h]

/-- An aligned access over the IO path reaches the home memory (R227). -/
theorem ioPath_ok {key : Nat} {u : State} (h : stage2 s 4 0 g (if wr then .store else .load) = .ok (key, u)) :
    exec (.ioPathAccess wr g w) s = .next (if wr then writeHome u key (bytesOf w.toNat 8) else u) := by
  refine (next_if_neg (by omega)).trans ?_
  simp only [h]

end

/-- An access over the lease bridge that is not aligned, of no core, or to the device window does nothing (R226). -/
theorem leaseBridge_refused {h : Nat} {op : HostOp} (hr : 16 ≤ h ∨ g % hostBytes op ≠ 0 ∨ Config.window ≤ g) :
    exec (.leaseBridgeAccess h op g w) s = .next s := next_if_pos hr

section
variable {h : Nat} {op : HostOp} (hh : h < 16) (hg : g < Config.window) (ha : g % hostBytes op = 0)
include hh hg ha

/-- No check of the lease bridge stops an aligned access of an application core below the device window. -/
theorem leaseBridge_passes : ¬ (Config.hostCores ≤ h ∨ g % hostBytes op ≠ 0 ∨ Config.window ≤ g) := by
  simp only [Config.hostCores]
  omega

/-- An access over the lease bridge that stage 2 refuses does nothing (R226). -/
theorem leaseBridge_error {e : Cause} (he : stage2 s 4 0 g (hostAccess op) = .error e) :
    exec (.leaseBridgeAccess h op g w) s = .next s := by
  refine (next_if_neg (leaseBridge_passes hh hg ha)).trans ?_
  simp only [he]

/-- An access over the lease bridge is one of a COH agent of its core (R207 to R210, R226). -/
theorem leaseBridge_ok {key : Nat} {u : State} (hk : stage2 s 4 0 g (hostAccess op) = .ok (key, u)) :
    exec (.leaseBridgeAccess h op g w) s = .next (hostPerform u (.host h) op key w) := by
  refine (next_if_neg (leaseBridge_passes hh hg ha)).trans ?_
  simp only [hk]

end

/-- The load and the store of a host core (R207, R208). -/
theorem leaseBridge_loadStore {h : Nat} {z : BitVec 2} (hh : h < 16) (hg : g < Config.window) (ha : g % 2 ^ z.toNat = 0) :
    (∀ e, stage2 s 4 0 g .load = .error e → exec (.leaseBridgeAccess h (.load z) g w) s = .next s) ∧
    (∀ e, stage2 s 4 0 g .store = .error e → exec (.leaseBridgeAccess h (.store z) g w) s = .next s) ∧
    (∀ key u, stage2 s 4 0 g .load = .ok (key, u) →
      exec (.leaseBridgeAccess h (.load z) g w) s = .next (cohLoad u (.host h) key (2 ^ z.toNat)).2) ∧
    (∀ key u, stage2 s 4 0 g .store = .ok (key, u) → exec (.leaseBridgeAccess h (.store z) g w) s =
      .next (cohStore u (.host h) key (bytesOf w.toNat (2 ^ z.toNat)))) :=
  ⟨fun _ he => leaseBridge_error hh hg ha he, fun _ he => leaseBridge_error hh hg ha he,
    fun _ _ hk => leaseBridge_ok (op := .load z) hh hg ha hk, fun _ _ hk => leaseBridge_ok (op := .store z) hh hg ha hk⟩

/-- The atomics of a host core (R209). -/
theorem leaseBridge_atomic {h n : Nat} {z : BitVec 2} (o : BitVec 4) (x : Word64) (hn : amoWidth z / 8 = n) (hh : h < 16)
    (hg : g < Config.window) (ha : g % n = 0) :
    (∀ e, stage2 s 4 0 g .atomic = .error e → exec (.leaseBridgeAccess h (.amo z o) g w) s = .next s ∧
      exec (.leaseBridgeAccess h (.cas z x) g w) s = .next s) ∧
    (∀ key u, stage2 s 4 0 g .atomic = .ok (key, u) →
      exec (.leaseBridgeAccess h (.amo z o) g w) s = .next (atomicCoh u (.host h) key n (fun l =>
        some (bytesOf (amoResult o.toNat (8 * n) (numOf l) w.toNat) n))).2 ∧
      exec (.leaseBridgeAccess h (.cas z x) g w) s = .next (atomicCoh u (.host h) key n (fun l =>
        if numOf l = x.toNat % 2 ^ (8 * n) then some (bytesOf w.toNat n) else none)).2) := by
  subst hn
  exact ⟨fun _ he => ⟨leaseBridge_error hh hg ha he, leaseBridge_error hh hg ha he⟩,
    fun _ _ hk => ⟨leaseBridge_ok (op := .amo z o) hh hg ha hk, leaseBridge_ok (op := .cas z x) hh hg ha hk⟩⟩

end

/-- The fourth clause of O60: power and the host (R1, R114, R207 to R210, R226, R227, R438, R439). -/
theorem powerAndHost : PowerAndHost := by
  intro s d h g c z o w x
  refine ⟨fun hd => tick_die s hd, ⟨fun hp hu => next_if_pos ?sag, fun h => next_if_neg ?noSag,
      fun hu hr => next_if_pos ⟨hu, hr⟩, fun h => next_if_neg ?noEnd⟩,
    ⟨_, rfl, tbl_get_put_self _ _ _ _, rfl⟩, fun hr wr => next_if_pos hr,
    fun h8 hg => ⟨fun e he => ioPath_error h8 hg he, fun e he => ioPath_error h8 hg he,
      fun key u hk => ioPath_ok h8 hg hk, fun key u hk => ioPath_ok h8 hg hk⟩,
    fun op hr => leaseBridge_refused hr,
    fun hh hg => ⟨fun ha => leaseBridge_loadStore hh hg ha, fun ha => leaseBridge_atomic o x (amoBytes z) hh hg ha⟩⟩
  case sag => exact ⟨hp, by simp [hu]⟩
  case noSag => exact fun ⟨h1, h2⟩ => by rcases h with h | h <;> simp [h] at h1 h2
  case noEnd => exact fun ⟨h1, h2⟩ => h.elim (by simp [h1]) (Nat.not_lt.2 h2)

end Sys2Proof.Proofs.Power

namespace Sys2Proof.Proofs.Lease
open Sys2Proof Sys2Proof.Machine Sys2Proof.Claims Sys2Proof.Laws Sys2Proof.Proofs.Steps

/-! The lease clock (R213, R214). -/

/-! ### Times that advance by hits (R213, R214) -/

section
variable {s : State} {g : Agent}

/-- The agent has hit since its time last advanced by hits (R213). -/
theorem hits_any : s.hits.any (fun e => e.1 == g) = true ↔ ∃ n, (g, n) ∈ s.hits := by
  simp only [List.any_eq_true, beq_iff_eq]
  exact ⟨fun ⟨⟨_, n⟩, hm, he⟩ => ⟨n, he ▸ hm⟩, fun ⟨n, hm⟩ => ⟨(g, n), hm, rfl⟩⟩

/-- Some time of the agent or of a line has reached 2^47 (R214). -/
theorem rolls_iff : (2 ^ 47 ≤ s.pts g ∨ s.times.any (fun e => decide (2 ^ 47 ≤ e.2.2)) = true) ↔
    (2 ^ 47 ≤ s.pts g ∨ ∃ e, e ∈ s.times ∧ 2 ^ 47 ≤ e.2.2) := by
  simp only [List.any_eq_true, decide_eq_true_eq]

/-- The state in which the hits of agent `g` have been counted. -/
def counted (s : State) (g : Agent) : State := { s with hits := s.hits.filter (fun e => e.1 != g) }

/-- A time that stays below 2^47 moves on by one (R213). -/
theorem advanceHits_low (h : s.pts g + 1 < 2 ^ 47) : advanceHits s g = (counted s g).setPts g (s.pts g + 1) := by
  have h48 : s.pts g + 1 < 2 ^ 48 := by omega
  simp only [advanceHits, if_pos h48, noteTime, if_pos h, counted]

/-- A time that reaches 2^47 asks for a rebase (R214). -/
theorem advanceHits_high (h : 2 ^ 47 ≤ s.pts g + 1) (h48 : s.pts g + 1 < 2 ^ 48) :
    advanceHits s g = ({ counted s g with rollover := true } : State).setPts g (s.pts g + 1) := by
  simp only [advanceHits, if_pos h48, noteTime, if_neg (Nat.not_lt.2 h), counted]

/-- A time does not pass 2^48 − 1 (R214). -/
theorem advanceHits_end (h : 2 ^ 48 ≤ s.pts g + 1) : advanceHits s g = counted s g := by
  simp only [advanceHits, if_neg (Nat.not_lt.2 h), counted]

end

/-! ### The rebase (R214) -/

/-- A table whose entries are all changed in a way that keeps the default reads changed. -/
theorem tbl_get_map {α : Type} {d : α} {f : α → α} (hd : f d = d) (m : Tbl α) (k : Nat) :
    Tbl.get d (m.map (fun e => (e.1, f e.2))) k = f (m.get d k) := by
  induction m with
  | nil => simp [Tbl.get, hd]
  | cons e r ih =>
    by_cases h : k = e.1
    · simp [Tbl.get, h]
    · simp [Tbl.get, h, ih]

/-- An isle after the rebase. -/
theorem isle_rebase (s : State) (k : Nat) : (rebase s).isle k = (s.isle k).rebase (leastPts s) :=
  tbl_get_map (f := (Isle.rebase · (leastPts s))) (by simp [Isle.rebase, Isle.reset, Core.reset]) _ _

/-- A tile after the rebase. -/
theorem tile_rebase (s : State) (t : Nat) : (rebase s).tile t = (s.tile t).rebase (leastPts s) :=
  tbl_get_map (f := (Tile.rebase · (leastPts s))) (by simp [Tile.rebase, Tile.reset, Cell.reset]) _ _

/-- A rebased isle holds no COH copy (R214). -/
theorem rebase_l2 {i : Isle} {b : Nat} : ∀ e, e ∈ (i.rebase b).l2 → e.2.coh = false := by
  intro e he
  simpa using (List.mem_filter.1 he).2

/-- The fifth clause of O60: the lease clock (R213, R214). -/
theorem leaseClock : LeaseClock := by
  intro s g
  dsimp only
  rw [← hits_any, ← rolls_iff]
  refine ⟨fun h hn => (next_if_pos h).trans (congrArg _ (advanceHits_low hn)),
    fun h hn h48 => (next_if_pos h).trans (congrArg _ (advanceHits_high hn h48)),
    fun h hn => (next_if_pos h).trans (congrArg _ (advanceHits_end hn)), fun h => next_if_neg h,
    fun h => next_if_pos h, fun h => next_if_neg h, fun h => next_if_neg (by simp [h]),
    fun h => ⟨_, next_if_pos h, rfl, rfl, rfl, fun n => ?_, rfl, rfl⟩⟩
  simp only [State.core, State.cell, isle_rebase, tile_rebase]
  exact ⟨rfl, rfl, rfl, rfl, rfl, rebase_l2⟩

end Sys2Proof.Proofs.Lease

namespace Sys2Proof.Proofs.Devices

/-- Settles O60: bank switches, device registers, reset and attestation, power and the host, and the lease clock. The model's
choices in it are log entries 22 (the power reading), 55 (what a module reset and an isle reset keep), 56 (the rebase), 58 (the
host's tenant and access sizes), 63 (the 120 cycles of a stretch) and 79 (the hits). -/
theorem banksDevicesResetAndPower : Obligations.BanksDevicesResetAndPower :=
  ⟨Banks.bankSwitches, Device.deviceRegisters, Reset.resetAndAttestation, Power.powerAndHost, Lease.leaseClock⟩

end Sys2Proof.Proofs.Devices
